-- ==== Sys2Proof/Word.lean ====
section
/-!
DEFINITION. The word types of the ZN-740 and the sparse tables that hold its register files and its storage.
-/
namespace Sys2Proof

/-- A 64-bit general or control register (R167). -/
abbrev Word := BitVec 64
/-- One byte of storage. -/
abbrev Byte := BitVec 8
/-- The contents of a v register or of a channel entry (R169, R173). -/
abbrev VReg := BitVec 2048
/-- The 128-byte image of a stream register (R176). -/
abbrev Image := BitVec 1024

/-- A sparse table: the value held at each listed number; every other number holds the default of its reader. -/
abbrev Tab (α : Type) := List (Nat × α)

/-- The value a table holds at `k`, or `z` where none is listed. -/
def Tab.get {α : Type} (z : α) (t : Tab α) (k : Nat) : α :=
  match t with
  | [] => z
  | p :: r => if p.1 = k then p.2 else Tab.get z r k

/-- The value listed at `k`, if one is. -/
def Tab.look {α : Type} (t : Tab α) (k : Nat) : Option α :=
  match t with
  | [] => none
  | p :: r => if p.1 = k then some p.2 else Tab.look r k

/-- The table with `v` at `k`. -/
def Tab.set {α : Type} (t : Tab α) (k : Nat) (v : α) : Tab α :=
  match t with
  | [] => [(k, v)]
  | p :: r => if k < p.1 then (k, v) :: p :: r else if p.1 = k then (k, v) :: r else p :: Tab.set r k v

/-- The table with nothing listed at `k`. -/
def Tab.erase {α : Type} (t : Tab α) (k : Nat) : Tab α := t.filter (fun p => p.1 != k)

/-- The numbers in `t` rise strictly and all lie at or above `lo`. -/
def Tab.rising {α : Type} (lo : Nat) (t : Tab α) : Bool :=
  match t with
  | [] => true
  | p :: r => decide (lo ≤ p.1) && Tab.rising (p.1 + 1) r

end Sys2Proof
end

