-- ==== Sys2Proof/Syntax.lean ====
section
/-!
DEFINITION. The instruction set: one constructor per row of spec/opcode_table.json.
The first 203 rows that have an encoding are words and word forms of the four engines (R190 to R193; a row
`…_EXT` is the form with the extension word). The other rows are events: steps of the device that no word
encodes (spec/95). An operand keeps the width and the position order of its field; `t` holds the four token
bits [28:25] (R42, R183). An event's arguments name the unit it happens at: `d` a die, `l` a logical cluster,
`c` a logical cell, `g` a gang, `p` a port, `n` a node or number, `i` a place in a queue.
-/
namespace Sys2Proof

/-- One instruction word with its operand fields, or one event of the device. -/
inductive Instr where
  /-- R201. Writes the 64-bit sum of two g registers to gd. -/
  | add (t : BitVec 4) (d : BitVec 5) (a : BitVec 5) (b : BitVec 5)
  /-- R201. Writes the 64-bit difference of two g registers to gd. -/
  | sub (t : BitVec 4) (d : BitVec 5) (a : BitVec 5) (b : BitVec 5)
  /-- R201. Writes the low 64 bits of the product of two g registers to gd. -/
  | mul (t : BitVec 4) (d : BitVec 5) (a : BitVec 5) (b : BitVec 5)
  /-- R201. Writes the high 64 bits of the signed or unsigned product to gd. -/
  | mulh (t : BitVec 4) (d : BitVec 5) (a : BitVec 5) (s : BitVec 1) (b : BitVec 5)
  /-- R202. Writes the truncated quotient, with defined results for zero divisor and overflow. -/
  | div (t : BitVec 4) (d : BitVec 5) (a : BitVec 5) (s : BitVec 1) (b : BitVec 5)
  /-- R202. Writes the remainder of truncated division, with defined results for zero divisor and overflow. -/
  | rem (t : BitVec 4) (d : BitVec 5) (a : BitVec 5) (s : BitVec 1) (b : BitVec 5)
  /-- R201. Writes the bitwise AND of two g registers. -/
  | andr (t : BitVec 4) (d : BitVec 5) (a : BitVec 5) (b : BitVec 5)
  /-- R201. Writes the bitwise OR of two g registers. -/
  | orr (t : BitVec 4) (d : BitVec 5) (a : BitVec 5) (b : BitVec 5)
  /-- R201. Writes the bitwise XOR of two g registers. -/
  | xorr (t : BitVec 4) (d : BitVec 5) (a : BitVec 5) (b : BitVec 5)
  /-- R201. Shifts ga left by gb[5:0]. -/
  | shl (t : BitVec 4) (d : BitVec 5) (a : BitVec 5) (b : BitVec 5)
  /-- R201. Shifts ga right logically by gb[5:0]. -/
  | shr (t : BitVec 4) (d : BitVec 5) (a : BitVec 5) (b : BitVec 5)
  /-- R201. Shifts ga right arithmetically by gb[5:0]. -/
  | sar (t : BitVec 4) (d : BitVec 5) (a : BitVec 5) (b : BitVec 5)
  /-- R201. Rotates ga right by gb[5:0]. -/
  | ror (t : BitVec 4) (d : BitVec 5) (a : BitVec 5) (b : BitVec 5)
  /-- R201. Writes the smaller of two g registers, signed or unsigned. -/
  | minr (t : BitVec 4) (d : BitVec 5) (a : BitVec 5) (s : BitVec 1) (b : BitVec 5)
  /-- R201. Writes the larger of two g registers, signed or unsigned. -/
  | maxr (t : BitVec 4) (d : BitVec 5) (a : BitVec 5) (s : BitVec 1) (b : BitVec 5)
  /-- R201. Writes 1 if ga is less than gb, signed or unsigned, else 0. -/
  | slt (t : BitVec 4) (d : BitVec 5) (a : BitVec 5) (s : BitVec 1) (b : BitVec 5)
  /-- R201. Writes 1 if ga equals gb, else 0. -/
  | seq (t : BitVec 4) (d : BitVec 5) (a : BitVec 5) (b : BitVec 5)
  /-- R201. Writes the count of leading zero bits of ga. -/
  | clz (t : BitVec 4) (d : BitVec 5) (a : BitVec 5)
  /-- R201. Writes the count of trailing zero bits of ga. -/
  | ctz (t : BitVec 4) (d : BitVec 5) (a : BitVec 5)
  /-- R201. Writes the number of 1 bits in ga. -/
  | popc (t : BitVec 4) (d : BitVec 5) (a : BitVec 5)
  /-- R203. Extracts the bit field that gb describes from ga. -/
  | bext (t : BitVec 4) (d : BitVec 5) (a : BitVec 5) (b : BitVec 5)
  /-- R203. Inserts the low bits of ga into the field of gd that gb describes. -/
  | bins (t : BitVec 4) (d : BitVec 5) (a : BitVec 5) (b : BitVec 5)
  /-- R204. Adds an 8-bit sign-extended immediate to ga. -/
  | addi (t : BitVec 4) (d : BitVec 5) (a : BitVec 5) (i : BitVec 8)
  /-- R204. Adds a 32-bit sign-extended immediate from the extension word to ga. -/
  | addiExt (t : BitVec 4) (d : BitVec 5) (a : BitVec 5) (x : BitVec 32)
  /-- R204. Bitwise AND of ga with an 8-bit sign-extended immediate. -/
  | andi (t : BitVec 4) (d : BitVec 5) (a : BitVec 5) (i : BitVec 8)
  /-- R204. Bitwise AND of ga with a 32-bit sign-extended immediate. -/
  | andiExt (t : BitVec 4) (d : BitVec 5) (a : BitVec 5) (x : BitVec 32)
  /-- R204. Bitwise OR of ga with an 8-bit sign-extended immediate. -/
  | ori (t : BitVec 4) (d : BitVec 5) (a : BitVec 5) (i : BitVec 8)
  /-- R204. Bitwise OR of ga with a 32-bit sign-extended immediate. -/
  | oriExt (t : BitVec 4) (d : BitVec 5) (a : BitVec 5) (x : BitVec 32)
  /-- R204. Bitwise XOR of ga with an 8-bit sign-extended immediate. -/
  | xori (t : BitVec 4) (d : BitVec 5) (a : BitVec 5) (i : BitVec 8)
  /-- R204. Bitwise XOR of ga with a 32-bit sign-extended immediate. -/
  | xoriExt (t : BitVec 4) (d : BitVec 5) (a : BitVec 5) (x : BitVec 32)
  /-- R204. Shifts ga left by IMM[5:0]. -/
  | shli (t : BitVec 4) (d : BitVec 5) (a : BitVec 5) (i : BitVec 8)
  /-- R204. Shifts ga left by IMM[5:0], immediate in the extension. -/
  | shliExt (t : BitVec 4) (d : BitVec 5) (a : BitVec 5) (x : BitVec 32)
  /-- R204. Shifts ga right logically by IMM[5:0]. -/
  | shri (t : BitVec 4) (d : BitVec 5) (a : BitVec 5) (i : BitVec 8)
  /-- R204. Shifts ga right logically by IMM[5:0], immediate in the extension. -/
  | shriExt (t : BitVec 4) (d : BitVec 5) (a : BitVec 5) (x : BitVec 32)
  /-- R204. Shifts ga right arithmetically by IMM[5:0]. -/
  | sari (t : BitVec 4) (d : BitVec 5) (a : BitVec 5) (i : BitVec 8)
  /-- R204. Shifts ga right arithmetically by IMM[5:0], immediate in the extension. -/
  | sariExt (t : BitVec 4) (d : BitVec 5) (a : BitVec 5) (x : BitVec 32)
  /-- R204. Writes 1 if ga is signed-less than the immediate. -/
  | slti (t : BitVec 4) (d : BitVec 5) (a : BitVec 5) (i : BitVec 8)
  /-- R204. Writes 1 if ga is signed-less than the 32-bit immediate. -/
  | sltiExt (t : BitVec 4) (d : BitVec 5) (a : BitVec 5) (x : BitVec 32)
  /-- R204. Loads the sign-extended 8-bit immediate into gd. -/
  | li (t : BitVec 4) (d : BitVec 5) (i : BitVec 8)
  /-- R204. Loads the sign-extended 32-bit immediate into gd. -/
  | liExt (t : BitVec 4) (d : BitVec 5) (x : BitVec 32)
  /-- R204. Places the immediate in bits [63:32] of gd, keeping the low half. -/
  | lih (t : BitVec 4) (d : BitVec 5) (i : BitVec 8)
  /-- R204. Places the 32-bit immediate in bits [63:32] of gd. -/
  | lihExt (t : BitVec 4) (d : BitVec 5) (x : BitVec 32)
  /-- R204. Multiplies ga by the 8-bit immediate modulo 2^64. -/
  | muli (t : BitVec 4) (d : BitVec 5) (a : BitVec 5) (i : BitVec 8)
  /-- R204. Multiplies ga by the 32-bit immediate modulo 2^64. -/
  | muliExt (t : BitVec 4) (d : BitVec 5) (a : BitVec 5) (x : BitVec 32)
  /-- R205. Loads a sign-extended byte into gd. -/
  | ldI8 (t : BitVec 4) (d : BitVec 5) (a : BitVec 5) (i : BitVec 8)
  /-- R205. Loads a sign-extended byte with a 32-bit offset. -/
  | ldI8Ext (t : BitVec 4) (d : BitVec 5) (a : BitVec 5) (x : BitVec 32)
  /-- R205. Loads a sign-extended halfword into gd. -/
  | ldI16 (t : BitVec 4) (d : BitVec 5) (a : BitVec 5) (i : BitVec 8)
  /-- R205. Loads a sign-extended halfword with a 32-bit offset. -/
  | ldI16Ext (t : BitVec 4) (d : BitVec 5) (a : BitVec 5) (x : BitVec 32)
  /-- R205. Loads a sign-extended word into gd. -/
  | ldI32 (t : BitVec 4) (d : BitVec 5) (a : BitVec 5) (i : BitVec 8)
  /-- R205. Loads a sign-extended word with a 32-bit offset. -/
  | ldI32Ext (t : BitVec 4) (d : BitVec 5) (a : BitVec 5) (x : BitVec 32)
  /-- R205. Loads a doubleword into gd. -/
  | ld64 (t : BitVec 4) (d : BitVec 5) (a : BitVec 5) (i : BitVec 8)
  /-- R205. Loads a doubleword with a 32-bit offset. -/
  | ld64Ext (t : BitVec 4) (d : BitVec 5) (a : BitVec 5) (x : BitVec 32)
  /-- R205. Loads a zero-extended byte into gd. -/
  | ldN8 (t : BitVec 4) (d : BitVec 5) (a : BitVec 5) (i : BitVec 8)
  /-- R205. Loads a zero-extended byte with a 32-bit offset. -/
  | ldN8Ext (t : BitVec 4) (d : BitVec 5) (a : BitVec 5) (x : BitVec 32)
  /-- R205. Loads a zero-extended halfword into gd. -/
  | ldN16 (t : BitVec 4) (d : BitVec 5) (a : BitVec 5) (i : BitVec 8)
  /-- R205. Loads a zero-extended halfword with a 32-bit offset. -/
  | ldN16Ext (t : BitVec 4) (d : BitVec 5) (a : BitVec 5) (x : BitVec 32)
  /-- R205. Loads a zero-extended word into gd. -/
  | ldN32 (t : BitVec 4) (d : BitVec 5) (a : BitVec 5) (i : BitVec 8)
  /-- R205. Loads a zero-extended word with a 32-bit offset. -/
  | ldN32Ext (t : BitVec 4) (d : BitVec 5) (a : BitVec 5) (x : BitVec 32)
  /-- R206. Stores the low byte of gb. -/
  | st8 (t : BitVec 4) (b : BitVec 5) (a : BitVec 5) (i : BitVec 8)
  /-- R206. Stores the low byte of gb with a 32-bit offset. -/
  | st8Ext (t : BitVec 4) (b : BitVec 5) (a : BitVec 5) (x : BitVec 32)
  /-- R206. Stores the low halfword of gb. -/
  | st16 (t : BitVec 4) (b : BitVec 5) (a : BitVec 5) (i : BitVec 8)
  /-- R206. Stores the low halfword of gb with a 32-bit offset. -/
  | st16Ext (t : BitVec 4) (b : BitVec 5) (a : BitVec 5) (x : BitVec 32)
  /-- R206. Stores the low word of gb. -/
  | st32 (t : BitVec 4) (b : BitVec 5) (a : BitVec 5) (i : BitVec 8)
  /-- R206. Stores the low word of gb with a 32-bit offset. -/
  | st32Ext (t : BitVec 4) (b : BitVec 5) (a : BitVec 5) (x : BitVec 32)
  /-- R206. Stores gb as a doubleword. -/
  | st64 (t : BitVec 4) (b : BitVec 5) (a : BitVec 5) (i : BitVec 8)
  /-- R206. Stores gb as a doubleword with a 32-bit offset. -/
  | st64Ext (t : BitVec 4) (b : BitVec 5) (a : BitVec 5) (x : BitVec 32)
  /-- R207. Hints a translation prefetch with no observable effect. -/
  | pref (t : BitVec 4) (a : BitVec 5) (i : BitVec 8)
  /-- R207. Prefetch hint with a 32-bit offset. -/
  | prefExt (t : BitVec 4) (a : BitVec 5) (x : BitVec 32)
  /-- R208. Loads a 128-byte stream image into a stream register. -/
  | sldr (t : BitVec 4) (r : BitVec 4) (a : BitVec 5) (i : BitVec 8)
  /-- R208. Loads a stream image with a 32-bit offset. -/
  | sldrExt (t : BitVec 4) (r : BitVec 4) (a : BitVec 5) (x : BitVec 32)
  /-- R208. Stores a stream register's 128-byte image to memory. -/
  | sstr (t : BitVec 4) (r : BitVec 4) (a : BitVec 5) (i : BitVec 8)
  /-- R208. Stores a stream image with a 32-bit offset. -/
  | sstrExt (t : BitVec 4) (r : BitVec 4) (a : BitVec 5) (x : BitVec 32)
  /-- R146. Holds later accesses until earlier loads perform and own-store stores apply. -/
  | qsync (t : BitVec 4)
  /-- R153. Holds later S and V accesses until earlier accesses in the scope have applied. -/
  | fence (t : BitVec 4) (r : BitVec 3)
  /-- R211. Acts only on its token bits; with none it is NOP. -/
  | tok (t : BitVec 4)
  /-- R223. Creates a closure from an environment image in a free Guestbook entry. -/
  | capture (t : BitVec 4) (k : BitVec 4) (a : BitVec 5)
  /-- R225. Copies a handle and adds 1 to its reference count. -/
  | kdup (t : BitVec 4) (d : BitVec 4) (k : BitVec 4)
  /-- R225. Subtracts 1 from a handle's count, freeing the entry at 0. -/
  | kdrop (t : BitVec 4) (k : BitVec 4)
  /-- R226. Adds a reference and stores a handle to memory. -/
  | kst (t : BitVec 4) (k : BitVec 4) (a : BitVec 5) (i : BitVec 8)
  /-- R226. Stores a handle with a 32-bit offset, adding a reference. -/
  | kstExt (t : BitVec 4) (k : BitVec 4) (a : BitVec 5) (x : BitVec 32)
  /-- R226. Loads a handle from memory and adds a reference. -/
  | kld (t : BitVec 4) (k : BitVec 4) (a : BitVec 5) (i : BitVec 8)
  /-- R226. Loads a handle with a 32-bit offset, adding a reference. -/
  | kldExt (t : BitVec 4) (k : BitVec 4) (a : BitVec 5) (x : BitVec 32)
  /-- R230. Allocates a new frame in the frame area and writes its header. -/
  | frame (t : BitVec 4) (d : BitVec 5) (a : BitVec 5)
  /-- R231. Retires the newest frame, zeroing its generation. -/
  | frpop (t : BitVec 4) (a : BitVec 5)
  /-- R233. Reads a control register into gd. -/
  | sysrd (t : BitVec 4) (g : BitVec 5) (c : BitVec 13)
  /-- R233. Writes a control register field by field from ga. -/
  | syswr (t : BitVec 4) (g : BitVec 5) (c : BitVec 13)
  /-- R234. Requests a trap: halts the gang with a class 0x00 record. -/
  | trap (t : BitVec 4) (n : BitVec 8)
  /-- R235. Returns the Innkeeper from its exception entry to IKEPC. -/
  | eret (t : BitVec 4)
  /-- R210. Pushes a g value into a channel. -/
  | cpush (t : BitVec 4) (c : BitVec 4) (a : BitVec 5)
  /-- R210. Pops or peeks a channel's head into gd. -/
  | cpop (t : BitVec 4) (d : BitVec 5) (p : BitVec 1) (c : BitVec 4)
  /-- R227. Pushes a handle into a channel without changing its count. -/
  | kpush (t : BitVec 4) (c : BitVec 4) (k : BitVec 4)
  /-- R227. Pops a handle from a channel without changing its count. -/
  | kpop (t : BitVec 4) (k : BitVec 4) (c : BitVec 4)
  /-- R212. All-agent jump by an 18-bit word offset. -/
  | j (t : BitVec 4) (o : BitVec 18)
  /-- R212. All-agent jump by a 50-bit word offset. -/
  | jExt (t : BitVec 4) (o : BitVec 18) (x : BitVec 32)
  /-- R212. All-agent jump that writes the return address to g23. -/
  | jl (t : BitVec 4) (o : BitVec 18)
  /-- R212. All-agent jump and link with a 50-bit offset. -/
  | jlExt (t : BitVec 4) (o : BitVec 18) (x : BitVec 32)
  /-- R213. All-agent branch when ga equals gb. -/
  | beq (t : BitVec 4) (a : BitVec 5) (b : BitVec 5) (o : BitVec 8)
  /-- R213. BEQ with a 32-bit offset. -/
  | beqExt (t : BitVec 4) (a : BitVec 5) (b : BitVec 5) (x : BitVec 32)
  /-- R213. All-agent branch when ga differs from gb. -/
  | bne (t : BitVec 4) (a : BitVec 5) (b : BitVec 5) (o : BitVec 8)
  /-- R213. BNE with a 32-bit offset. -/
  | bneExt (t : BitVec 4) (a : BitVec 5) (b : BitVec 5) (x : BitVec 32)
  /-- R213. All-agent branch when ga is signed-less than gb. -/
  | blt (t : BitVec 4) (a : BitVec 5) (b : BitVec 5) (o : BitVec 8)
  /-- R213. BLT with a 32-bit offset. -/
  | bltExt (t : BitVec 4) (a : BitVec 5) (b : BitVec 5) (x : BitVec 32)
  /-- R213. All-agent branch when ga is signed-greater or equal to gb. -/
  | bge (t : BitVec 4) (a : BitVec 5) (b : BitVec 5) (o : BitVec 8)
  /-- R213. BGE with a 32-bit offset. -/
  | bgeExt (t : BitVec 4) (a : BitVec 5) (b : BitVec 5) (x : BitVec 32)
  /-- R213. All-agent branch when ga is unsigned-less than gb. -/
  | bltn (t : BitVec 4) (a : BitVec 5) (b : BitVec 5) (o : BitVec 8)
  /-- R213. BLTN with a 32-bit offset. -/
  | bltnExt (t : BitVec 4) (a : BitVec 5) (b : BitVec 5) (x : BitVec 32)
  /-- R213. All-agent branch when ga is unsigned-greater or equal to gb. -/
  | bgen (t : BitVec 4) (a : BitVec 5) (b : BitVec 5) (o : BitVec 8)
  /-- R213. BGEN with a 32-bit offset. -/
  | bgenExt (t : BitVec 4) (a : BitVec 5) (b : BitVec 5) (x : BitVec 32)
  /-- R212. All-agent jump to the address in ga. -/
  | jr (t : BitVec 4) (a : BitVec 5)
  /-- R214. All-agent jump through a table of word offsets, with a default entry. -/
  | jtab (t : BitVec 4) (a : BitVec 5) (b : BitVec 5) (n : BitVec 8)
  /-- R214. JTAB with a table length of up to 65,535 in the extension. -/
  | jtabExt (t : BitVec 4) (a : BitVec 5) (b : BitVec 5) (n : BitVec 16)
  /-- R215. Starts a loop-sequencer level over the following body words. -/
  | loop (t : BitVec 4) (a : BitVec 5) (n : BitVec 8)
  /-- R217. Marks the next word's pipeline stage and first/last flags; never issues. -/
  | lstg (g : BitVec 3) (f : BitVec 1) (l : BitVec 1)
  /-- R228. All-agent call of a closure body with its captures in g18 to g31. -/
  | apply (t : BitVec 4) (k : BitVec 4)
  /-- R236. All-agent word that ends the crew's tile. -/
  | halt (t : BitVec 4)
  /-- R240. Sets the VSHAPE register from the extension. -/
  | vshape (t : BitVec 4) (x : BitVec 32)
  /-- R241. Lane-wise add. -/
  | vadd (t : BitVec 4) (d : BitVec 6) (a : BitVec 6) (b : BitVec 6) (m : BitVec 1)
  /-- R241. Lane-wise subtract. -/
  | vsub (t : BitVec 4) (d : BitVec 6) (a : BitVec 6) (b : BitVec 6) (m : BitVec 1)
  /-- R241. Lane-wise multiply. -/
  | vmul (t : BitVec 4) (d : BitVec 6) (a : BitVec 6) (b : BitVec 6) (m : BitVec 1)
  /-- R243. Lane-wise fused multiply-add into vd. -/
  | vfma (t : BitVec 4) (d : BitVec 5) (a : BitVec 6) (b : BitVec 6) (m : BitVec 1)
  /-- R243. Lane-wise fused multiply-subtract from vd. -/
  | vfms (t : BitVec 4) (d : BitVec 5) (a : BitVec 6) (b : BitVec 6) (m : BitVec 1)
  /-- R241. Lane-wise divide. -/
  | vdiv (t : BitVec 4) (d : BitVec 6) (a : BitVec 6) (b : BitVec 6) (m : BitVec 1)
  /-- R241. Lane-wise square root. -/
  | vsqrt (t : BitVec 4) (d : BitVec 6) (a : BitVec 6) (m : BitVec 1)
  /-- R241. Lane-wise minimum. -/
  | vmin (t : BitVec 4) (d : BitVec 6) (a : BitVec 6) (b : BitVec 6) (m : BitVec 1)
  /-- R241. Lane-wise maximum. -/
  | vmax (t : BitVec 4) (d : BitVec 6) (a : BitVec 6) (b : BitVec 6) (m : BitVec 1)
  /-- R241. Lane-wise absolute value. -/
  | vabs (t : BitVec 4) (d : BitVec 6) (a : BitVec 6) (m : BitVec 1)
  /-- R241. Lane-wise negation. -/
  | vneg (t : BitVec 4) (d : BitVec 6) (a : BitVec 6) (m : BitVec 1)
  /-- R241. Lane-wise saturating add. -/
  | vadds (t : BitVec 4) (d : BitVec 6) (a : BitVec 6) (b : BitVec 6) (m : BitVec 1)
  /-- R241. Lane-wise saturating subtract. -/
  | vsubs (t : BitVec 4) (d : BitVec 6) (a : BitVec 6) (b : BitVec 6) (m : BitVec 1)
  /-- R241. Lane-wise bitwise AND. -/
  | vand (t : BitVec 4) (d : BitVec 6) (a : BitVec 6) (b : BitVec 6) (m : BitVec 1)
  /-- R241. Lane-wise bitwise OR. -/
  | vor (t : BitVec 4) (d : BitVec 6) (a : BitVec 6) (b : BitVec 6) (m : BitVec 1)
  /-- R241. Lane-wise bitwise XOR. -/
  | vxor (t : BitVec 4) (d : BitVec 6) (a : BitVec 6) (b : BitVec 6) (m : BitVec 1)
  /-- R242. Lane-wise shift left. -/
  | vshl (t : BitVec 4) (d : BitVec 6) (a : BitVec 6) (b : BitVec 6) (m : BitVec 1)
  /-- R242. Lane-wise logical shift right. -/
  | vshr (t : BitVec 4) (d : BitVec 6) (a : BitVec 6) (b : BitVec 6) (m : BitVec 1)
  /-- R242. Lane-wise arithmetic shift right. -/
  | vsar (t : BitVec 4) (d : BitVec 6) (a : BitVec 6) (b : BitVec 6) (m : BitVec 1)
  /-- R242. Lane-wise high half of the product. -/
  | vmulh (t : BitVec 4) (d : BitVec 6) (a : BitVec 6) (b : BitVec 6) (m : BitVec 1)
  /-- R244. Lane-wise equality compare into a mask. -/
  | vcmpeq (t : BitVec 4) (d : BitVec 3) (a : BitVec 6) (b : BitVec 6) (m : BitVec 1)
  /-- R244. Lane-wise less-than compare into a mask. -/
  | vcmplt (t : BitVec 4) (d : BitVec 3) (a : BitVec 6) (b : BitVec 6) (m : BitVec 1)
  /-- R244. Lane-wise less-or-equal compare into a mask. -/
  | vcmple (t : BitVec 4) (d : BitVec 3) (a : BitVec 6) (b : BitVec 6) (m : BitVec 1)
  /-- R245. Bitwise AND of two masks. -/
  | vmand (t : BitVec 4) (d : BitVec 3) (a : BitVec 3) (b : BitVec 3)
  /-- R245. Bitwise OR of two masks. -/
  | vmor (t : BitVec 4) (d : BitVec 3) (a : BitVec 3) (b : BitVec 3)
  /-- R245. Bitwise XOR of two masks. -/
  | vmxor (t : BitVec 4) (d : BitVec 3) (a : BitVec 3) (b : BitVec 3)
  /-- R245. Bitwise NOT of a mask. -/
  | vmnot (t : BitVec 4) (d : BitVec 3) (a : BitVec 3)
  /-- R246. Selects lanes from two sources by the MSEL mask. -/
  | vsel (t : BitVec 4) (d : BitVec 6) (a : BitVec 6) (b : BitVec 6)
  /-- R248. Converts lanes to a target element type. -/
  | vcvt (t : BitVec 4) (d : BitVec 6) (a : BitVec 6) (m : BitVec 1) (q : BitVec 2) (y : BitVec 4)
  /-- R249. Quantises 64 FP32 lanes into a Q8 block. -/
  | vq8q (t : BitVec 4) (d : BitVec 6) (a : BitVec 6) (m : BitVec 1) (q : BitVec 2) (y : BitVec 4)
  /-- R249. Dequantises a Q8 block into FP32 lanes. -/
  | vq8d (t : BitVec 4) (d : BitVec 6) (a : BitVec 6) (m : BitVec 1) (q : BitVec 2) (y : BitVec 4)
  /-- R250. Quantises FP32 lanes into two Z4 blocks. -/
  | vz4q (t : BitVec 4) (d : BitVec 6) (a : BitVec 6) (m : BitVec 1) (q : BitVec 2) (y : BitVec 4)
  /-- R250. Dequantises two Z4 blocks into FP32 lanes. -/
  | vz4d (t : BitVec 4) (d : BitVec 6) (a : BitVec 6) (m : BitVec 1) (q : BitVec 2) (y : BitVec 4)
  /-- R251. Pairwise-tree sum of active lanes into a g register. -/
  | vrsum (t : BitVec 4) (a : BitVec 6) (m : BitVec 1) (g : BitVec 5)
  /-- R251. Tree minimum of active lanes into a g register. -/
  | vrmin (t : BitVec 4) (a : BitVec 6) (m : BitVec 1) (g : BitVec 5)
  /-- R251. Tree maximum of active lanes into a g register. -/
  | vrmax (t : BitVec 4) (a : BitVec 6) (m : BitVec 1) (g : BitVec 5)
  /-- R252. Permutes lanes by an index register. -/
  | vperm (t : BitVec 4) (d : BitVec 6) (a : BitVec 6) (b : BitVec 6) (m : BitVec 1)
  /-- R253. Broadcasts a g value to every active lane. -/
  | vbcast (t : BitVec 4) (d : BitVec 6) (m : BitVec 1) (g : BitVec 5)
  /-- R252. Slides lanes down by lane 0 of vb. -/
  | vslide (t : BitVec 4) (d : BitVec 6) (a : BitVec 6) (b : BitVec 6) (m : BitVec 1)
  /-- R252. Interleaves the low lanes of two sources. -/
  | vzip (t : BitVec 4) (d : BitVec 6) (a : BitVec 6) (b : BitVec 6) (m : BitVec 1)
  /-- R252. Separates even then odd lanes of a source. -/
  | vunzip (t : BitVec 4) (d : BitVec 6) (a : BitVec 6) (m : BitVec 1)
  /-- R254. Loads active lanes from contiguous memory under a load lock. -/
  | vld (t : BitVec 4) (d : BitVec 6) (m : BitVec 1) (g : BitVec 5) (x : BitVec 27)
  /-- R254. Stores active lanes to contiguous memory. -/
  | vst (t : BitVec 4) (a : BitVec 6) (m : BitVec 1) (g : BitVec 5) (x : BitVec 27)
  /-- R258. Reads the next element group of a stream's head tile. -/
  | vlds (t : BitVec 4) (d : BitVec 6) (r : BitVec 4) (m : BitVec 1)
  /-- R258. Writes the next element group of a stream's tail tile. -/
  | vsts (t : BitVec 4) (a : BitVec 6) (r : BitVec 4) (m : BitVec 1)
  /-- R256. Gathers lanes from indexed addresses. -/
  | vgath (t : BitVec 4) (d : BitVec 6) (b : BitVec 6) (m : BitVec 1) (g : BitVec 5) (x : BitVec 27)
  /-- R256. Scatters lanes to indexed addresses. -/
  | vscat (t : BitVec 4) (a : BitVec 6) (b : BitVec 6) (m : BitVec 1) (g : BitVec 5) (x : BitVec 27)
  /-- R253. Moves bits [63:0] of a v register to a g register. -/
  | vmvg (t : BitVec 4) (a : BitVec 6) (g : BitVec 5)
  /-- R261. Appends active lanes' values to the deferral queue. -/
  | defer (t : BitVec 4) (a : BitVec 5) (n : BitVec 3) (m : BitVec 1)
  /-- R262. Pops one handle's batch from the deferral queue into lanes and a mask. -/
  | vdrain (t : BitVec 4) (d : BitVec 5) (n : BitVec 3)
  /-- R263. Groups lanes by closure handle into the deferral queue and writes a group table. -/
  | vapply (t : BitVec 4) (d : BitVec 5) (a : BitVec 5) (n : BitVec 3) (m : BitVec 1)
  /-- R264. Lends a v-register bank to back a stream for M steps. -/
  | banklend (t : BitVec 4) (g : BitVec 5)
  /-- R265. Returns a lent bank once its M steps retire. -/
  | bankret (t : BitVec 4) (g : BitVec 5)
  /-- R253. Writes each active lane's index. -/
  | viota (t : BitVec 4) (d : BitVec 6) (m : BitVec 1)
  /-- R247. Counts the mask bits below the active length into a g register. -/
  | vmpop (t : BitVec 4) (a : BitVec 3) (g : BitVec 5)
  /-- R371. The Innkeeper enters IKVEC on a pending FNQ, TRAP or own fault. -/
  | innkeeperExceptionEntry (d : Nat)
  /-- R170. A V word's destination writes, pushes, mask write and flags land. -/
  | vWriteLanding (c : Nat) (i : Nat)
  /-- R255. A vector load's last element returns and its destination is written, releasing the lock. -/
  | vectorLoadLanding (c : Nat) (i : Nat)
  /-- R274. Multiplies the head operand tiles into an accumulator tile. -/
  | mma (t : BitVec 4) (c : BitVec 2) (a : BitVec 4) (b : BitVec 4) (x : BitVec 1) (y : BitVec 1) (z : BitVec 1) (h : BitVec 1)
  /-- R275. Structured-sparse matrix step with metadata stream. -/
  | mmas (t : BitVec 4) (c : BitVec 2) (a : BitVec 4) (b : BitVec 4) (x : BitVec 1) (y : BitVec 1) (z : BitVec 1) (h : BitVec 1) (r : BitVec 4)
  /-- R277. Writes an accumulator tile and its flag code to memory. -/
  | mdrain (t : BitVec 4) (c : BitVec 2) (z : BitVec 1) (g : BitVec 5) (f : BitVec 2)
  /-- R278. Exchanges two accumulator tiles and their flag codes. -/
  | mswap (t : BitVec 4) (c : BitVec 2) (b : BitVec 2)
  /-- R279. Clears named flag bits of a tile or sketch slot. -/
  | mfclr (t : BitVec 4) (c : BitVec 2) (f : BitVec 4) (g : BitVec 1) (s : BitVec 6)
  /-- R272. Requests the array lease for the cell. -/
  | mlease (t : BitVec 4)
  /-- R272. Ends the lease after earlier step words retire. -/
  | mrel (t : BitVec 4)
  /-- R280. Checkpoints a tile and opens its command window. -/
  | tstart (t : BitVec 4) (c : BitVec 2)
  /-- R276. Known-answer step that checks a CRC of a product against a checksum. -/
  | mkat (t : BitVec 4) (a : BitVec 4) (b : BitVec 4) (x : BitVec 1) (y : BitVec 1) (k : BitVec 32)
  /-- R281. Configures a sketch slot header and slot-table entry. -/
  | skcfg (t : BitVec 4) (s : BitVec 6) (g : BitVec 5)
  /-- R282. Appends column pairs from two streams to a sketch slot. -/
  | skfold (t : BitVec 4) (a : BitVec 4) (b : BitVec 4) (x : BitVec 1) (y : BitVec 1) (s : BitVec 6)
  /-- R283. Shrinks or resumes shrinking a sketch to its rank budget. -/
  | skshrink (t : BitVec 4) (s : BitVec 6)
  /-- R284. Merges a sketch image into a slot, or resumes a merge. -/
  | skmerge (t : BitVec 4) (s : BitVec 6) (g : BitVec 5) (x : BitVec 27)
  /-- R285. Writes the image of a slot's live contents. -/
  | skemit (t : BitVec 4) (s : BitVec 6) (g : BitVec 5) (x : BitVec 27)
  /-- R285. Copies a slot's 64-byte header to memory. -/
  | skstat (t : BitVec 4) (s : BitVec 6) (g : BitVec 5) (x : BitVec 27)
  /-- R268. The array begins a step word once its operands and scales are present. -/
  | stepBegin (l : Nat)
  /-- R268. A step word retires, popping its streams and scales and counting against the lease. -/
  | stepRetire (l : Nat)
  /-- R107. The Awl pushes a Z4 tile's block scales into the port's scale FIFO. -/
  | scalePush (l : Nat)
  /-- R132. A shrink or merge panel ends, writing intermediate values, UNIT and flags. -/
  | sketchPanelBoundary (l : Nat)
  /-- R436. A rollback trigger restores checkpointed tiles and replays the window's steps. -/
  | rollbackReplay (l : Nat)
  /-- R63. The array grants the lease to the next requesting cell. -/
  | leaseGrant (l : Nat)
  /-- R62. A lease reaches 4,096 cycles and ends at the next step-word boundary. -/
  | leaseCycleLimit (l : Nat)
  /-- R292. Moves rows of 64-byte granules between storage levels with an optional completion action. -/
  | xmove (t : BitVec 4) (a : BitVec 5) (b : BitVec 5) (c : BitVec 5) (d : BitVec 5)
  /-- R292. XMOVE with a declared footprint extension. -/
  | xmoveExt (t : BitVec 4) (a : BitVec 5) (b : BitVec 5) (c : BitVec 5) (d : BitVec 5) (r : BitVec 2) (w : BitVec 2) (u : BitVec 2) (p : BitVec 13) (q : BitVec 13)
  /-- R294. Declares a footprint and completes once conflicting commands complete. -/
  | xfoot (t : BitVec 4) (a : BitVec 5) (r : BitVec 2) (w : BitVec 2) (u : BitVec 2) (p : BitVec 13) (q : BitVec 13)
  /-- R295. Submits scatter-accumulate elements to the target cluster's engine. -/
  | xscat (t : BitVec 4) (a : BitVec 5) (b : BitVec 5) (c : BitVec 5) (r : BitVec 2) (w : BitVec 2) (u : BitVec 2) (p : BitVec 13) (q : BitVec 13)
  /-- R296. Reaches a crew, party or caravan barrier. -/
  | xbar (t : BitVec 4) (l : BitVec 5)
  /-- R297. Sets an event's count. -/
  | xevset (t : BitVec 4) (a : BitVec 5) (b : BitVec 5)
  /-- R297. Signals an event, lowering its count. -/
  | xevsig (t : BitVec 4) (a : BitVec 5)
  /-- R59. The hardware walker services an event's overflow wait list in memory. -/
  | eventOverflowWalk (d : Nat) (e : Nat)
  /-- R297. Waits on an event, entering its wait list if the count is not 0. -/
  | xevwait (t : BitVec 4) (a : BitVec 5)
  /-- R299. Writes a queue's tail to submit records. -/
  | xtail (t : BitVec 4) (a : BitVec 5) (b : BitVec 5)
  /-- R302. Sends a message in the ordinary class to listed nodes. -/
  | xsend (t : BitVec 4) (a : BitVec 5) (b : BitVec 5) (c : BitVec 5) (d : BitVec 5) (r : BitVec 2) (w : BitVec 2) (u : BitVec 2) (p : BitVec 13) (q : BitVec 13)
  /-- R302. Sends a message in the ordered class with one stamp to listed nodes. -/
  | xsendo (t : BitVec 4) (a : BitVec 5) (b : BitVec 5) (c : BitVec 5) (d : BitVec 5) (r : BitVec 2) (w : BitVec 2) (u : BitVec 2) (p : BitVec 13) (q : BitVec 13)
  /-- R304. Sends a contribution to a router reduction descriptor. -/
  | xred (t : BitVec 4) (a : BitVec 5) (b : BitVec 5) (c : BitVec 5) (r : BitVec 2) (w : BitVec 2) (u : BitVec 2) (p : BitVec 13) (q : BitVec 13)
  /-- R306. Walks a collective record, emitting one transfer per innermost iteration. -/
  | xcoll (t : BitVec 4) (a : BitVec 5) (b : BitVec 5) (r : BitVec 2) (w : BitVec 2) (u : BitVec 2) (p : BitVec 13) (q : BitVec 13)
  /-- R300. Copies records into a queue ring and advances its tail as one route. -/
  | xsubmit (t : BitVec 4) (a : BitVec 5) (b : BitVec 5) (c : BitVec 5) (r : BitVec 2) (w : BitVec 2) (u : BitVec 2) (p : BitVec 13) (q : BitVec 13)
  /-- R301. Sends an arrival packet that decrements a tile's arrival count. -/
  | xarrive (t : BitVec 4) (a : BitVec 5) (b : BitVec 5)
  /-- R308. Loads a port's link key slot. -/
  | xkeyld (t : BitVec 4) (a : BitVec 5) (b : BitVec 5) (c : BitVec 5) (r : BitVec 2) (w : BitVec 2) (u : BitVec 2) (p : BitVec 13) (q : BitVec 13)
  /-- R309. Switches a port's transmit direction to the other key slot with a marker. -/
  | xkeysw (t : BitVec 4) (a : BitVec 5)
  /-- R174. A CHBIND write becomes pending while the channel holds entries. -/
  | channelRebind (c : Nat) (n : Nat)
  /-- R386. A crew passes no word for 4,096 cycles while waiting and halts with code 0x04. -/
  | crewStall (c : Nat)
  /-- R61. When executors fall free the scheduler offers them to stages and starts eligible heads. -/
  | schedulerDecision (d : Nat)
  /-- R60. An eligible head waits AGEP×256 cycles and its queue's priority rises by 1. -/
  | queueAgeing (d : Nat) (q : Nat)
  /-- R372. An FNQ entry unpopped for IKWDOG µs raises an alarm. -/
  | fnqWatchdog (d : Nat)
  /-- R328. An idle port sends a lantern within LANTP network cycles. -/
  | lantern (p : Nat)
  /-- R441. A transmitter resends unacknowledged flits on timeout or a stale LACK. -/
  | linkResend (p : Nat)
  /-- R442. Retraining finishes and the aborted packet is resent. -/
  | retrainComplete (p : Nat)
  /-- R331. A receiver sends a TYPE 10 acknowledgement within ACKD cycles. -/
  | connectionAck (n : Nat)
  /-- R447. An unacknowledged packet is resent from the connection retry store. -/
  | connectionResend (n : Nat) (i : Nat)
  /-- R444. An input's MS lags PODTIME beyond MSBOUND and code 0x10 is written. -/
  | milestoneStall (p : Nat)
  /-- R329. Newly loaded slot tables take effect at the next slot-0 cycle. -/
  | slotTableSwitch (d : Nat)
  /-- R350. A cluster idle for 4,096 cycles enters Gated. -/
  | clusterGate (l : Nat)
  /-- R164. An M or X command begins its accesses once the range checker allows. -/
  | commandBegin (c : Nat) (i : Nat)
  /-- R310. A bulk command's chunk completes and DONE advances. -/
  | transferChunk (c : Nat) (i : Nat)
  /-- R289. An X command reaches its completion point. -/
  | commandComplete (c : Nat) (i : Nat)
  /-- R93. The scatter-accumulate engine merges and applies a complete block. -/
  | scatterBlockApply (l : Nat)
  /-- R139. A load's value is fixed at its home. -/
  | loadPerform (c : Nat)
  /-- R205. A scalar load's value returns to the cell and is written to its register. -/
  | loadReturn (c : Nat) (i : Nat)
  /-- R139. A store is written at its home. -/
  | storeApply (c : Nat) (i : Nat)
  /-- R76. A posted remote write's acknowledgement returns and it leaves flight. -/
  | postedWriteAck (c : Nat) (i : Nat)
  /-- R75. A multicast store lands in all four cell stores 12 cycles after issue. -/
  | multicastLanding (c : Nat)
  /-- R224. A home Guestbook applies a closure count change or read. -/
  | guestbookRequest (c : Nat)
  /-- R224. A remote home's acknowledgement completes a closure word. -/
  | guestbookAck (c : Nat)
  /-- R233. The owner of a cluster, die or module register acknowledges a SYSWR. -/
  | syswrAck (a : Nat)
  /-- R80. A last-level TLB miss walks the four-level page table. -/
  | pageWalk (d : Nat) (v : Nat)
  /-- R84. A stream TLB fetches the next page's translation. -/
  | streamTlbPrefetch (c : Nat) (e : Nat)
  /-- R430. Scrubbing reads storage and corrects or reports poisoned units. -/
  | scrub (a : Nat)
  /-- R53. A tile ends once HALT retires and its accesses have applied, freeing the executor. -/
  | tileEnd (c : Nat)
  /-- R55. A write of QTAILn closes a submission. -/
  | qtailWrite (d : Nat) (q : Nat)
  /-- R54. The die scheduler applies an arrival packet's decrement. -/
  | arrival (d : Nat)
  /-- R65. System software pre-empts a gang, which halts within 400 cycles. -/
  | preemptreq (d : Nat)
  /-- R66. Once the gang is quiescent the device writes each cell's context. -/
  | contextSave (g : Nat)
  /-- R67. System software resumes a halted gang on the same cells. -/
  | resumereq (d : Nat)
  /-- R374. System software ends a gang's tiles, discarding pending work. -/
  | abortreq (d : Nat)
  /-- R368. Reading FNQ pops and returns the oldest notification. -/
  | fnqRead (d : Nat) (r : Nat)
  /-- R326. A packet is sealed and sent as consecutive flits on a chosen port. -/
  | packetTransmit (p : Nat)
  /-- R327. A port accepts a flit in LSEQ order and processes its LACK and MS. -/
  | flitReceive (p : Nat)
  /-- R440. A packet's last flit arrives and it is forwarded or applied once. -/
  | packetReceive (p : Nat)
  /-- R442. Lanes fail and the port retrains at a narrower width, aborting a partial packet. -/
  | laneFailure (p : Nat) (n : Nat)
  /-- R443. Clearing PORTCTLp.EN takes the link down and discards its retry buffer. -/
  | portDisable (p : Nat)
  /-- R443. Setting PORTCTLp.EN retrains the port and restarts its link state. -/
  | portEnable (p : Nat)
  /-- R324. A requested width takes effect at the next packet boundary. -/
  | portWidthChange (p : Nat)
  /-- R343. A TYPE 6 packet from an enabled host writes QTAILn. -/
  | hostRegisterWrite (i : Nat)
  /-- R343. A TYPE 7 packet from an enabled host reads an open register. -/
  | hostRegisterRead (i : Nat)
  /-- R326. A TYPE 8 packet reads the node's memory and is answered with a read response. -/
  | readRequest (i : Nat)
  /-- R329. SLTCMD loads a die's router slot tables from SLTBASE. -/
  | slotTableLoad (d : Nat)
  /-- R330. An on-die circuit flit enters the peer's receiving channel. -/
  | networkFlitArrive (c : Nat) (n : Nat)
  /-- R351. Setting PWRCTL.RET asks a die to enter Retention. -/
  | retentionRequest (d : Nat)
  /-- R351. A die enters Retention once no tile runs or is halted. -/
  | retentionEntry (d : Nat)
  /-- R351. Clearing RET returns a die from Retention with zeroed scratchpads. -/
  | retentionExit (d : Nat)
  /-- R375. A die above 105 °C halts its gangs with health records. -/
  | temperatureTrip (d : Nat)
  /-- R375. A tripped die falls below 95 °C and tiles may start again. -/
  | temperatureClear (d : Nat)
  /-- R375. A die rail out of tolerance for 1 µs halts every gang of the die. -/
  | railFault (d : Nat)
  /-- R443. The lanes of a broken but still enabled link return, and the port retrains and resends without losing traffic. -/
  | lanesReturn (p : Nat) (n : Nat)
  /-- R38. An agent passes a word not tagged for it without effect. -/
  | skipWord
  /-- R39. V, M or X takes the oldest outcome-queue entry at an all-agent word and continues there. -/
  | outcomeTake
  /-- R85. Drops every TLB entry covering a page. -/
  | tlbinvPage
  /-- R85. Drops every TLB entry. -/
  | tlbinvAll
  /-- R85. BUSY clears once all TLBs dropped entries and dependent accesses completed. -/
  | tlbinvComplete
  /-- R89. A KEYCMD write loads a memory-encryption key slot from KEYDATA. -/
  | keySlotLoad
  /-- R336. Ordered packets are delivered in stamp order once milestones pass their stamps. -/
  | orderedDelivery
  /-- R338. Setting PTCTL.MASTER makes the node the pod's time master. -/
  | timeMasterSet
  /-- R452. PTCTL.LOCKED falls and ordered injection waits, with code 0x16. -/
  | lockLost
  /-- R346. The module verifies firmware, trains memory, numbers clusters and enters system software. -/
  | boot
  /-- R346. Firmware stops waiting for LOCKED after 10 s and continues boot. -/
  | bootLockTimeout
  /-- R353. Every millisecond the power controller recomputes MARGIN and the array clock limit. -/
  | powerControlTick
  /-- R352. Firmware reads the ageing monitors and sets each die's guard-band. -/
  | wearMonitorReading
  /-- R354. A DECONF write appends a cluster to the deconfiguration record. -/
  | deconfRequest
  /-- R356. Every RECP hours firmware appends a chained wear record. -/
  | wearRecord
  /-- R357. An ATTCMD write makes the device write a signed wear report. -/
  | attestationReport
  /-- R8. A write to a register without its own row updates its fields by access code. -/
  | registerWrite
  /-- R377. An agent reaches a word tagged for it that is not an instruction and reports class 0x01 with DLV 0. -/
  | notAnInstruction
  /-- R380. An agent cannot fetch its next word or an extension on the next page and reports class 0x04. -/
  | fetchTranslationFault
  deriving DecidableEq, Repr

end Sys2Proof
end

