-- ==== Sys2Proof/WellFormed.lean ====
section
/-!
DEFINITION. Which terms of `Instr` the encodings of R184 to R193 can hold: the operand rules that the field
widths alone do not say. Events have no encoding and are well formed. A field whose value is out of range at
execution (R378 code 0x05) is still well formed: the word is decoded and its meaning reports the code.
-/


namespace Sys2Proof

/-- A 6-bit destination operand: bit 4 is 0 where the field names a channel (R185). -/
def dstOk (x : BitVec 6) : Bool := !(x.getLsbD 5 && x.getLsbD 4)

/-- The bits of a VSHAPE extension that R240 leaves at 0. -/
def vshapeOk (x : BitVec 32) : Bool := x &&& 0xFF0401F0#32 == 0

/-- RSEL or WSEL names no register, or one that the word uses as an address (R288). -/
def selOk (addr : List (BitVec 2)) (x : BitVec 2) : Bool := x == 0 || addr.contains x

/-- The encoding of the instruction's layout and entry holds this term (R184 to R189, R239, R288). -/
def Instr.wellFormed (i : Instr) : Bool :=
  match i with
  | .add _ _ _ _ => true
  | .sub _ _ _ _ => true
  | .mul _ _ _ _ => true
  | .mulh _ _ _ _ _ => true
  | .div _ _ _ _ _ => true
  | .rem _ _ _ _ _ => true
  | .andr _ _ _ _ => true
  | .orr _ _ _ _ => true
  | .xorr _ _ _ _ => true
  | .shl _ _ _ _ => true
  | .shr _ _ _ _ => true
  | .sar _ _ _ _ => true
  | .ror _ _ _ _ => true
  | .minr _ _ _ _ _ => true
  | .maxr _ _ _ _ _ => true
  | .slt _ _ _ _ _ => true
  | .seq _ _ _ _ => true
  | .clz _ _ _ => true
  | .ctz _ _ _ => true
  | .popc _ _ _ => true
  | .bext _ _ _ _ => true
  | .bins _ _ _ _ => true
  | .addi _ _ _ _ => true
  | .addiExt _ _ _ _ => true
  | .andi _ _ _ _ => true
  | .andiExt _ _ _ _ => true
  | .ori _ _ _ _ => true
  | .oriExt _ _ _ _ => true
  | .xori _ _ _ _ => true
  | .xoriExt _ _ _ _ => true
  | .shli _ _ _ _ => true
  | .shliExt _ _ _ _ => true
  | .shri _ _ _ _ => true
  | .shriExt _ _ _ _ => true
  | .sari _ _ _ _ => true
  | .sariExt _ _ _ _ => true
  | .slti _ _ _ _ => true
  | .sltiExt _ _ _ _ => true
  | .li _ _ _ => true
  | .liExt _ _ _ => true
  | .lih _ _ _ => true
  | .lihExt _ _ _ => true
  | .muli _ _ _ _ => true
  | .muliExt _ _ _ _ => true
  | .ldI8 _ _ _ _ => true
  | .ldI8Ext _ _ _ _ => true
  | .ldI16 _ _ _ _ => true
  | .ldI16Ext _ _ _ _ => true
  | .ldI32 _ _ _ _ => true
  | .ldI32Ext _ _ _ _ => true
  | .ld64 _ _ _ _ => true
  | .ld64Ext _ _ _ _ => true
  | .ldN8 _ _ _ _ => true
  | .ldN8Ext _ _ _ _ => true
  | .ldN16 _ _ _ _ => true
  | .ldN16Ext _ _ _ _ => true
  | .ldN32 _ _ _ _ => true
  | .ldN32Ext _ _ _ _ => true
  | .st8 _ _ _ _ => true
  | .st8Ext _ _ _ _ => true
  | .st16 _ _ _ _ => true
  | .st16Ext _ _ _ _ => true
  | .st32 _ _ _ _ => true
  | .st32Ext _ _ _ _ => true
  | .st64 _ _ _ _ => true
  | .st64Ext _ _ _ _ => true
  | .pref _ _ _ => true
  | .prefExt _ _ _ => true
  | .sldr _ _ _ _ => true
  | .sldrExt _ _ _ _ => true
  | .sstr _ _ _ _ => true
  | .sstrExt _ _ _ _ => true
  | .qsync _ => true
  | .fence _ _ => true
  | .tok _ => true
  | .capture _ _ _ => true
  | .kdup _ _ _ => true
  | .kdrop _ _ => true
  | .kst _ _ _ _ => true
  | .kstExt _ _ _ _ => true
  | .kld _ _ _ _ => true
  | .kldExt _ _ _ _ => true
  | .frame _ _ _ => true
  | .frpop _ _ => true
  | .sysrd _ _ _ => true
  | .syswr _ _ _ => true
  | .trap _ _ => true
  | .eret _ => true
  | .cpush _ _ _ => true
  | .cpop _ _ _ _ => true
  | .kpush _ _ _ => true
  | .kpop _ _ _ => true
  | .j _ _ => true
  | .jExt _ _ _ => true
  | .jl _ _ => true
  | .jlExt _ _ _ => true
  | .beq _ _ _ _ => true
  | .beqExt _ _ _ _ => true
  | .bne _ _ _ _ => true
  | .bneExt _ _ _ _ => true
  | .blt _ _ _ _ => true
  | .bltExt _ _ _ _ => true
  | .bge _ _ _ _ => true
  | .bgeExt _ _ _ _ => true
  | .bltn _ _ _ _ => true
  | .bltnExt _ _ _ _ => true
  | .bgen _ _ _ _ => true
  | .bgenExt _ _ _ _ => true
  | .jr _ _ => true
  | .jtab _ _ _ _ => true
  | .jtabExt _ _ _ _ => true
  | .loop _ _ _ => true
  | .lstg _ _ _ => true
  | .apply _ _ => true
  | .halt _ => true
  | .skipWord => true
  | .outcomeTake => true
  | .vshape _ x => vshapeOk x
  | .vadd _ d _ _ _ => dstOk d
  | .vsub _ d _ _ _ => dstOk d
  | .vmul _ d _ _ _ => dstOk d
  | .vfma _ _ _ _ _ => true
  | .vfms _ _ _ _ _ => true
  | .vdiv _ d _ _ _ => dstOk d
  | .vsqrt _ d _ _ => dstOk d
  | .vmin _ d _ _ _ => dstOk d
  | .vmax _ d _ _ _ => dstOk d
  | .vabs _ d _ _ => dstOk d
  | .vneg _ d _ _ => dstOk d
  | .vadds _ d _ _ _ => dstOk d
  | .vsubs _ d _ _ _ => dstOk d
  | .vand _ d _ _ _ => dstOk d
  | .vor _ d _ _ _ => dstOk d
  | .vxor _ d _ _ _ => dstOk d
  | .vshl _ d _ _ _ => dstOk d
  | .vshr _ d _ _ _ => dstOk d
  | .vsar _ d _ _ _ => dstOk d
  | .vmulh _ d _ _ _ => dstOk d
  | .vcmpeq _ _ _ _ _ => true
  | .vcmplt _ _ _ _ _ => true
  | .vcmple _ _ _ _ _ => true
  | .vmand _ _ _ _ => true
  | .vmor _ _ _ _ => true
  | .vmxor _ _ _ _ => true
  | .vmnot _ _ _ => true
  | .vsel _ d _ _ => dstOk d
  | .vcvt _ d _ _ _ _ => dstOk d
  | .vq8q _ d _ _ _ _ => dstOk d
  | .vq8d _ d _ _ _ _ => dstOk d
  | .vz4q _ d _ _ _ _ => dstOk d
  | .vz4d _ d _ _ _ _ => dstOk d
  | .vrsum _ _ _ _ => true
  | .vrmin _ _ _ _ => true
  | .vrmax _ _ _ _ => true
  | .vperm _ d _ _ _ => dstOk d
  | .vbcast _ d _ _ => dstOk d
  | .vslide _ d _ _ _ => dstOk d
  | .vzip _ d _ _ _ => dstOk d
  | .vunzip _ d _ _ => dstOk d
  | .vld _ d _ _ _ => dstOk d
  | .vst _ _ _ _ _ => true
  | .vlds _ d _ _ => dstOk d
  | .vsts _ _ _ _ => true
  | .vgath _ d _ _ _ _ => dstOk d
  | .vscat _ _ _ _ _ _ => true
  | .vmvg _ _ _ => true
  | .defer _ _ _ _ => true
  | .vdrain _ _ _ => true
  | .vapply _ _ _ _ _ => true
  | .banklend _ _ => true
  | .bankret _ _ => true
  | .viota _ d _ => dstOk d
  | .vmpop _ _ _ => true
  | .vWriteLanding _ _ => true
  | .vectorLoadLanding _ _ => true
  | .mma _ _ _ _ _ _ _ _ => true
  | .mmas _ _ _ _ _ _ _ _ _ => true
  | .mdrain _ _ _ _ _ => true
  | .mswap _ _ _ => true
  | .mfclr _ c _ g s => (if g == 0 then s == 0 else c == 0)
  | .mlease _ => true
  | .mrel _ => true
  | .tstart _ _ => true
  | .mkat _ _ _ _ _ _ => true
  | .skcfg _ _ _ => true
  | .skfold _ _ _ _ _ _ => true
  | .skshrink _ _ => true
  | .skmerge _ _ _ _ => true
  | .skemit _ _ _ _ => true
  | .skstat _ _ _ _ => true
  | .stepBegin _ => true
  | .stepRetire _ => true
  | .scalePush _ => true
  | .sketchPanelBoundary _ => true
  | .rollbackReplay _ => true
  | .leaseGrant _ => true
  | .leaseCycleLimit _ => true
  | .xmove _ _ _ _ _ => true
  | .xmoveExt _ _ _ _ _ r w _ _ _ => selOk [1, 2] r && selOk [1, 2] w
  | .xfoot _ _ r w _ _ _ => selOk [1] r && selOk [1] w
  | .xscat _ _ _ _ r w _ _ _ => selOk [1, 2] r && selOk [1, 2] w
  | .xbar _ _ => true
  | .xevset _ _ _ => true
  | .xevsig _ _ => true
  | .eventOverflowWalk _ _ => true
  | .xevwait _ _ => true
  | .xtail _ _ _ => true
  | .xsend _ _ _ _ _ r w _ _ _ => selOk [1] r && w == 0
  | .xsendo _ _ _ _ _ r w _ _ _ => selOk [1] r && w == 0
  | .xred _ _ _ _ r w _ _ _ => selOk [1, 2] r && selOk [1, 2] w
  | .xcoll _ _ _ r w _ _ _ => selOk [1, 2] r && selOk [1, 2] w
  | .xsubmit _ _ _ _ r w _ _ _ => selOk [2] r && selOk [2] w
  | .xarrive _ _ _ => true
  | .xkeyld _ _ _ _ r w _ _ _ => selOk [2] r && selOk [2] w
  | .xkeysw _ _ => true
  | .commandBegin _ _ => true
  | .transferChunk _ _ => true
  | .commandComplete _ _ => true
  | .scatterBlockApply _ => true
  | .loadPerform _ => true
  | .loadReturn _ _ => true
  | .storeApply _ _ => true
  | .postedWriteAck _ _ => true
  | .multicastLanding _ => true
  | .guestbookRequest _ => true
  | .guestbookAck _ => true
  | .syswrAck _ => true
  | .channelRebind _ _ => true
  | .crewStall _ => true
  | .pageWalk _ _ => true
  | .streamTlbPrefetch _ _ => true
  | .tlbinvPage => true
  | .tlbinvAll => true
  | .tlbinvComplete => true
  | .keySlotLoad => true
  | .scrub _ => true
  | .schedulerDecision _ => true
  | .tileEnd _ => true
  | .queueAgeing _ _ => true
  | .qtailWrite _ _ => true
  | .arrival _ => true
  | .preemptreq _ => true
  | .contextSave _ => true
  | .resumereq _ => true
  | .abortreq _ => true
  | .fnqRead _ _ => true
  | .fnqWatchdog _ => true
  | .innkeeperExceptionEntry _ => true
  | .packetTransmit _ => true
  | .flitReceive _ => true
  | .packetReceive _ => true
  | .lantern _ => true
  | .linkResend _ => true
  | .laneFailure _ _ => true
  | .retrainComplete _ => true
  | .portDisable _ => true
  | .portEnable _ => true
  | .portWidthChange _ => true
  | .connectionAck _ => true
  | .connectionResend _ _ => true
  | .orderedDelivery => true
  | .milestoneStall _ => true
  | .hostRegisterWrite _ => true
  | .hostRegisterRead _ => true
  | .readRequest _ => true
  | .timeMasterSet => true
  | .lockLost => true
  | .slotTableLoad _ => true
  | .slotTableSwitch _ => true
  | .networkFlitArrive _ _ => true
  | .boot => true
  | .bootLockTimeout => true
  | .clusterGate _ => true
  | .retentionRequest _ => true
  | .retentionEntry _ => true
  | .retentionExit _ => true
  | .powerControlTick => true
  | .wearMonitorReading => true
  | .temperatureTrip _ => true
  | .temperatureClear _ => true
  | .railFault _ => true
  | .deconfRequest => true
  | .wearRecord => true
  | .attestationReport => true
  | .registerWrite => true
  | .notAnInstruction => true
  | .fetchTranslationFault => true
  | .lanesReturn _ _ => true

end Sys2Proof
end

