-- ==== Sys2Proof/Decode.lean ====
section
/-!
DEFINITION. Decoding, total on any two words, and the encoder, both written from the layouts of R183 to R188
and the maps R190 to R193. A word that is not an instruction (R189) is refused by the name of the first
condition of R378 that holds; R378's code 0x05 is left to the meanings, except where no operand could carry
the value (SUB of form R).
-/
namespace Sys2Proof

/-- Why a word is not an instruction (R378, codes 0x01 to 0x05 in this order). -/
inductive BadWord where
  /-- The opcode is unassigned in the engine's map. -/
  | unassigned
  /-- A field that must be 0 is not. -/
  | reserved
  /-- E is 1 where no extension is taken, or 0 where one is required. -/
  | extension
  /-- An operand field names a class the entry does not accept. -/
  | operandClass
  /-- A field holds a value outside its range. -/
  | outOfRange
  deriving DecidableEq, Repr

/-- The code of R378. -/
def BadWord.code : BadWord → Nat
  | .unassigned => 1 | .reserved => 2 | .extension => 3 | .operandClass => 4 | .outOfRange => 5

/-- What a word stands for: an instruction, or a word that is not one. -/
inductive Decoded where
  /-- An instruction. -/
  | instr (i : Instr)
  /-- Not an instruction (R189). -/
  | bad (b : BadWord)
  deriving DecidableEq, Repr

/-- The n-bit field of a 32-bit word whose lowest bit is `lo`. -/
def fld (w : BitVec 32) (lo n : Nat) : BitVec n := BitVec.ofNat n (w.toNat / 2 ^ lo)

/-- The field is zero. -/
def zer (w : BitVec 32) (lo n : Nat) : Bool := fld w lo n == 0

/-- Bit [29], E. -/
def eBit (w : BitVec 32) : Bool := fld w 29 1 == 1

/-- Accept `i` when the zero fields are zero, E fits, the operand classes fit and no value is out of range. -/
def chk (zero e cls : Bool) (i : Instr) (rng : Bool := true) : Decoded :=
  if !zero then .bad .reserved else if !e then .bad .extension
  else if !cls then .bad .operandClass else if !rng then .bad .outOfRange else .instr i

/-- A v-only operand: the class bit is 0 (R239). -/
def vOnly (w : BitVec 32) (lo : Nat) : Bool := zer w (lo + 5) 1

/-- A mask operand: class 0 with [4:3] at 0 (R239). -/
def mOnly (w : BitVec 32) (lo : Nat) : Bool := zer w (lo + 3) 3

/-- A destination operand: no peek bit (R185). -/
def dOk (w : BitVec 32) (lo : Nat) : Bool := dstOk (fld w lo 6)

/-- The scalar map (R190): `w` is the first word, `x` the extension word. -/
def decS (w x : BitVec 32) : Decoded :=
  match (fld w 18 7).toNat with
  | 0x00 => chk (zer w 5 3) (!eBit w) true (.add (fld w 25 4) (fld w 13 5) (fld w 8 5) (fld w 0 5))
  | 0x01 => chk (zer w 5 3) (!eBit w) true (.sub (fld w 25 4) (fld w 13 5) (fld w 8 5) (fld w 0 5))
  | 0x02 => chk (zer w 5 3) (!eBit w) true (.mul (fld w 25 4) (fld w 13 5) (fld w 8 5) (fld w 0 5))
  | 0x03 => chk (true) (!eBit w) true (.mulh (fld w 25 4) (fld w 13 5) (fld w 8 5) (fld w 5 1) (fld w 0 5)) (zer w 6 2)
  | 0x04 => chk (true) (!eBit w) true (.div (fld w 25 4) (fld w 13 5) (fld w 8 5) (fld w 5 1) (fld w 0 5)) (zer w 6 2)
  | 0x05 => chk (true) (!eBit w) true (.rem (fld w 25 4) (fld w 13 5) (fld w 8 5) (fld w 5 1) (fld w 0 5)) (zer w 6 2)
  | 0x06 => chk (zer w 5 3) (!eBit w) true (.andr (fld w 25 4) (fld w 13 5) (fld w 8 5) (fld w 0 5))
  | 0x07 => chk (zer w 5 3) (!eBit w) true (.orr (fld w 25 4) (fld w 13 5) (fld w 8 5) (fld w 0 5))
  | 0x08 => chk (zer w 5 3) (!eBit w) true (.xorr (fld w 25 4) (fld w 13 5) (fld w 8 5) (fld w 0 5))
  | 0x09 => chk (zer w 5 3) (!eBit w) true (.shl (fld w 25 4) (fld w 13 5) (fld w 8 5) (fld w 0 5))
  | 0x0A => chk (zer w 5 3) (!eBit w) true (.shr (fld w 25 4) (fld w 13 5) (fld w 8 5) (fld w 0 5))
  | 0x0B => chk (zer w 5 3) (!eBit w) true (.sar (fld w 25 4) (fld w 13 5) (fld w 8 5) (fld w 0 5))
  | 0x0C => chk (zer w 5 3) (!eBit w) true (.ror (fld w 25 4) (fld w 13 5) (fld w 8 5) (fld w 0 5))
  | 0x0D => chk (true) (!eBit w) true (.minr (fld w 25 4) (fld w 13 5) (fld w 8 5) (fld w 5 1) (fld w 0 5)) (zer w 6 2)
  | 0x0E => chk (true) (!eBit w) true (.maxr (fld w 25 4) (fld w 13 5) (fld w 8 5) (fld w 5 1) (fld w 0 5)) (zer w 6 2)
  | 0x0F => chk (true) (!eBit w) true (.slt (fld w 25 4) (fld w 13 5) (fld w 8 5) (fld w 5 1) (fld w 0 5)) (zer w 6 2)
  | 0x10 => chk (zer w 5 3) (!eBit w) true (.seq (fld w 25 4) (fld w 13 5) (fld w 8 5) (fld w 0 5))
  | 0x11 => chk (zer w 5 3 && zer w 0 5) (!eBit w) true (.clz (fld w 25 4) (fld w 13 5) (fld w 8 5))
  | 0x12 => chk (zer w 5 3 && zer w 0 5) (!eBit w) true (.ctz (fld w 25 4) (fld w 13 5) (fld w 8 5))
  | 0x13 => chk (zer w 5 3 && zer w 0 5) (!eBit w) true (.popc (fld w 25 4) (fld w 13 5) (fld w 8 5))
  | 0x14 => chk (zer w 5 3) (!eBit w) true (.bext (fld w 25 4) (fld w 13 5) (fld w 8 5) (fld w 0 5))
  | 0x15 => chk (zer w 5 3) (!eBit w) true (.bins (fld w 25 4) (fld w 13 5) (fld w 8 5) (fld w 0 5))
  | 0x20 => if eBit w then chk (zer w 0 8) true true (.addiExt (fld w 25 4) (fld w 13 5) (fld w 8 5) x)
    else chk (true) true true (.addi (fld w 25 4) (fld w 13 5) (fld w 8 5) (fld w 0 8))
  | 0x21 => if eBit w then chk (zer w 0 8) true true (.andiExt (fld w 25 4) (fld w 13 5) (fld w 8 5) x)
    else chk (true) true true (.andi (fld w 25 4) (fld w 13 5) (fld w 8 5) (fld w 0 8))
  | 0x22 => if eBit w then chk (zer w 0 8) true true (.oriExt (fld w 25 4) (fld w 13 5) (fld w 8 5) x)
    else chk (true) true true (.ori (fld w 25 4) (fld w 13 5) (fld w 8 5) (fld w 0 8))
  | 0x23 => if eBit w then chk (zer w 0 8) true true (.xoriExt (fld w 25 4) (fld w 13 5) (fld w 8 5) x)
    else chk (true) true true (.xori (fld w 25 4) (fld w 13 5) (fld w 8 5) (fld w 0 8))
  | 0x24 => if eBit w then chk (zer w 0 8) true true (.shliExt (fld w 25 4) (fld w 13 5) (fld w 8 5) x)
    else chk (true) true true (.shli (fld w 25 4) (fld w 13 5) (fld w 8 5) (fld w 0 8))
  | 0x25 => if eBit w then chk (zer w 0 8) true true (.shriExt (fld w 25 4) (fld w 13 5) (fld w 8 5) x)
    else chk (true) true true (.shri (fld w 25 4) (fld w 13 5) (fld w 8 5) (fld w 0 8))
  | 0x26 => if eBit w then chk (zer w 0 8) true true (.sariExt (fld w 25 4) (fld w 13 5) (fld w 8 5) x)
    else chk (true) true true (.sari (fld w 25 4) (fld w 13 5) (fld w 8 5) (fld w 0 8))
  | 0x27 => if eBit w then chk (zer w 0 8) true true (.sltiExt (fld w 25 4) (fld w 13 5) (fld w 8 5) x)
    else chk (true) true true (.slti (fld w 25 4) (fld w 13 5) (fld w 8 5) (fld w 0 8))
  | 0x28 => if eBit w then chk (zer w 8 5 && zer w 0 8) true true (.liExt (fld w 25 4) (fld w 13 5) x)
    else chk (zer w 8 5) true true (.li (fld w 25 4) (fld w 13 5) (fld w 0 8))
  | 0x29 => if eBit w then chk (zer w 8 5 && zer w 0 8) true true (.lihExt (fld w 25 4) (fld w 13 5) x)
    else chk (zer w 8 5) true true (.lih (fld w 25 4) (fld w 13 5) (fld w 0 8))
  | 0x2A => if eBit w then chk (zer w 0 8) true true (.muliExt (fld w 25 4) (fld w 13 5) (fld w 8 5) x)
    else chk (true) true true (.muli (fld w 25 4) (fld w 13 5) (fld w 8 5) (fld w 0 8))
  | 0x30 => if eBit w then chk (zer w 0 8) true true (.ldI8Ext (fld w 25 4) (fld w 13 5) (fld w 8 5) x)
    else chk (true) true true (.ldI8 (fld w 25 4) (fld w 13 5) (fld w 8 5) (fld w 0 8))
  | 0x31 => if eBit w then chk (zer w 0 8) true true (.ldI16Ext (fld w 25 4) (fld w 13 5) (fld w 8 5) x)
    else chk (true) true true (.ldI16 (fld w 25 4) (fld w 13 5) (fld w 8 5) (fld w 0 8))
  | 0x32 => if eBit w then chk (zer w 0 8) true true (.ldI32Ext (fld w 25 4) (fld w 13 5) (fld w 8 5) x)
    else chk (true) true true (.ldI32 (fld w 25 4) (fld w 13 5) (fld w 8 5) (fld w 0 8))
  | 0x33 => if eBit w then chk (zer w 0 8) true true (.ld64Ext (fld w 25 4) (fld w 13 5) (fld w 8 5) x)
    else chk (true) true true (.ld64 (fld w 25 4) (fld w 13 5) (fld w 8 5) (fld w 0 8))
  | 0x34 => if eBit w then chk (zer w 0 8) true true (.ldN8Ext (fld w 25 4) (fld w 13 5) (fld w 8 5) x)
    else chk (true) true true (.ldN8 (fld w 25 4) (fld w 13 5) (fld w 8 5) (fld w 0 8))
  | 0x35 => if eBit w then chk (zer w 0 8) true true (.ldN16Ext (fld w 25 4) (fld w 13 5) (fld w 8 5) x)
    else chk (true) true true (.ldN16 (fld w 25 4) (fld w 13 5) (fld w 8 5) (fld w 0 8))
  | 0x36 => if eBit w then chk (zer w 0 8) true true (.ldN32Ext (fld w 25 4) (fld w 13 5) (fld w 8 5) x)
    else chk (true) true true (.ldN32 (fld w 25 4) (fld w 13 5) (fld w 8 5) (fld w 0 8))
  | 0x38 => if eBit w then chk (zer w 0 8) true true (.st8Ext (fld w 25 4) (fld w 13 5) (fld w 8 5) x)
    else chk (true) true true (.st8 (fld w 25 4) (fld w 13 5) (fld w 8 5) (fld w 0 8))
  | 0x39 => if eBit w then chk (zer w 0 8) true true (.st16Ext (fld w 25 4) (fld w 13 5) (fld w 8 5) x)
    else chk (true) true true (.st16 (fld w 25 4) (fld w 13 5) (fld w 8 5) (fld w 0 8))
  | 0x3A => if eBit w then chk (zer w 0 8) true true (.st32Ext (fld w 25 4) (fld w 13 5) (fld w 8 5) x)
    else chk (true) true true (.st32 (fld w 25 4) (fld w 13 5) (fld w 8 5) (fld w 0 8))
  | 0x3B => if eBit w then chk (zer w 0 8) true true (.st64Ext (fld w 25 4) (fld w 13 5) (fld w 8 5) x)
    else chk (true) true true (.st64 (fld w 25 4) (fld w 13 5) (fld w 8 5) (fld w 0 8))
  | 0x3C => if eBit w then chk (zer w 13 5 && zer w 0 8) true true (.prefExt (fld w 25 4) (fld w 8 5) x)
    else chk (zer w 13 5) true true (.pref (fld w 25 4) (fld w 8 5) (fld w 0 8))
  | 0x3E => if eBit w then chk (zer w 17 1 && zer w 0 8) true true (.sldrExt (fld w 25 4) (fld w 13 4) (fld w 8 5) x)
    else chk (zer w 17 1) true true (.sldr (fld w 25 4) (fld w 13 4) (fld w 8 5) (fld w 0 8))
  | 0x3F => if eBit w then chk (zer w 17 1 && zer w 0 8) true true (.sstrExt (fld w 25 4) (fld w 13 4) (fld w 8 5) x)
    else chk (zer w 17 1) true true (.sstr (fld w 25 4) (fld w 13 4) (fld w 8 5) (fld w 0 8))
  | 0x40 => chk (zer w 0 18) (!eBit w) true (.qsync (fld w 25 4))
  | 0x41 => chk (zer w 3 15) (!eBit w) true (.fence (fld w 25 4) (fld w 0 3))
  | 0x42 => chk (zer w 0 18) (!eBit w) true (.tok (fld w 25 4))
  | 0x48 => chk (zer w 17 1 && zer w 0 8) (!eBit w) true (.capture (fld w 25 4) (fld w 13 4) (fld w 8 5))
  | 0x49 => chk (zer w 17 1 && zer w 12 1 && zer w 0 8) (!eBit w) true (.kdup (fld w 25 4) (fld w 13 4) (fld w 8 4))
  | 0x4A => chk (zer w 12 6 && zer w 0 8) (!eBit w) true (.kdrop (fld w 25 4) (fld w 8 4))
  | 0x4B => if eBit w then chk (zer w 17 1 && zer w 0 8) true true (.kstExt (fld w 25 4) (fld w 13 4) (fld w 8 5) x)
    else chk (zer w 17 1) true true (.kst (fld w 25 4) (fld w 13 4) (fld w 8 5) (fld w 0 8))
  | 0x4C => if eBit w then chk (zer w 17 1 && zer w 0 8) true true (.kldExt (fld w 25 4) (fld w 13 4) (fld w 8 5) x)
    else chk (zer w 17 1) true true (.kld (fld w 25 4) (fld w 13 4) (fld w 8 5) (fld w 0 8))
  | 0x4D => chk (zer w 0 8) (!eBit w) true (.frame (fld w 25 4) (fld w 13 5) (fld w 8 5))
  | 0x4E => chk (zer w 13 5 && zer w 0 8) (!eBit w) true (.frpop (fld w 25 4) (fld w 8 5))
  | 0x58 => chk (true) (!eBit w) true (.sysrd (fld w 25 4) (fld w 13 5) (fld w 0 13))
  | 0x59 => chk (true) (!eBit w) true (.syswr (fld w 25 4) (fld w 13 5) (fld w 0 13))
  | 0x5A => chk (zer w 8 10) (!eBit w) true (.trap (fld w 25 4) (fld w 0 8))
  | 0x5B => chk (zer w 0 18) (!eBit w) true (.eret (fld w 25 4))
  | 0x5C => chk (zer w 17 1 && zer w 0 8) (!eBit w) true (.cpush (fld w 25 4) (fld w 13 4) (fld w 8 5))
  | 0x5D => chk (zer w 0 8) (!eBit w) true (.cpop (fld w 25 4) (fld w 13 5) (fld w 12 1) (fld w 8 4))
  | 0x5E => chk (zer w 17 1 && zer w 12 1 && zer w 0 8) (!eBit w) true (.kpush (fld w 25 4) (fld w 13 4) (fld w 8 4))
  | 0x5F => chk (zer w 17 1 && zer w 12 1 && zer w 0 8) (!eBit w) true (.kpop (fld w 25 4) (fld w 13 4) (fld w 8 4))
  | 0x60 => if eBit w then chk (true) true true (.jExt (fld w 25 4) (fld w 0 18) x)
    else chk (true) true true (.j (fld w 25 4) (fld w 0 18))
  | 0x61 => if eBit w then chk (true) true true (.jlExt (fld w 25 4) (fld w 0 18) x)
    else chk (true) true true (.jl (fld w 25 4) (fld w 0 18))
  | 0x62 => if eBit w then chk (zer w 0 8) true true (.beqExt (fld w 25 4) (fld w 13 5) (fld w 8 5) x)
    else chk (true) true true (.beq (fld w 25 4) (fld w 13 5) (fld w 8 5) (fld w 0 8))
  | 0x63 => if eBit w then chk (zer w 0 8) true true (.bneExt (fld w 25 4) (fld w 13 5) (fld w 8 5) x)
    else chk (true) true true (.bne (fld w 25 4) (fld w 13 5) (fld w 8 5) (fld w 0 8))
  | 0x64 => if eBit w then chk (zer w 0 8) true true (.bltExt (fld w 25 4) (fld w 13 5) (fld w 8 5) x)
    else chk (true) true true (.blt (fld w 25 4) (fld w 13 5) (fld w 8 5) (fld w 0 8))
  | 0x65 => if eBit w then chk (zer w 0 8) true true (.bgeExt (fld w 25 4) (fld w 13 5) (fld w 8 5) x)
    else chk (true) true true (.bge (fld w 25 4) (fld w 13 5) (fld w 8 5) (fld w 0 8))
  | 0x66 => if eBit w then chk (zer w 0 8) true true (.bltnExt (fld w 25 4) (fld w 13 5) (fld w 8 5) x)
    else chk (true) true true (.bltn (fld w 25 4) (fld w 13 5) (fld w 8 5) (fld w 0 8))
  | 0x67 => if eBit w then chk (zer w 0 8) true true (.bgenExt (fld w 25 4) (fld w 13 5) (fld w 8 5) x)
    else chk (true) true true (.bgen (fld w 25 4) (fld w 13 5) (fld w 8 5) (fld w 0 8))
  | 0x68 => chk (zer w 13 5 && zer w 0 8) (!eBit w) true (.jr (fld w 25 4) (fld w 8 5))
  | 0x69 => if eBit w then chk (zer w 0 8 && zer x 16 16) true true (.jtabExt (fld w 25 4) (fld w 13 5) (fld w 8 5) (fld x 0 16))
    else chk (true) true true (.jtab (fld w 25 4) (fld w 13 5) (fld w 8 5) (fld w 0 8))
  | 0x6A => chk (zer w 13 5) (!eBit w) true (.loop (fld w 25 4) (fld w 8 5) (fld w 0 8))
  | 0x6B => chk (zer w 25 4 && zer w 8 10 && zer w 0 3) (!eBit w) true (.lstg (fld w 5 3) (fld w 4 1) (fld w 3 1))
  | 0x6C => chk (zer w 12 6 && zer w 0 8) (!eBit w) true (.apply (fld w 25 4) (fld w 8 4))
  | 0x6D => chk (zer w 0 18) (!eBit w) true (.halt (fld w 25 4))
  | _ => .bad .unassigned

/-- The vector map (R191): `w` is the first word, `x` the extension word. R239's list of the fields that may name channels leaves out the index field of VGATH and
VSCAT, the source of VMVG and the destinations of VBCAST, VIOTA, VLDS and VGATH; that channels are accepted in them too is a DESIGN CHOICE (log 66). -/
def decV (w x : BitVec 32) : Decoded :=
  match (fld w 19 6).toNat with
  | 0x00 => chk (zer w 13 6 && zer w 7 6 && zer w 1 6 && zer w 0 1 && (!eBit w || vshapeOk x)) (eBit w) (true) (.vshape (fld w 25 4) x)
  | 0x01 => chk (dOk w 13) (!eBit w) (true) (.vadd (fld w 25 4) (fld w 13 6) (fld w 7 6) (fld w 1 6) (fld w 0 1))
  | 0x02 => chk (dOk w 13) (!eBit w) (true) (.vsub (fld w 25 4) (fld w 13 6) (fld w 7 6) (fld w 1 6) (fld w 0 1))
  | 0x03 => chk (dOk w 13) (!eBit w) (true) (.vmul (fld w 25 4) (fld w 13 6) (fld w 7 6) (fld w 1 6) (fld w 0 1))
  | 0x04 => chk (true) (!eBit w) (vOnly w 13) (.vfma (fld w 25 4) (fld w 13 5) (fld w 7 6) (fld w 1 6) (fld w 0 1))
  | 0x05 => chk (true) (!eBit w) (vOnly w 13) (.vfms (fld w 25 4) (fld w 13 5) (fld w 7 6) (fld w 1 6) (fld w 0 1))
  | 0x06 => chk (dOk w 13) (!eBit w) (true) (.vdiv (fld w 25 4) (fld w 13 6) (fld w 7 6) (fld w 1 6) (fld w 0 1))
  | 0x07 => chk (dOk w 13 && zer w 1 6) (!eBit w) (true) (.vsqrt (fld w 25 4) (fld w 13 6) (fld w 7 6) (fld w 0 1))
  | 0x08 => chk (dOk w 13) (!eBit w) (true) (.vmin (fld w 25 4) (fld w 13 6) (fld w 7 6) (fld w 1 6) (fld w 0 1))
  | 0x09 => chk (dOk w 13) (!eBit w) (true) (.vmax (fld w 25 4) (fld w 13 6) (fld w 7 6) (fld w 1 6) (fld w 0 1))
  | 0x0A => chk (dOk w 13 && zer w 1 6) (!eBit w) (true) (.vabs (fld w 25 4) (fld w 13 6) (fld w 7 6) (fld w 0 1))
  | 0x0B => chk (dOk w 13 && zer w 1 6) (!eBit w) (true) (.vneg (fld w 25 4) (fld w 13 6) (fld w 7 6) (fld w 0 1))
  | 0x0C => chk (dOk w 13) (!eBit w) (true) (.vadds (fld w 25 4) (fld w 13 6) (fld w 7 6) (fld w 1 6) (fld w 0 1))
  | 0x0D => chk (dOk w 13) (!eBit w) (true) (.vsubs (fld w 25 4) (fld w 13 6) (fld w 7 6) (fld w 1 6) (fld w 0 1))
  | 0x0E => chk (dOk w 13) (!eBit w) (true) (.vand (fld w 25 4) (fld w 13 6) (fld w 7 6) (fld w 1 6) (fld w 0 1))
  | 0x0F => chk (dOk w 13) (!eBit w) (true) (.vor (fld w 25 4) (fld w 13 6) (fld w 7 6) (fld w 1 6) (fld w 0 1))
  | 0x10 => chk (dOk w 13) (!eBit w) (true) (.vxor (fld w 25 4) (fld w 13 6) (fld w 7 6) (fld w 1 6) (fld w 0 1))
  | 0x11 => chk (dOk w 13) (!eBit w) (true) (.vshl (fld w 25 4) (fld w 13 6) (fld w 7 6) (fld w 1 6) (fld w 0 1))
  | 0x12 => chk (dOk w 13) (!eBit w) (true) (.vshr (fld w 25 4) (fld w 13 6) (fld w 7 6) (fld w 1 6) (fld w 0 1))
  | 0x13 => chk (dOk w 13) (!eBit w) (true) (.vsar (fld w 25 4) (fld w 13 6) (fld w 7 6) (fld w 1 6) (fld w 0 1))
  | 0x14 => chk (dOk w 13) (!eBit w) (true) (.vmulh (fld w 25 4) (fld w 13 6) (fld w 7 6) (fld w 1 6) (fld w 0 1))
  | 0x15 => chk (true) (!eBit w) (mOnly w 13) (.vcmpeq (fld w 25 4) (fld w 13 3) (fld w 7 6) (fld w 1 6) (fld w 0 1))
  | 0x16 => chk (true) (!eBit w) (mOnly w 13) (.vcmplt (fld w 25 4) (fld w 13 3) (fld w 7 6) (fld w 1 6) (fld w 0 1))
  | 0x17 => chk (true) (!eBit w) (mOnly w 13) (.vcmple (fld w 25 4) (fld w 13 3) (fld w 7 6) (fld w 1 6) (fld w 0 1))
  | 0x18 => chk (zer w 0 1) (!eBit w) (mOnly w 13 && mOnly w 7 && mOnly w 1) (.vmand (fld w 25 4) (fld w 13 3) (fld w 7 3) (fld w 1 3))
  | 0x19 => chk (zer w 0 1) (!eBit w) (mOnly w 13 && mOnly w 7 && mOnly w 1) (.vmor (fld w 25 4) (fld w 13 3) (fld w 7 3) (fld w 1 3))
  | 0x1A => chk (zer w 0 1) (!eBit w) (mOnly w 13 && mOnly w 7 && mOnly w 1) (.vmxor (fld w 25 4) (fld w 13 3) (fld w 7 3) (fld w 1 3))
  | 0x1B => chk (zer w 1 6 && zer w 0 1) (!eBit w) (mOnly w 13 && mOnly w 7) (.vmnot (fld w 25 4) (fld w 13 3) (fld w 7 3))
  | 0x1C => chk (dOk w 13 && zer w 0 1) (!eBit w) (true) (.vsel (fld w 25 4) (fld w 13 6) (fld w 7 6) (fld w 1 6))
  | 0x1D => chk (dOk w 13 && zer w 1 6 && (!eBit w || zer x 6 26)) (eBit w) (true) (.vcvt (fld w 25 4) (fld w 13 6) (fld w 7 6) (fld w 0 1) (fld x 4 2) (fld x 0 4))
  | 0x1E => chk (dOk w 13 && zer w 1 6 && (!eBit w || zer x 6 26)) (eBit w) (true) (.vq8q (fld w 25 4) (fld w 13 6) (fld w 7 6) (fld w 0 1) (fld x 4 2) (fld x 0 4))
  | 0x1F => chk (dOk w 13 && zer w 1 6 && (!eBit w || zer x 6 26)) (eBit w) (true) (.vq8d (fld w 25 4) (fld w 13 6) (fld w 7 6) (fld w 0 1) (fld x 4 2) (fld x 0 4))
  | 0x20 => chk (dOk w 13 && zer w 1 6 && (!eBit w || zer x 6 26)) (eBit w) (true) (.vz4q (fld w 25 4) (fld w 13 6) (fld w 7 6) (fld w 0 1) (fld x 4 2) (fld x 0 4))
  | 0x21 => chk (dOk w 13 && zer w 1 6 && (!eBit w || zer x 6 26)) (eBit w) (true) (.vz4d (fld w 25 4) (fld w 13 6) (fld w 7 6) (fld w 0 1) (fld x 4 2) (fld x 0 4))
  | 0x22 => chk (zer w 13 6 && zer w 1 6 && (!eBit w || zer x 0 27)) (eBit w) (true) (.vrsum (fld w 25 4) (fld w 7 6) (fld w 0 1) (fld x 27 5))
  | 0x23 => chk (zer w 13 6 && zer w 1 6 && (!eBit w || zer x 0 27)) (eBit w) (true) (.vrmin (fld w 25 4) (fld w 7 6) (fld w 0 1) (fld x 27 5))
  | 0x24 => chk (zer w 13 6 && zer w 1 6 && (!eBit w || zer x 0 27)) (eBit w) (true) (.vrmax (fld w 25 4) (fld w 7 6) (fld w 0 1) (fld x 27 5))
  | 0x25 => chk (dOk w 13) (!eBit w) (true) (.vperm (fld w 25 4) (fld w 13 6) (fld w 7 6) (fld w 1 6) (fld w 0 1))
  | 0x26 => chk (dOk w 13 && zer w 7 6 && zer w 1 6 && (!eBit w || zer x 0 27)) (eBit w) (true) (.vbcast (fld w 25 4) (fld w 13 6) (fld w 0 1) (fld x 27 5))
  | 0x27 => chk (dOk w 13) (!eBit w) (true) (.vslide (fld w 25 4) (fld w 13 6) (fld w 7 6) (fld w 1 6) (fld w 0 1))
  | 0x28 => chk (dOk w 13) (!eBit w) (true) (.vzip (fld w 25 4) (fld w 13 6) (fld w 7 6) (fld w 1 6) (fld w 0 1))
  | 0x29 => chk (dOk w 13 && zer w 1 6) (!eBit w) (true) (.vunzip (fld w 25 4) (fld w 13 6) (fld w 7 6) (fld w 0 1))
  | 0x2A => chk (dOk w 13 && zer w 7 6 && zer w 1 6) (eBit w) (true) (.vld (fld w 25 4) (fld w 13 6) (fld w 0 1) (fld x 27 5) (fld x 0 27))
  | 0x2B => chk (zer w 13 6 && zer w 1 6) (eBit w) (true) (.vst (fld w 25 4) (fld w 7 6) (fld w 0 1) (fld x 27 5) (fld x 0 27))
  | 0x2C => chk (dOk w 13 && zer w 7 6 && zer w 5 2) (!eBit w) (true) (.vlds (fld w 25 4) (fld w 13 6) (fld w 1 4) (fld w 0 1))
  | 0x2D => chk (zer w 13 6 && zer w 5 2) (!eBit w) (true) (.vsts (fld w 25 4) (fld w 7 6) (fld w 1 4) (fld w 0 1))
  | 0x2E => chk (dOk w 13 && zer w 7 6) (eBit w) (true) (.vgath (fld w 25 4) (fld w 13 6) (fld w 1 6) (fld w 0 1) (fld x 27 5) (fld x 0 27))
  | 0x2F => chk (zer w 13 6) (eBit w) (true) (.vscat (fld w 25 4) (fld w 7 6) (fld w 1 6) (fld w 0 1) (fld x 27 5) (fld x 0 27))
  | 0x30 => chk (zer w 13 6 && zer w 1 6 && zer w 0 1 && (!eBit w || zer x 0 27)) (eBit w) (true) (.vmvg (fld w 25 4) (fld w 7 6) (fld x 27 5))
  | 0x31 => chk (zer w 13 6 && zer w 4 3) (!eBit w) (vOnly w 7) (.defer (fld w 25 4) (fld w 7 5) (fld w 1 3) (fld w 0 1))
  | 0x32 => chk (zer w 10 3 && zer w 1 6 && zer w 0 1) (!eBit w) (vOnly w 13) (.vdrain (fld w 25 4) (fld w 13 5) (fld w 7 3))
  | 0x33 => chk (zer w 4 3) (!eBit w) (vOnly w 13 && vOnly w 7) (.vapply (fld w 25 4) (fld w 13 5) (fld w 7 5) (fld w 1 3) (fld w 0 1))
  | 0x34 => chk (zer w 13 6 && zer w 7 6 && zer w 1 6 && zer w 0 1 && (!eBit w || zer x 0 27)) (eBit w) (true) (.banklend (fld w 25 4) (fld x 27 5))
  | 0x35 => chk (zer w 13 6 && zer w 7 6 && zer w 1 6 && zer w 0 1 && (!eBit w || zer x 0 27)) (eBit w) (true) (.bankret (fld w 25 4) (fld x 27 5))
  | 0x36 => chk (dOk w 13 && zer w 7 6 && zer w 1 6) (!eBit w) (true) (.viota (fld w 25 4) (fld w 13 6) (fld w 0 1))
  | 0x37 => chk (zer w 13 6 && zer w 1 6 && zer w 0 1 && (!eBit w || zer x 0 27)) (eBit w) (mOnly w 7) (.vmpop (fld w 25 4) (fld w 7 3) (fld x 27 5))
  | _ => .bad .unassigned

/-- The matrix and sketch map (R192): `w` is the first word, `x` the extension word. -/
def decM (w x : BitVec 32) : Decoded :=
  match (fld w 20 5).toNat with
  | 0x00 => chk (zer w 0 6) (!eBit w) true (.mma (fld w 25 4) (fld w 18 2) (fld w 14 4) (fld w 10 4) (fld w 9 1) (fld w 8 1) (fld w 7 1) (fld w 6 1))
  | 0x01 => chk (zer w 0 6 && (!eBit w || zer x 4 28)) (eBit w) true (.mmas (fld w 25 4) (fld w 18 2) (fld w 14 4) (fld w 10 4) (fld w 9 1) (fld w 8 1) (fld w 7 1) (fld w 6 1) (fld x 0 4))
  | 0x02 => chk (zer w 0 7 && zer w 8 10 && (!eBit w || zer x 0 25)) (eBit w) true (.mdrain (fld w 25 4) (fld w 18 2) (fld w 7 1) (fld x 27 5) (fld x 25 2))
  | 0x03 => chk (zer w 0 10 && zer w 12 6) (!eBit w) true (.mswap (fld w 25 4) (fld w 18 2) (fld w 10 2))
  | 0x04 => chk (zer w 6 1 && zer w 8 6 && (if zer w 7 1 then zer w 0 6 else zer w 18 2)) (!eBit w) true (.mfclr (fld w 25 4) (fld w 18 2) (fld w 14 4) (fld w 7 1) (fld w 0 6))
  | 0x05 => chk (zer w 0 20) (!eBit w) true (.mlease (fld w 25 4))
  | 0x06 => chk (zer w 0 20) (!eBit w) true (.mrel (fld w 25 4))
  | 0x07 => chk (zer w 0 18) (!eBit w) true (.tstart (fld w 25 4) (fld w 18 2))
  | 0x08 => chk (zer w 0 8 && zer w 18 2) (eBit w) true (.mkat (fld w 25 4) (fld w 14 4) (fld w 10 4) (fld w 9 1) (fld w 8 1) x)
  | 0x10 => chk (zer w 6 14 && (!eBit w || zer x 0 27)) (eBit w) true (.skcfg (fld w 25 4) (fld w 0 6) (fld x 27 5))
  | 0x11 => chk (zer w 6 2 && zer w 18 2) (!eBit w) true (.skfold (fld w 25 4) (fld w 14 4) (fld w 10 4) (fld w 9 1) (fld w 8 1) (fld w 0 6))
  | 0x12 => chk (zer w 6 14) (!eBit w) true (.skshrink (fld w 25 4) (fld w 0 6))
  | 0x13 => chk (zer w 6 14) (eBit w) true (.skmerge (fld w 25 4) (fld w 0 6) (fld x 27 5) (fld x 0 27))
  | 0x14 => chk (zer w 6 14) (eBit w) true (.skemit (fld w 25 4) (fld w 0 6) (fld x 27 5) (fld x 0 27))
  | 0x15 => chk (zer w 6 14) (eBit w) true (.skstat (fld w 25 4) (fld w 0 6) (fld x 27 5) (fld x 0 27))
  | _ => .bad .unassigned

/-- The transfer map (R193): `w` is the first word, `x` the extension word; RSEL and WSEL name fields that the entry uses as addresses (R288). -/
def decX (w x : BitVec 32) : Decoded :=
  match (fld w 20 5).toNat with
  | 0x00 => if eBit w then chk (true) true (selOk [1, 2] (fld x 28 2) && selOk [1, 2] (fld x 30 2)) (.xmoveExt (fld w 25 4) (fld w 15 5) (fld w 10 5) (fld w 5 5) (fld w 0 5) (fld x 30 2) (fld x 28 2) (fld x 26 2) (fld x 13 13) (fld x 0 13))
    else chk (true) true (true) (.xmove (fld w 25 4) (fld w 15 5) (fld w 10 5) (fld w 5 5) (fld w 0 5))
  | 0x01 => chk (zer w 10 5 && zer w 5 5 && zer w 0 5) (eBit w) (selOk [1] (fld x 28 2) && selOk [1] (fld x 30 2)) (.xfoot (fld w 25 4) (fld w 15 5) (fld x 30 2) (fld x 28 2) (fld x 26 2) (fld x 13 13) (fld x 0 13))
  | 0x02 => chk (zer w 0 5) (eBit w) (selOk [1, 2] (fld x 28 2) && selOk [1, 2] (fld x 30 2)) (.xscat (fld w 25 4) (fld w 15 5) (fld w 10 5) (fld w 5 5) (fld x 30 2) (fld x 28 2) (fld x 26 2) (fld x 13 13) (fld x 0 13))
  | 0x03 => chk (zer w 15 5 && zer w 10 5 && zer w 5 5) (!eBit w) (true) (.xbar (fld w 25 4) (fld w 0 5))
  | 0x04 => chk (zer w 5 5 && zer w 0 5) (!eBit w) (true) (.xevset (fld w 25 4) (fld w 15 5) (fld w 10 5))
  | 0x05 => chk (zer w 10 5 && zer w 5 5 && zer w 0 5) (!eBit w) (true) (.xevsig (fld w 25 4) (fld w 15 5))
  | 0x06 => chk (zer w 10 5 && zer w 5 5 && zer w 0 5) (!eBit w) (true) (.xevwait (fld w 25 4) (fld w 15 5))
  | 0x07 => chk (zer w 5 5 && zer w 0 5) (!eBit w) (true) (.xtail (fld w 25 4) (fld w 15 5) (fld w 10 5))
  | 0x08 => chk ((!eBit w || zer x 28 2)) (eBit w) (selOk [1] (fld x 30 2)) (.xsend (fld w 25 4) (fld w 15 5) (fld w 10 5) (fld w 5 5) (fld w 0 5) (fld x 30 2) (fld x 28 2) (fld x 26 2) (fld x 13 13) (fld x 0 13))
  | 0x09 => chk ((!eBit w || zer x 28 2)) (eBit w) (selOk [1] (fld x 30 2)) (.xsendo (fld w 25 4) (fld w 15 5) (fld w 10 5) (fld w 5 5) (fld w 0 5) (fld x 30 2) (fld x 28 2) (fld x 26 2) (fld x 13 13) (fld x 0 13))
  | 0x0A => chk (zer w 0 5) (eBit w) (selOk [1, 2] (fld x 28 2) && selOk [1, 2] (fld x 30 2)) (.xred (fld w 25 4) (fld w 15 5) (fld w 10 5) (fld w 5 5) (fld x 30 2) (fld x 28 2) (fld x 26 2) (fld x 13 13) (fld x 0 13))
  | 0x0B => chk (zer w 5 5 && zer w 0 5) (eBit w) (selOk [1, 2] (fld x 28 2) && selOk [1, 2] (fld x 30 2)) (.xcoll (fld w 25 4) (fld w 15 5) (fld w 10 5) (fld x 30 2) (fld x 28 2) (fld x 26 2) (fld x 13 13) (fld x 0 13))
  | 0x0C => chk (zer w 0 5) (eBit w) (selOk [2] (fld x 28 2) && selOk [2] (fld x 30 2)) (.xsubmit (fld w 25 4) (fld w 15 5) (fld w 10 5) (fld w 5 5) (fld x 30 2) (fld x 28 2) (fld x 26 2) (fld x 13 13) (fld x 0 13))
  | 0x0D => chk (zer w 5 5 && zer w 0 5) (!eBit w) (true) (.xarrive (fld w 25 4) (fld w 15 5) (fld w 10 5))
  | 0x0E => chk (zer w 0 5) (eBit w) (selOk [2] (fld x 28 2) && selOk [2] (fld x 30 2)) (.xkeyld (fld w 25 4) (fld w 15 5) (fld w 10 5) (fld w 5 5) (fld x 30 2) (fld x 28 2) (fld x 26 2) (fld x 13 13) (fld x 0 13))
  | 0x0F => chk (zer w 10 5 && zer w 5 5 && zer w 0 5) (!eBit w) (true) (.xkeysw (fld w 25 4) (fld w 15 5))
  | _ => .bad .unassigned

/-- The engine tag [31:30] of a word (R17): 0 S, 1 V, 2 M, 3 X. -/
def wordTag (w : BitVec 32) : BitVec 2 := fld w 30 2

/-- The instruction that the word `w`, with extension word `x` where E is 1, stands for. -/
def decode (w x : BitVec 32) : Decoded :=
  match (wordTag w).toNat with
  | 0 => decS w x
  | 1 => decV w x
  | 2 => decM w x
  | _ => decX w x

/-- A scalar-tagged word of the all-agent class (R39): opcodes 0x60 to 0x6F except LSTG. -/
def isAllAgent (w : BitVec 32) : Bool :=
  wordTag w == 0 && (fld w 22 3 == 0b110) && fld w 18 7 != 0x6B

/-- The fields [7:3] of an LSTG, which every agent reads (R38): stage, first-only, last-only. -/
def lstgFields (w : BitVec 32) : Option (BitVec 3 × Bool × Bool) :=
  if wordTag w == 0 && fld w 18 7 == 0x6B then some (fld w 5 3, fld w 4 1 == 1, fld w 3 1 == 1) else none

/-- A 32-bit word from four bytes, lowest address first (R182). -/
def leWord (b : List (BitVec 8)) : BitVec 32 :=
  BitVec.ofNat 32 ((b.getD 0 0).toNat + (b.getD 1 0).toNat * 2 ^ 8 + (b.getD 2 0).toNat * 2 ^ 16 + (b.getD 3 0).toNat * 2 ^ 24)

/-- The four bytes of a 32-bit word, lowest address first (R182). -/
def leBytes (w : BitVec 32) : List (BitVec 8) := [fld w 0 8, fld w 8 8, fld w 16 8, fld w 24 8]

/-- Decode the first instruction of a run of bytes; the extension word is read where E is 1. -/
def decodeBytes (b : List (BitVec 8)) : Decoded :=
  let w := leWord b
  decode w (if eBit w then leWord (b.drop 4) else 0)

/-- The instruction of a word numbered as spec/opcode_table.json numbers it: the first word in bits [31:0], the
extension in [63:32]; the bits at and above `nbits` are 0. -/
def decodeTableWord (nbits w : Nat) : Option Instr :=
  let v := w % 2 ^ nbits
  match decodeBytes (leBytes (BitVec.ofNat 32 v) ++ leBytes (BitVec.ofNat 32 (v / 2 ^ 32))) with
  | .instr i => some i
  | .bad _ => none

/-! The encoder. -/

/-- The word whose fields have these values at these lowest bits. -/
def packed (l : List (Nat × Nat)) : BitVec 32 := BitVec.ofNat 32 (l.foldr (fun p r => p.1 * 2 ^ p.2 + r) 0)

/-- A scalar word (R183, R184): the form's fields are in `b`, bits [17:0]. -/
def encS (e : Nat) (t : BitVec 4) (op : Nat) (b : List (Nat × Nat)) : BitVec 32 :=
  packed ((e, 29) :: (t.toNat, 25) :: (op, 18) :: b)

/-- A vector word (R185): the operand fields are in `b`, bits [18:0]. -/
def encV (e : Nat) (t : BitVec 4) (op : Nat) (b : List (Nat × Nat)) : BitVec 32 :=
  packed ((1, 30) :: (e, 29) :: (t.toNat, 25) :: (op, 19) :: b)

/-- A matrix word (R187): the fields are in `b`, bits [19:0]. -/
def encM (e : Nat) (t : BitVec 4) (op : Nat) (b : List (Nat × Nat)) : BitVec 32 :=
  packed ((2, 30) :: (e, 29) :: (t.toNat, 25) :: (op, 20) :: b)

/-- A transfer word (R188): the register fields are in `b`, bits [19:0]. -/
def encX (e : Nat) (t : BitVec 4) (op : Nat) (b : List (Nat × Nat)) : BitVec 32 :=
  packed ((3, 30) :: (e, 29) :: (t.toNat, 25) :: (op, 20) :: b)

/-- The first word and the extension word (0 where there is none) of an instruction; an event has no encoding. -/
def encode (i : Instr) : Option (BitVec 32 × BitVec 32) :=
  match i with
  | .add t d a b => some (encS 0 t 0x0 [(d.toNat, 13), (a.toNat, 8), (b.toNat, 0)], 0)
  | .sub t d a b => some (encS 0 t 0x1 [(d.toNat, 13), (a.toNat, 8), (b.toNat, 0)], 0)
  | .mul t d a b => some (encS 0 t 0x2 [(d.toNat, 13), (a.toNat, 8), (b.toNat, 0)], 0)
  | .mulh t d a s b => some (encS 0 t 0x3 [(d.toNat, 13), (a.toNat, 8), (s.toNat, 5), (b.toNat, 0)], 0)
  | .div t d a s b => some (encS 0 t 0x4 [(d.toNat, 13), (a.toNat, 8), (s.toNat, 5), (b.toNat, 0)], 0)
  | .rem t d a s b => some (encS 0 t 0x5 [(d.toNat, 13), (a.toNat, 8), (s.toNat, 5), (b.toNat, 0)], 0)
  | .andr t d a b => some (encS 0 t 0x6 [(d.toNat, 13), (a.toNat, 8), (b.toNat, 0)], 0)
  | .orr t d a b => some (encS 0 t 0x7 [(d.toNat, 13), (a.toNat, 8), (b.toNat, 0)], 0)
  | .xorr t d a b => some (encS 0 t 0x8 [(d.toNat, 13), (a.toNat, 8), (b.toNat, 0)], 0)
  | .shl t d a b => some (encS 0 t 0x9 [(d.toNat, 13), (a.toNat, 8), (b.toNat, 0)], 0)
  | .shr t d a b => some (encS 0 t 0xa [(d.toNat, 13), (a.toNat, 8), (b.toNat, 0)], 0)
  | .sar t d a b => some (encS 0 t 0xb [(d.toNat, 13), (a.toNat, 8), (b.toNat, 0)], 0)
  | .ror t d a b => some (encS 0 t 0xc [(d.toNat, 13), (a.toNat, 8), (b.toNat, 0)], 0)
  | .minr t d a s b => some (encS 0 t 0xd [(d.toNat, 13), (a.toNat, 8), (s.toNat, 5), (b.toNat, 0)], 0)
  | .maxr t d a s b => some (encS 0 t 0xe [(d.toNat, 13), (a.toNat, 8), (s.toNat, 5), (b.toNat, 0)], 0)
  | .slt t d a s b => some (encS 0 t 0xf [(d.toNat, 13), (a.toNat, 8), (s.toNat, 5), (b.toNat, 0)], 0)
  | .seq t d a b => some (encS 0 t 0x10 [(d.toNat, 13), (a.toNat, 8), (b.toNat, 0)], 0)
  | .clz t d a => some (encS 0 t 0x11 [(d.toNat, 13), (a.toNat, 8)], 0)
  | .ctz t d a => some (encS 0 t 0x12 [(d.toNat, 13), (a.toNat, 8)], 0)
  | .popc t d a => some (encS 0 t 0x13 [(d.toNat, 13), (a.toNat, 8)], 0)
  | .bext t d a b => some (encS 0 t 0x14 [(d.toNat, 13), (a.toNat, 8), (b.toNat, 0)], 0)
  | .bins t d a b => some (encS 0 t 0x15 [(d.toNat, 13), (a.toNat, 8), (b.toNat, 0)], 0)
  | .addi t d a i => some (encS 0 t 0x20 [(d.toNat, 13), (a.toNat, 8), (i.toNat, 0)], 0)
  | .addiExt t d a x => some (encS 1 t 0x20 [(d.toNat, 13), (a.toNat, 8)], x)
  | .andi t d a i => some (encS 0 t 0x21 [(d.toNat, 13), (a.toNat, 8), (i.toNat, 0)], 0)
  | .andiExt t d a x => some (encS 1 t 0x21 [(d.toNat, 13), (a.toNat, 8)], x)
  | .ori t d a i => some (encS 0 t 0x22 [(d.toNat, 13), (a.toNat, 8), (i.toNat, 0)], 0)
  | .oriExt t d a x => some (encS 1 t 0x22 [(d.toNat, 13), (a.toNat, 8)], x)
  | .xori t d a i => some (encS 0 t 0x23 [(d.toNat, 13), (a.toNat, 8), (i.toNat, 0)], 0)
  | .xoriExt t d a x => some (encS 1 t 0x23 [(d.toNat, 13), (a.toNat, 8)], x)
  | .shli t d a i => some (encS 0 t 0x24 [(d.toNat, 13), (a.toNat, 8), (i.toNat, 0)], 0)
  | .shliExt t d a x => some (encS 1 t 0x24 [(d.toNat, 13), (a.toNat, 8)], x)
  | .shri t d a i => some (encS 0 t 0x25 [(d.toNat, 13), (a.toNat, 8), (i.toNat, 0)], 0)
  | .shriExt t d a x => some (encS 1 t 0x25 [(d.toNat, 13), (a.toNat, 8)], x)
  | .sari t d a i => some (encS 0 t 0x26 [(d.toNat, 13), (a.toNat, 8), (i.toNat, 0)], 0)
  | .sariExt t d a x => some (encS 1 t 0x26 [(d.toNat, 13), (a.toNat, 8)], x)
  | .slti t d a i => some (encS 0 t 0x27 [(d.toNat, 13), (a.toNat, 8), (i.toNat, 0)], 0)
  | .sltiExt t d a x => some (encS 1 t 0x27 [(d.toNat, 13), (a.toNat, 8)], x)
  | .li t d i => some (encS 0 t 0x28 [(d.toNat, 13), (i.toNat, 0)], 0)
  | .liExt t d x => some (encS 1 t 0x28 [(d.toNat, 13)], x)
  | .lih t d i => some (encS 0 t 0x29 [(d.toNat, 13), (i.toNat, 0)], 0)
  | .lihExt t d x => some (encS 1 t 0x29 [(d.toNat, 13)], x)
  | .muli t d a i => some (encS 0 t 0x2a [(d.toNat, 13), (a.toNat, 8), (i.toNat, 0)], 0)
  | .muliExt t d a x => some (encS 1 t 0x2a [(d.toNat, 13), (a.toNat, 8)], x)
  | .ldI8 t d a i => some (encS 0 t 0x30 [(d.toNat, 13), (a.toNat, 8), (i.toNat, 0)], 0)
  | .ldI8Ext t d a x => some (encS 1 t 0x30 [(d.toNat, 13), (a.toNat, 8)], x)
  | .ldI16 t d a i => some (encS 0 t 0x31 [(d.toNat, 13), (a.toNat, 8), (i.toNat, 0)], 0)
  | .ldI16Ext t d a x => some (encS 1 t 0x31 [(d.toNat, 13), (a.toNat, 8)], x)
  | .ldI32 t d a i => some (encS 0 t 0x32 [(d.toNat, 13), (a.toNat, 8), (i.toNat, 0)], 0)
  | .ldI32Ext t d a x => some (encS 1 t 0x32 [(d.toNat, 13), (a.toNat, 8)], x)
  | .ld64 t d a i => some (encS 0 t 0x33 [(d.toNat, 13), (a.toNat, 8), (i.toNat, 0)], 0)
  | .ld64Ext t d a x => some (encS 1 t 0x33 [(d.toNat, 13), (a.toNat, 8)], x)
  | .ldN8 t d a i => some (encS 0 t 0x34 [(d.toNat, 13), (a.toNat, 8), (i.toNat, 0)], 0)
  | .ldN8Ext t d a x => some (encS 1 t 0x34 [(d.toNat, 13), (a.toNat, 8)], x)
  | .ldN16 t d a i => some (encS 0 t 0x35 [(d.toNat, 13), (a.toNat, 8), (i.toNat, 0)], 0)
  | .ldN16Ext t d a x => some (encS 1 t 0x35 [(d.toNat, 13), (a.toNat, 8)], x)
  | .ldN32 t d a i => some (encS 0 t 0x36 [(d.toNat, 13), (a.toNat, 8), (i.toNat, 0)], 0)
  | .ldN32Ext t d a x => some (encS 1 t 0x36 [(d.toNat, 13), (a.toNat, 8)], x)
  | .st8 t b a i => some (encS 0 t 0x38 [(b.toNat, 13), (a.toNat, 8), (i.toNat, 0)], 0)
  | .st8Ext t b a x => some (encS 1 t 0x38 [(b.toNat, 13), (a.toNat, 8)], x)
  | .st16 t b a i => some (encS 0 t 0x39 [(b.toNat, 13), (a.toNat, 8), (i.toNat, 0)], 0)
  | .st16Ext t b a x => some (encS 1 t 0x39 [(b.toNat, 13), (a.toNat, 8)], x)
  | .st32 t b a i => some (encS 0 t 0x3a [(b.toNat, 13), (a.toNat, 8), (i.toNat, 0)], 0)
  | .st32Ext t b a x => some (encS 1 t 0x3a [(b.toNat, 13), (a.toNat, 8)], x)
  | .st64 t b a i => some (encS 0 t 0x3b [(b.toNat, 13), (a.toNat, 8), (i.toNat, 0)], 0)
  | .st64Ext t b a x => some (encS 1 t 0x3b [(b.toNat, 13), (a.toNat, 8)], x)
  | .pref t a i => some (encS 0 t 0x3c [(a.toNat, 8), (i.toNat, 0)], 0)
  | .prefExt t a x => some (encS 1 t 0x3c [(a.toNat, 8)], x)
  | .sldr t r a i => some (encS 0 t 0x3e [(r.toNat, 13), (a.toNat, 8), (i.toNat, 0)], 0)
  | .sldrExt t r a x => some (encS 1 t 0x3e [(r.toNat, 13), (a.toNat, 8)], x)
  | .sstr t r a i => some (encS 0 t 0x3f [(r.toNat, 13), (a.toNat, 8), (i.toNat, 0)], 0)
  | .sstrExt t r a x => some (encS 1 t 0x3f [(r.toNat, 13), (a.toNat, 8)], x)
  | .qsync t => some (encS 0 t 0x40 [], 0)
  | .fence t r => some (encS 0 t 0x41 [(r.toNat, 0)], 0)
  | .tok t => some (encS 0 t 0x42 [], 0)
  | .capture t k a => some (encS 0 t 0x48 [(k.toNat, 13), (a.toNat, 8)], 0)
  | .kdup t d k => some (encS 0 t 0x49 [(d.toNat, 13), (k.toNat, 8)], 0)
  | .kdrop t k => some (encS 0 t 0x4a [(k.toNat, 8)], 0)
  | .kst t k a i => some (encS 0 t 0x4b [(k.toNat, 13), (a.toNat, 8), (i.toNat, 0)], 0)
  | .kstExt t k a x => some (encS 1 t 0x4b [(k.toNat, 13), (a.toNat, 8)], x)
  | .kld t k a i => some (encS 0 t 0x4c [(k.toNat, 13), (a.toNat, 8), (i.toNat, 0)], 0)
  | .kldExt t k a x => some (encS 1 t 0x4c [(k.toNat, 13), (a.toNat, 8)], x)
  | .frame t d a => some (encS 0 t 0x4d [(d.toNat, 13), (a.toNat, 8)], 0)
  | .frpop t a => some (encS 0 t 0x4e [(a.toNat, 8)], 0)
  | .sysrd t g c => some (encS 0 t 0x58 [(g.toNat, 13), (c.toNat, 0)], 0)
  | .syswr t g c => some (encS 0 t 0x59 [(g.toNat, 13), (c.toNat, 0)], 0)
  | .trap t n => some (encS 0 t 0x5a [(n.toNat, 0)], 0)
  | .eret t => some (encS 0 t 0x5b [], 0)
  | .cpush t c a => some (encS 0 t 0x5c [(c.toNat, 13), (a.toNat, 8)], 0)
  | .cpop t d p c => some (encS 0 t 0x5d [(d.toNat, 13), (p.toNat, 12), (c.toNat, 8)], 0)
  | .kpush t c k => some (encS 0 t 0x5e [(c.toNat, 13), (k.toNat, 8)], 0)
  | .kpop t k c => some (encS 0 t 0x5f [(k.toNat, 13), (c.toNat, 8)], 0)
  | .j t o => some (encS 0 t 0x60 [(o.toNat, 0)], 0)
  | .jExt t o x => some (encS 1 t 0x60 [(o.toNat, 0)], x)
  | .jl t o => some (encS 0 t 0x61 [(o.toNat, 0)], 0)
  | .jlExt t o x => some (encS 1 t 0x61 [(o.toNat, 0)], x)
  | .beq t a b o => some (encS 0 t 0x62 [(a.toNat, 13), (b.toNat, 8), (o.toNat, 0)], 0)
  | .beqExt t a b x => some (encS 1 t 0x62 [(a.toNat, 13), (b.toNat, 8)], x)
  | .bne t a b o => some (encS 0 t 0x63 [(a.toNat, 13), (b.toNat, 8), (o.toNat, 0)], 0)
  | .bneExt t a b x => some (encS 1 t 0x63 [(a.toNat, 13), (b.toNat, 8)], x)
  | .blt t a b o => some (encS 0 t 0x64 [(a.toNat, 13), (b.toNat, 8), (o.toNat, 0)], 0)
  | .bltExt t a b x => some (encS 1 t 0x64 [(a.toNat, 13), (b.toNat, 8)], x)
  | .bge t a b o => some (encS 0 t 0x65 [(a.toNat, 13), (b.toNat, 8), (o.toNat, 0)], 0)
  | .bgeExt t a b x => some (encS 1 t 0x65 [(a.toNat, 13), (b.toNat, 8)], x)
  | .bltn t a b o => some (encS 0 t 0x66 [(a.toNat, 13), (b.toNat, 8), (o.toNat, 0)], 0)
  | .bltnExt t a b x => some (encS 1 t 0x66 [(a.toNat, 13), (b.toNat, 8)], x)
  | .bgen t a b o => some (encS 0 t 0x67 [(a.toNat, 13), (b.toNat, 8), (o.toNat, 0)], 0)
  | .bgenExt t a b x => some (encS 1 t 0x67 [(a.toNat, 13), (b.toNat, 8)], x)
  | .jr t a => some (encS 0 t 0x68 [(a.toNat, 8)], 0)
  | .jtab t a b n => some (encS 0 t 0x69 [(a.toNat, 13), (b.toNat, 8), (n.toNat, 0)], 0)
  | .jtabExt t a b n => some (encS 1 t 0x69 [(a.toNat, 13), (b.toNat, 8)], packed [(n.toNat, 0)])
  | .loop t a n => some (encS 0 t 0x6a [(a.toNat, 8), (n.toNat, 0)], 0)
  | .lstg g f l => some (encS 0 0 0x6b [(g.toNat, 5), (f.toNat, 4), (l.toNat, 3)], 0)
  | .apply t k => some (encS 0 t 0x6c [(k.toNat, 8)], 0)
  | .halt t => some (encS 0 t 0x6d [], 0)
  | .skipWord => none
  | .outcomeTake => none
  | .vshape t x => some (encV 1 t 0x0 [], x)
  | .vadd t d a b m => some (encV 0 t 0x1 [(d.toNat, 13), (a.toNat, 7), (b.toNat, 1), (m.toNat, 0)], 0)
  | .vsub t d a b m => some (encV 0 t 0x2 [(d.toNat, 13), (a.toNat, 7), (b.toNat, 1), (m.toNat, 0)], 0)
  | .vmul t d a b m => some (encV 0 t 0x3 [(d.toNat, 13), (a.toNat, 7), (b.toNat, 1), (m.toNat, 0)], 0)
  | .vfma t d a b m => some (encV 0 t 0x4 [(d.toNat, 13), (a.toNat, 7), (b.toNat, 1), (m.toNat, 0)], 0)
  | .vfms t d a b m => some (encV 0 t 0x5 [(d.toNat, 13), (a.toNat, 7), (b.toNat, 1), (m.toNat, 0)], 0)
  | .vdiv t d a b m => some (encV 0 t 0x6 [(d.toNat, 13), (a.toNat, 7), (b.toNat, 1), (m.toNat, 0)], 0)
  | .vsqrt t d a m => some (encV 0 t 0x7 [(d.toNat, 13), (a.toNat, 7), (m.toNat, 0)], 0)
  | .vmin t d a b m => some (encV 0 t 0x8 [(d.toNat, 13), (a.toNat, 7), (b.toNat, 1), (m.toNat, 0)], 0)
  | .vmax t d a b m => some (encV 0 t 0x9 [(d.toNat, 13), (a.toNat, 7), (b.toNat, 1), (m.toNat, 0)], 0)
  | .vabs t d a m => some (encV 0 t 0xa [(d.toNat, 13), (a.toNat, 7), (m.toNat, 0)], 0)
  | .vneg t d a m => some (encV 0 t 0xb [(d.toNat, 13), (a.toNat, 7), (m.toNat, 0)], 0)
  | .vadds t d a b m => some (encV 0 t 0xc [(d.toNat, 13), (a.toNat, 7), (b.toNat, 1), (m.toNat, 0)], 0)
  | .vsubs t d a b m => some (encV 0 t 0xd [(d.toNat, 13), (a.toNat, 7), (b.toNat, 1), (m.toNat, 0)], 0)
  | .vand t d a b m => some (encV 0 t 0xe [(d.toNat, 13), (a.toNat, 7), (b.toNat, 1), (m.toNat, 0)], 0)
  | .vor t d a b m => some (encV 0 t 0xf [(d.toNat, 13), (a.toNat, 7), (b.toNat, 1), (m.toNat, 0)], 0)
  | .vxor t d a b m => some (encV 0 t 0x10 [(d.toNat, 13), (a.toNat, 7), (b.toNat, 1), (m.toNat, 0)], 0)
  | .vshl t d a b m => some (encV 0 t 0x11 [(d.toNat, 13), (a.toNat, 7), (b.toNat, 1), (m.toNat, 0)], 0)
  | .vshr t d a b m => some (encV 0 t 0x12 [(d.toNat, 13), (a.toNat, 7), (b.toNat, 1), (m.toNat, 0)], 0)
  | .vsar t d a b m => some (encV 0 t 0x13 [(d.toNat, 13), (a.toNat, 7), (b.toNat, 1), (m.toNat, 0)], 0)
  | .vmulh t d a b m => some (encV 0 t 0x14 [(d.toNat, 13), (a.toNat, 7), (b.toNat, 1), (m.toNat, 0)], 0)
  | .vcmpeq t d a b m => some (encV 0 t 0x15 [(d.toNat, 13), (a.toNat, 7), (b.toNat, 1), (m.toNat, 0)], 0)
  | .vcmplt t d a b m => some (encV 0 t 0x16 [(d.toNat, 13), (a.toNat, 7), (b.toNat, 1), (m.toNat, 0)], 0)
  | .vcmple t d a b m => some (encV 0 t 0x17 [(d.toNat, 13), (a.toNat, 7), (b.toNat, 1), (m.toNat, 0)], 0)
  | .vmand t d a b => some (encV 0 t 0x18 [(d.toNat, 13), (a.toNat, 7), (b.toNat, 1)], 0)
  | .vmor t d a b => some (encV 0 t 0x19 [(d.toNat, 13), (a.toNat, 7), (b.toNat, 1)], 0)
  | .vmxor t d a b => some (encV 0 t 0x1a [(d.toNat, 13), (a.toNat, 7), (b.toNat, 1)], 0)
  | .vmnot t d a => some (encV 0 t 0x1b [(d.toNat, 13), (a.toNat, 7)], 0)
  | .vsel t d a b => some (encV 0 t 0x1c [(d.toNat, 13), (a.toNat, 7), (b.toNat, 1)], 0)
  | .vcvt t d a m q y => some (encV 1 t 0x1d [(d.toNat, 13), (a.toNat, 7), (m.toNat, 0)], packed [(q.toNat, 4), (y.toNat, 0)])
  | .vq8q t d a m q y => some (encV 1 t 0x1e [(d.toNat, 13), (a.toNat, 7), (m.toNat, 0)], packed [(q.toNat, 4), (y.toNat, 0)])
  | .vq8d t d a m q y => some (encV 1 t 0x1f [(d.toNat, 13), (a.toNat, 7), (m.toNat, 0)], packed [(q.toNat, 4), (y.toNat, 0)])
  | .vz4q t d a m q y => some (encV 1 t 0x20 [(d.toNat, 13), (a.toNat, 7), (m.toNat, 0)], packed [(q.toNat, 4), (y.toNat, 0)])
  | .vz4d t d a m q y => some (encV 1 t 0x21 [(d.toNat, 13), (a.toNat, 7), (m.toNat, 0)], packed [(q.toNat, 4), (y.toNat, 0)])
  | .vrsum t a m g => some (encV 1 t 0x22 [(a.toNat, 7), (m.toNat, 0)], packed [(g.toNat, 27)])
  | .vrmin t a m g => some (encV 1 t 0x23 [(a.toNat, 7), (m.toNat, 0)], packed [(g.toNat, 27)])
  | .vrmax t a m g => some (encV 1 t 0x24 [(a.toNat, 7), (m.toNat, 0)], packed [(g.toNat, 27)])
  | .vperm t d a b m => some (encV 0 t 0x25 [(d.toNat, 13), (a.toNat, 7), (b.toNat, 1), (m.toNat, 0)], 0)
  | .vbcast t d m g => some (encV 1 t 0x26 [(d.toNat, 13), (m.toNat, 0)], packed [(g.toNat, 27)])
  | .vslide t d a b m => some (encV 0 t 0x27 [(d.toNat, 13), (a.toNat, 7), (b.toNat, 1), (m.toNat, 0)], 0)
  | .vzip t d a b m => some (encV 0 t 0x28 [(d.toNat, 13), (a.toNat, 7), (b.toNat, 1), (m.toNat, 0)], 0)
  | .vunzip t d a m => some (encV 0 t 0x29 [(d.toNat, 13), (a.toNat, 7), (m.toNat, 0)], 0)
  | .vld t d m g x => some (encV 1 t 0x2a [(d.toNat, 13), (m.toNat, 0)], packed [(g.toNat, 27), (x.toNat, 0)])
  | .vst t a m g x => some (encV 1 t 0x2b [(a.toNat, 7), (m.toNat, 0)], packed [(g.toNat, 27), (x.toNat, 0)])
  | .vlds t d r m => some (encV 0 t 0x2c [(d.toNat, 13), (r.toNat, 1), (m.toNat, 0)], 0)
  | .vsts t a r m => some (encV 0 t 0x2d [(a.toNat, 7), (r.toNat, 1), (m.toNat, 0)], 0)
  | .vgath t d b m g x => some (encV 1 t 0x2e [(d.toNat, 13), (b.toNat, 1), (m.toNat, 0)], packed [(g.toNat, 27), (x.toNat, 0)])
  | .vscat t a b m g x => some (encV 1 t 0x2f [(a.toNat, 7), (b.toNat, 1), (m.toNat, 0)], packed [(g.toNat, 27), (x.toNat, 0)])
  | .vmvg t a g => some (encV 1 t 0x30 [(a.toNat, 7)], packed [(g.toNat, 27)])
  | .defer t a n m => some (encV 0 t 0x31 [(a.toNat, 7), (n.toNat, 1), (m.toNat, 0)], 0)
  | .vdrain t d n => some (encV 0 t 0x32 [(d.toNat, 13), (n.toNat, 7)], 0)
  | .vapply t d a n m => some (encV 0 t 0x33 [(d.toNat, 13), (a.toNat, 7), (n.toNat, 1), (m.toNat, 0)], 0)
  | .banklend t g => some (encV 1 t 0x34 [], packed [(g.toNat, 27)])
  | .bankret t g => some (encV 1 t 0x35 [], packed [(g.toNat, 27)])
  | .viota t d m => some (encV 0 t 0x36 [(d.toNat, 13), (m.toNat, 0)], 0)
  | .vmpop t a g => some (encV 1 t 0x37 [(a.toNat, 7)], packed [(g.toNat, 27)])
  | .vWriteLanding _ _ => none
  | .vectorLoadLanding _ _ => none
  | .mma t c a b x y z h => some (encM 0 t 0x0 [(c.toNat, 18), (a.toNat, 14), (b.toNat, 10), (x.toNat, 9), (y.toNat, 8), (z.toNat, 7), (h.toNat, 6)], 0)
  | .mmas t c a b x y z h r => some (encM 1 t 0x1 [(c.toNat, 18), (a.toNat, 14), (b.toNat, 10), (x.toNat, 9), (y.toNat, 8), (z.toNat, 7), (h.toNat, 6)], packed [(r.toNat, 0)])
  | .mdrain t c z g f => some (encM 1 t 0x2 [(c.toNat, 18), (z.toNat, 7)], packed [(g.toNat, 27), (f.toNat, 25)])
  | .mswap t c b => some (encM 0 t 0x3 [(c.toNat, 18), (b.toNat, 10)], 0)
  | .mfclr t c f g s => some (encM 0 t 0x4 [(c.toNat, 18), (f.toNat, 14), (g.toNat, 7), (s.toNat, 0)], 0)
  | .mlease t => some (encM 0 t 0x5 [], 0)
  | .mrel t => some (encM 0 t 0x6 [], 0)
  | .tstart t c => some (encM 0 t 0x7 [(c.toNat, 18)], 0)
  | .mkat t a b x y k => some (encM 1 t 0x8 [(a.toNat, 14), (b.toNat, 10), (x.toNat, 9), (y.toNat, 8)], k)
  | .skcfg t s g => some (encM 1 t 0x10 [(s.toNat, 0)], packed [(g.toNat, 27)])
  | .skfold t a b x y s => some (encM 0 t 0x11 [(a.toNat, 14), (b.toNat, 10), (x.toNat, 9), (y.toNat, 8), (s.toNat, 0)], 0)
  | .skshrink t s => some (encM 0 t 0x12 [(s.toNat, 0)], 0)
  | .skmerge t s g x => some (encM 1 t 0x13 [(s.toNat, 0)], packed [(g.toNat, 27), (x.toNat, 0)])
  | .skemit t s g x => some (encM 1 t 0x14 [(s.toNat, 0)], packed [(g.toNat, 27), (x.toNat, 0)])
  | .skstat t s g x => some (encM 1 t 0x15 [(s.toNat, 0)], packed [(g.toNat, 27), (x.toNat, 0)])
  | .stepBegin _ => none
  | .stepRetire _ => none
  | .scalePush _ => none
  | .sketchPanelBoundary _ => none
  | .rollbackReplay _ => none
  | .leaseGrant _ => none
  | .leaseCycleLimit _ => none
  | .xmove t a b c d => some (encX 0 t 0x0 [(a.toNat, 15), (b.toNat, 10), (c.toNat, 5), (d.toNat, 0)], 0)
  | .xmoveExt t a b c d r w u p q => some (encX 1 t 0x0 [(a.toNat, 15), (b.toNat, 10), (c.toNat, 5), (d.toNat, 0)], packed [(r.toNat, 30), (w.toNat, 28), (u.toNat, 26), (p.toNat, 13), (q.toNat, 0)])
  | .xfoot t a r w u p q => some (encX 1 t 0x1 [(a.toNat, 15)], packed [(r.toNat, 30), (w.toNat, 28), (u.toNat, 26), (p.toNat, 13), (q.toNat, 0)])
  | .xscat t a b c r w u p q => some (encX 1 t 0x2 [(a.toNat, 15), (b.toNat, 10), (c.toNat, 5)], packed [(r.toNat, 30), (w.toNat, 28), (u.toNat, 26), (p.toNat, 13), (q.toNat, 0)])
  | .xbar t l => some (encX 0 t 0x3 [(l.toNat, 0)], 0)
  | .xevset t a b => some (encX 0 t 0x4 [(a.toNat, 15), (b.toNat, 10)], 0)
  | .xevsig t a => some (encX 0 t 0x5 [(a.toNat, 15)], 0)
  | .eventOverflowWalk _ _ => none
  | .xevwait t a => some (encX 0 t 0x6 [(a.toNat, 15)], 0)
  | .xtail t a b => some (encX 0 t 0x7 [(a.toNat, 15), (b.toNat, 10)], 0)
  | .xsend t a b c d r w u p q => some (encX 1 t 0x8 [(a.toNat, 15), (b.toNat, 10), (c.toNat, 5), (d.toNat, 0)], packed [(r.toNat, 30), (w.toNat, 28), (u.toNat, 26), (p.toNat, 13), (q.toNat, 0)])
  | .xsendo t a b c d r w u p q => some (encX 1 t 0x9 [(a.toNat, 15), (b.toNat, 10), (c.toNat, 5), (d.toNat, 0)], packed [(r.toNat, 30), (w.toNat, 28), (u.toNat, 26), (p.toNat, 13), (q.toNat, 0)])
  | .xred t a b c r w u p q => some (encX 1 t 0xa [(a.toNat, 15), (b.toNat, 10), (c.toNat, 5)], packed [(r.toNat, 30), (w.toNat, 28), (u.toNat, 26), (p.toNat, 13), (q.toNat, 0)])
  | .xcoll t a b r w u p q => some (encX 1 t 0xb [(a.toNat, 15), (b.toNat, 10)], packed [(r.toNat, 30), (w.toNat, 28), (u.toNat, 26), (p.toNat, 13), (q.toNat, 0)])
  | .xsubmit t a b c r w u p q => some (encX 1 t 0xc [(a.toNat, 15), (b.toNat, 10), (c.toNat, 5)], packed [(r.toNat, 30), (w.toNat, 28), (u.toNat, 26), (p.toNat, 13), (q.toNat, 0)])
  | .xarrive t a b => some (encX 0 t 0xd [(a.toNat, 15), (b.toNat, 10)], 0)
  | .xkeyld t a b c r w u p q => some (encX 1 t 0xe [(a.toNat, 15), (b.toNat, 10), (c.toNat, 5)], packed [(r.toNat, 30), (w.toNat, 28), (u.toNat, 26), (p.toNat, 13), (q.toNat, 0)])
  | .xkeysw t a => some (encX 0 t 0xf [(a.toNat, 15)], 0)
  | .commandBegin _ _ => none
  | .transferChunk _ _ => none
  | .commandComplete _ _ => none
  | .scatterBlockApply _ => none
  | .loadPerform _ => none
  | .loadReturn _ _ => none
  | .storeApply _ _ => none
  | .postedWriteAck _ _ => none
  | .multicastLanding _ => none
  | .guestbookRequest _ => none
  | .guestbookAck _ => none
  | .syswrAck _ => none
  | .channelRebind _ _ => none
  | .crewStall _ => none
  | .pageWalk _ _ => none
  | .streamTlbPrefetch _ _ => none
  | .tlbinvPage => none
  | .tlbinvAll => none
  | .tlbinvComplete => none
  | .keySlotLoad => none
  | .scrub _ => none
  | .schedulerDecision _ => none
  | .tileEnd _ => none
  | .queueAgeing _ _ => none
  | .qtailWrite _ _ => none
  | .arrival _ => none
  | .preemptreq _ => none
  | .contextSave _ => none
  | .resumereq _ => none
  | .abortreq _ => none
  | .fnqRead _ _ => none
  | .fnqWatchdog _ => none
  | .innkeeperExceptionEntry _ => none
  | .packetTransmit _ => none
  | .flitReceive _ => none
  | .packetReceive _ => none
  | .lantern _ => none
  | .linkResend _ => none
  | .laneFailure _ _ => none
  | .retrainComplete _ => none
  | .portDisable _ => none
  | .portEnable _ => none
  | .portWidthChange _ => none
  | .connectionAck _ => none
  | .connectionResend _ _ => none
  | .orderedDelivery => none
  | .milestoneStall _ => none
  | .hostRegisterWrite _ => none
  | .hostRegisterRead _ => none
  | .readRequest _ => none
  | .timeMasterSet => none
  | .lockLost => none
  | .slotTableLoad _ => none
  | .slotTableSwitch _ => none
  | .networkFlitArrive _ _ => none
  | .boot => none
  | .bootLockTimeout => none
  | .clusterGate _ => none
  | .retentionRequest _ => none
  | .retentionEntry _ => none
  | .retentionExit _ => none
  | .powerControlTick => none
  | .wearMonitorReading => none
  | .temperatureTrip _ => none
  | .temperatureClear _ => none
  | .railFault _ => none
  | .deconfRequest => none
  | .wearRecord => none
  | .attestationReport => none
  | .registerWrite => none
  | .notAnInstruction => none
  | .fetchTranslationFault => none
  | .lanesReturn _ _ => none

end Sys2Proof
end

