-- ==== Sys2Proof/Machine/Crypto.lean ====
section
/-!
DEFINITION. The standards that the spec names and does not define, as general knowledge gives them (log 8):
AES-256 (FIPS 197), XTS (IEEE 1619), GCM (SP 800-38D), SHAKE256 (FIPS 202) and CRC-32C as R276 parametrises it.
-/
namespace Sys2Proof.Machine

/-- Byte `i` of a run, 0 beyond its end. -/
def byteAt (l : List Byte) (i : Nat) : Byte := l.getD i 0

/-- The number whose bytes are these, lowest address first. -/
def leNat (l : List Byte) : Nat := l.foldr (fun b r => b.toNat + 256 * r) 0

/-- The `n` bytes of a number, lowest address first. -/
def leList (n v : Nat) : List Byte := (List.range n).map (fun i => BitVec.ofNat 8 (v / 2 ^ (8 * i)))

/-! AES-256. -/

/-- Doubling in the field of AES. -/
def aesX (b : Byte) : Byte := (b <<< 1) ^^^ (if b.getLsbD 7 then 0x1B else 0)

/-- The product in the field of AES, over the low `n` bits of `b`. -/
def aesMul (n : Nat) (a b : Byte) : Byte :=
  match n with
  | 0 => 0
  | k + 1 => (if b.getLsbD 0 then a else 0) ^^^ aesMul k (aesX a) (b >>> 1)

/-- The product of two field elements. -/
def gm (a b : Byte) : Byte := aesMul 8 a b

/-- The inverse in the field: the 254th power. -/
def gInv (a : Byte) : Byte :=
  let a2 := gm a a; let a3 := gm a2 a; let a6 := gm a3 a3; let a12 := gm a6 a6; let a15 := gm a12 a3
  let a30 := gm a15 a15; let a60 := gm a30 a30; let a120 := gm a60 a60; let a126 := gm a120 a6; let a127 := gm a126 a
  gm a127 a127

/-- The AES S-box. -/
def sbox (a : Byte) : Byte :=
  let b := gInv a
  b ^^^ b.rotateLeft 1 ^^^ b.rotateLeft 2 ^^^ b.rotateLeft 3 ^^^ b.rotateLeft 4 ^^^ 0x63

/-- The inverse S-box. -/
def invSbox (a : Byte) : Byte :=
  gInv (a.rotateLeft 1 ^^^ a.rotateLeft 3 ^^^ a.rotateLeft 6 ^^^ 0x05)

/-- Byte-wise exclusive or. -/
def xorL (a b : List Byte) : List Byte := List.zipWith (fun x y => x ^^^ y) a b

/-- The round constant of key step `i`. -/
def rcon : Nat → Byte
  | 0 => 1
  | i + 1 => aesX (rcon i)

/-- The words of the AES-256 key schedule, most recent first, after `n` further words; `l` holds those before. -/
def keyWords (n : Nat) (l : List (List Byte)) : List (List Byte) :=
  match n with
  | 0 => l
  | k + 1 =>
    let i := l.length
    let t := l.getD 0 []
    let t1 := if i % 8 = 0 then
        let r := [sbox (byteAt t 1), sbox (byteAt t 2), sbox (byteAt t 3), sbox (byteAt t 0)]
        xorL r [rcon (i / 8 - 1), 0, 0, 0]
      else if i % 8 = 4 then t.map sbox else t
    keyWords k (xorL (l.getD 7 []) t1 :: l)

/-- The fifteen round keys of a 32-byte key. -/
def roundKeys (key : List Byte) : List (List Byte) :=
  let w0 := (List.range 8).map (fun i => (key.drop (4 * i)).take 4)
  let w := (keyWords 52 w0.reverse).reverse
  (List.range 15).map (fun i => (w.drop (4 * i)).take 4 |>.flatten)

/-- Row `r` of the block moves `r` places; `d` is 1 to encrypt and 3 to decrypt. -/
def shiftRows (d : Nat) (b : List Byte) : List Byte :=
  (List.range 16).map (fun i => byteAt b ((i % 4) + 4 * ((i / 4 + d * (i % 4)) % 4)))

/-- The column mix with coefficients `c`. -/
def mixCols (c : List Byte) (b : List Byte) : List Byte :=
  (List.range 16).map (fun i =>
    let col := i / 4
    (List.range 4).foldl (fun a j => a ^^^ gm (byteAt c ((j + 4 - i % 4) % 4)) (byteAt b (4 * col + j))) 0)

/-- One AES-256 block encryption under its round keys. -/
def aesEnc (rk : List (List Byte)) (b : List Byte) : List Byte :=
  let mid := (List.range 13).foldl (fun s i =>
    xorL (mixCols [2, 3, 1, 1] (shiftRows 1 (s.map sbox))) (rk.getD (i + 1) [])) (xorL b (rk.getD 0 []))
  xorL (shiftRows 1 (mid.map sbox)) (rk.getD 14 [])

/-- One AES-256 block decryption under its round keys. -/
def aesDec (rk : List (List Byte)) (b : List Byte) : List Byte :=
  let mid := (List.range 13).foldl (fun s i =>
    mixCols [14, 11, 13, 9] (xorL ((shiftRows 3 s).map invSbox) (rk.getD (13 - i) []))) (xorL b (rk.getD 14 []))
  xorL ((shiftRows 3 mid).map invSbox) (rk.getD 0 [])

/-! XTS over one 64-byte line (R87): data key first, the tweak is the line number. -/

/-- Doubling of the 128-bit tweak. -/
def xtsDouble (t : Nat) : Nat :=
  let d := 2 * t
  if d < 2 ^ 128 then d else (d - 2 ^ 128) ^^^ 0x87

/-- XTS of a line's four blocks with the block function `f`. -/
def xtsLine (f : List Byte → List Byte) (tweak : Nat) (l : List Byte) : List Byte :=
  let t1 := xtsDouble tweak; let t2 := xtsDouble t1; let t3 := xtsDouble t2
  ([tweak, t1, t2, t3].mapIdx (fun i t =>
    let m := leList 16 t
    xorL m (f (xorL m ((l.drop (16 * i)).take 16))))).flatten

/-- The two keys of a slot: the data key in the low 256 bits (R89). -/
def xtsKeys (key : BitVec 512) : List (List Byte) × List (List Byte) :=
  (roundKeys (leList 32 (key.toNat % 2 ^ 256)), roundKeys (leList 32 (key.toNat / 2 ^ 256)))

/-- Encrypt the 64-byte line number `line`. -/
def xtsEnc (key : BitVec 512) (line : Nat) (l : List Byte) : List Byte :=
  let k := xtsKeys key
  xtsLine (aesEnc k.1) (leNat (aesEnc k.2 (leList 16 line))) l

/-- Decrypt the 64-byte line number `line`. -/
def xtsDec (key : BitVec 512) (line : Nat) (l : List Byte) : List Byte :=
  let k := xtsKeys key
  xtsLine (aesDec k.1) (leNat (aesEnc k.2 (leList 16 line))) l

/-! GCM with a 96-bit IV (R341). -/

/-- The number whose bytes are these, most significant first. -/
def beNat (l : List Byte) : Nat := leNat l.reverse

/-- A product in the field of GHASH after `n` further bits of `x`, the most significant one first. -/
def ghashMul (n : Nat) (x v z : BitVec 128) : BitVec 128 :=
  match n with
  | 0 => z
  | k + 1 => ghashMul k (x <<< 1) ((v >>> 1) ^^^ (if v.getLsbD 0 then BitVec.ofNat 128 (0xE1 * 2 ^ 120) else 0)) (if x.msb then z ^^^ v else z)

/-- GHASH of blocks under the hash key `h`. -/
def ghash (h : BitVec 128) (l : List (BitVec 128)) : BitVec 128 := l.foldl (fun y b => ghashMul 128 (y ^^^ b) h 0) 0

/-- `n` blocks of 16 bytes, the last filled up with zeros. -/
def gcmBlocks (n : Nat) (l : List Byte) : List (BitVec 128) :=
  (List.range n).map (fun i => BitVec.ofNat 128 (beNat (((l.drop (16 * i)).take 16 ++ List.replicate 16 0).take 16)))

/-- The key stream of `n` blocks after the first counter block. -/
def gcmStream (rk : List (List Byte)) (iv : List Byte) (n : Nat) : List Byte :=
  ((List.range n).map (fun i => aesEnc rk (iv ++ (leList 4 (i + 2)).reverse))).flatten

/-- The tag over associated data and ciphertext. -/
def gcmTag (rk : List (List Byte)) (iv aad c : List Byte) : List Byte :=
  let h := BitVec.ofNat 128 (beNat (aesEnc rk (List.replicate 16 0)))
  let y := ghash h (gcmBlocks ((aad.length + 15) / 16) aad ++ gcmBlocks ((c.length + 15) / 16) c
    ++ [BitVec.ofNat 128 (8 * aad.length * 2 ^ 64 + 8 * c.length)])
  xorL (leList 16 y.toNat).reverse (aesEnc rk (iv ++ [0, 0, 0, 1]))

/-- The ciphertext of a plaintext, and the plaintext of a ciphertext. -/
def gcmCrypt (rk : List (List Byte)) (iv p : List Byte) : List Byte := xorL p (gcmStream rk iv ((p.length + 15) / 16))

/-! CRC-32C (R276): reflected, initial all ones, complemented. -/

/-- `n` bit steps of the reflected CRC register. -/
def crcBits (n : Nat) (c : BitVec 32) : BitVec 32 :=
  match n with
  | 0 => c
  | k + 1 => crcBits k ((c >>> 1) ^^^ (if c.getLsbD 0 then 0x82F63B78 else 0))

/-- The CRC-32C of a run of bytes. -/
def crc32c (l : List Byte) : BitVec 32 :=
  ~~~ (l.foldl (fun c b => crcBits 8 (c ^^^ b.setWidth 32)) 0xFFFFFFFF)

/-! SHAKE256. -/

/-- One bit of the round constant generator of Keccak after `t` steps. -/
def keccakLfsr (t : Nat) (r : BitVec 8) : BitVec 8 :=
  match t with
  | 0 => r
  | k + 1 => keccakLfsr k ((r <<< 1) ^^^ (if r.getLsbD 7 then 0x71 else 0))

/-- The round constant of round `i`. -/
def keccakRc (i : Nat) : Word :=
  (List.range 7).foldl (fun w j =>
    if (keccakLfsr (7 * i + j) 1).getLsbD 0 then w ||| BitVec.ofNat 64 (2 ^ (2 ^ j - 1)) else w) 0

/-- Lane (x, y) of a Keccak state. -/
def lane (a : List Word) (x y : Nat) : Word := a.getD (x % 5 + 5 * (y % 5)) 0

/-- The rotation of each lane and the place it moves to: the walk of ρ and π from lane (1, 0). -/
def rhoWalk (n t x y : Nat) : List (Nat × Nat) :=
  match n with
  | 0 => []
  | k + 1 => (x + 5 * y, ((t + 1) * (t + 2) / 2) % 64) :: rhoWalk k (t + 1) y ((2 * x + 3 * y) % 5)

/-- The rotation of lane `i`. -/
def rho (i : Nat) : Nat := Tab.get 0 (rhoWalk 24 0 1 0) i

/-- One round of Keccak-f[1600]. -/
def keccakRound (a : List Word) (i : Nat) : List Word :=
  let c := (List.range 5).map (fun x => lane a x 0 ^^^ lane a x 1 ^^^ lane a x 2 ^^^ lane a x 3 ^^^ lane a x 4)
  let th := (List.range 25).map (fun p => a.getD p 0 ^^^ c.getD ((p + 4) % 5) 0 ^^^ (c.getD ((p + 1) % 5) 0).rotateLeft 1)
  -- π takes lane (x, y) to (y, 2x + 3y): the lane now at (X, Y) came from x = X + 3Y, y = X
  let rp := (List.range 25).map (fun p =>
    let sx := (p % 5 + 3 * (p / 5)) % 5
    let src := sx + 5 * (p % 5)
    (th.getD src 0).rotateLeft (rho src))
  (List.range 25).map (fun p =>
    let v := lane rp (p % 5) (p / 5) ^^^ (~~~ (lane rp (p % 5 + 1) (p / 5)) &&& lane rp (p % 5 + 2) (p / 5))
    if p = 0 then v ^^^ keccakRc i else v)

/-- Keccak-f[1600]. -/
def keccakF (a : List Word) : List Word := (List.range 24).foldl keccakRound a

/-- Absorb `n` blocks of 136 bytes. -/
def absorb (n : Nat) (l : List Byte) (a : List Word) : List Word :=
  match n with
  | 0 => a
  | k + 1 =>
    let blk := (List.range 25).map (fun i => if i < 17 then BitVec.ofNat 64 (leNat ((l.drop (8 * i)).take 8)) else 0)
    absorb k (l.drop 136) (keccakF (List.zipWith (fun x y => x ^^^ y) a blk))

/-- SHAKE256 with a 256-bit output, as 32 bytes. -/
def shake256 (l : List Byte) : List Byte :=
  let n := l.length / 136 + 1
  let pad := (List.range (136 * n - l.length)).map (fun i =>
    let first : Byte := if i = 0 then 0x1F else 0
    if i + 1 = 136 * n - l.length then first ||| 0x80 else first)
  let a := absorb n (l ++ pad) (List.replicate 25 0)
  ((a.take 4).map (fun w => leList 8 w.toNat)).flatten

end Sys2Proof.Machine
end

