-- ==== Sys2Proof/Config.lean ====
section
/-!
DEFINITION. What an implementation fixes and the spec leaves open: free values, which nothing in Lean can
evaluate. A statement about one holds whatever it is.
-/
namespace Sys2Proof

/-- The four engines of a cell, in the order of their codes (R17). -/
inductive Engine where
  | S | V | M | X
  deriving DecidableEq, Repr, Inhabited

/-- Who moves in a step: an agent of a logical cell, the Innkeeper of a die, or the device itself by one event. -/
inductive Move where
  /-- The agent of engine `e` of logical cell `c` looks at its next word. -/
  | agent (c : Nat) (e : Engine)
  /-- The Innkeeper of die `d` looks at its next word. -/
  | innkeeper (d : Nat)
  /-- The device takes an event of the table; an event whose condition does not hold changes nothing. -/
  | event (i : Instr)
  deriving DecidableEq, Repr, Inhabited

/-- One turn of the machine: so many cycles pass, and then the move is made. -/
structure Turn where
  /-- Cycles that pass before the move. -/
  wait : Nat
  /-- The move. -/
  move : Move
  deriving DecidableEq, Repr, Inhabited

/-- Which turn comes next where State's agenda lists none (log 1): a free value of the turn count, since the
relative speed of the agents and units is not architected (R147, R72). -/
opaque Config.schedule : Nat → Turn

/-- A free 2,048-bit value, fresh for each count it is asked at (log 2). -/
opaque Config.freeVec : Nat → VReg

/-- A free byte, fresh for each count it is asked at (log 2). -/
opaque Config.freeByte : Nat → Byte

/-- Which of `n` entries a full TLB replaces at a count: the spec names no policy (R83, log 3). -/
opaque Config.tlbVictim : Nat → Nat

/-- Which of the words of a full fetch cache makes room at a count: the spec gives the cache's size and no policy (R15, log 12). -/
opaque Config.fetchVictim : Nat → Nat

/-- Which of the granules of a chunk that are left comes next: they follow no fixed order (R141, log 32). -/
opaque Config.granule : Nat → Nat

/-- A router on the way of a circuit of the on-die network, and the input and output that the circuit takes there (R329). -/
structure Hop where
  /-- The router's number on its die. -/
  router : Nat
  /-- The input that the circuit comes in by. -/
  input : Nat
  /-- The output that it leaves by. -/
  output : Nat
  deriving DecidableEq, Repr, Inhabited

/-- The routers on the way of the circuit of a cell's network port, the last one first: the spec does not give the layout of the on-die
network (R329, log 67). -/
opaque Config.circuit : Nat → Nat → List Hop

/-- The flight time, in units of pod time, that a fabric port has measured on its link: the spec does not give it (R338, log 37). -/
opaque Config.linkDelay : Nat → Nat

end Sys2Proof
end

