-- ==== Sys2Proof/Machine/State.lean ====
section
/-!
DEFINITION. The state of one module: cells, clusters, dies, gangs, fabric ports, connections and storage, all
plain data, and the state after reset. The model's own fields (no state of the spec) are now, rank, ticks,
agenda, cur and moved (who has made a turn in this cycle).
-/
namespace Sys2Proof.Machine

/-- Why the machine stops with a fault. The device's own faults are next states (a gang halts); this type holds
only what no device does. -/
inductive Fault where
  /-- Raised by step where the turn names an agent or Innkeeper that the module does not have (a cell beyond
  511, a die beyond 3). Safe: no unit of the device makes such a move. -/
  | noSuchUnit
  deriving DecidableEq, Repr

/-- Why the machine gives an instruction no meaning. -/
inductive Refusal where
  /-- Raised by a dispatch arm whose instruction has no meaning in the model. Safe: the run ends. -/
  | notModelled (mnemonic : String)
  deriving DecidableEq, Repr

/-- Who makes the present move. -/
inductive Actor where
  /-- The agent of engine `e` of logical cell `c`. -/
  | agent (c : Nat) (e : Engine)
  /-- The Innkeeper of die `d`. -/
  | ik (d : Nat)
  deriving DecidableEq, Repr

/-! Storage and accesses. -/

/-- Where an address leads (R71, R139): a home byte in the one home space of this model (log 4), the multicast
window, a byte of a node's slice of the fabric remote window, or the reduce aperture. -/
inductive Loc where
  | home (a : Nat)
  | mcast (o : Nat)
  | fabric (node o : Nat)
  | reduce (desc o : Nat)
  deriving DecidableEq, Repr

/-- One access that performs or applies whole (R141): its place, its bytes, the key slot of its translation
(R87; none for a window), the posted-write class of its window (R77: 0 cell, 1 cluster, 2 die, 3 fabric,
4 not posted) and its address. -/
structure Acc where
  loc : Loc
  len : Nat
  key : Option Nat
  cls : Nat
  va : Word
  deriving DecidableEq, Repr

/-- What a load does with its bytes when they return. -/
inductive LoadDest where
  /-- Write g register `r` with the low `n` bytes, sign-extended or not (R205). -/
  | reg (r n : Nat) (signed : Bool)
  /-- Replace stream register `n` (R208). -/
  | stream (n : Nat)
  /-- Give the bytes to the V word in flight that awaits this load (R255). -/
  | vec
  /-- Give the bytes to the S word in progress (JTAB, CAPTURE, KLD, FRPOP). -/
  | sop
  deriving DecidableEq, Repr

/-- A load in the load queue, or performed and returning (R142, R143); `dpos` is the position of its word. Each inner list performs whole (R141);
`waiting` says that its first one waits for a read response over the fabric, and `ownBytes` then holds the bytes that the cell's own stores
gave it as the request was made (R145). -/
structure Load where
  id : Nat
  eng : Engine
  dpos : Nat
  accs : List (List Acc)
  got : List Byte
  waiting : Bool
  ownBytes : List (Option Byte)
  dest : LoadDest
  deriving DecidableEq, Repr

/-- A store in the store queue or in flight (R142, R143, R76) of the word at `dpos`, one for each path and class of a word's elements, `word` the number that
they share: `path` is its path, `bound` the WALLOW
bound at its issue, `due` the landing cycle of a multicast write, `left` says it has left the queue and `applied` that it only awaits its acknowledgement;
`awaits` marks the entry of a V word whose values are still to come through a KIND 4 channel (R174), with the places it goes to where they are known. -/
structure Store where
  id : Nat
  word : Nat
  eng : Engine
  dpos : Nat
  path : Nat
  parts : List (List (Acc × List Byte))
  cls : Nat
  bound : Nat
  due : Option Nat
  left : Bool
  applied : Bool
  awaits : Bool
  deriving DecidableEq, Repr

/-- A QSYNC or FENCE in force (R146, R153): what later accesses still wait for. -/
structure Hold where
  loads : List Nat
  leave : List Nat
  apply : List Nat
  deriving DecidableEq, Repr

/-! Agents and the loop sequencer. -/

/-- What an agent waits for (R386). -/
inductive Wait where
  | none | leftToken | rightToken | outcome | slip | chanPop (n : Nat) | chanPush (n : Nat)
  | operands | leftSignal | rightSignal | other
  deriving DecidableEq, Repr

/-- One stride slot with its offset (R218, R219). -/
structure Stride where
  stride : BitVec 32
  kind : Nat
  target : Nat
  off : Word
  deriving DecidableEq, Repr

/-- One active loop level (R215, R216). -/
structure Level where
  start : Word
  len : Nat
  trip : Nat
  stages : Nat
  iter : Nat
  slots : List Stride
  deriving DecidableEq, Repr

/-- What S records for the other agents at an all-agent word (R39): the next PC, and the level that a LOOP
starts. -/
structure Outcome where
  pc : Word
  loop : Option (Nat × Nat × Nat)
  ended : Bool
  deriving DecidableEq, Repr

/-- One agent (R38 to R43): PC and DPOS, whether it has passed HALT, what it waits for, signals it must put,
positions whose tokens it has taken, the LSTG in force, the end of a body passed as skipped words, the active
levels (innermost first) and the replay buffer. -/
structure Agent where
  pc : Word
  dpos : Nat
  halted : Bool
  wait : Wait
  sig : BitVec 2
  taken : List Nat
  lstg : Option (Nat × Bool × Bool)
  skipTo : Option Word
  levels : List Level
  replay : Tab (BitVec 32)
  deriving DecidableEq, Repr

/-! Channels, vector words in flight, closures. -/

/-- One place of a channel: full, or reserved for the V word `id` (R173). -/
structure Slot where
  id : Nat
  val : Option VReg
  deriving DecidableEq, Repr

/-- A channel (R173, R174): its places, CHBIND as it reads, the binding in force, the credits of a sending
network channel (R330) and whether a binding written is pending. -/
structure Chan where
  q : List Slot
  bind : Word
  act : Word
  credits : Nat
  pending : Bool
  deriving DecidableEq, Repr

/-- The lane operations whose result a V word writes at its landing. `rm` is a rounding mode, `ty` a type code,
`lanes` the lanes that a load writes, `k` the batch that a drain took. -/
inductive VOp where
  | add | sub | mul | fma | fms | div | sqrt | min | max | abs | neg | adds | subs | and | or | xor
  | shl | shr | sar | mulh | cmpeq | cmplt | cmple | mand | mor | mxor | mnot | sel
  | cvt (rm ty : Nat) | q8q | q8d | z4q (t : Nat) | z4d | rsum | rmin | rmax
  | perm | bcast | slide | zip | unzip | load (lanes : List Nat) | mvg | iota | mpop | drain (k : Nat) | table
  deriving DecidableEq, Repr

/-- Bytes that a V word in flight awaits: the load, the source they are for and the lanes they fill in order (R174,
R255). -/
structure Late where
  load : Nat
  src : Nat
  lanes : List Nat
  deriving DecidableEq, Repr

/-- A V word that has issued and not landed (R170, R255). `shape`, `msk` and `traps` are VSHAPE, its mask and ARITHCTL
as read at issue, `src` the operands, `late` the loads still awaited, `lat` its latency L, `due` the last cycle it may
land in, `lock` the load lock; `vd`, `md`, `gd`, `ch` are its destinations, and `adv` the stream and its LO where the
destination channel pushes to a KIND 4 port, `back` being then the V agent as it stood at the word. -/
structure VPend where
  id : Nat
  pc : Word
  dpos : Nat
  op : VOp
  shape : Word
  msk : BitVec 64
  masked : Bool
  traps : BitVec 4
  src : List VReg
  late : List Late
  lat : Nat
  due : Option Nat
  lock : Bool
  vd : List Nat
  md : Option Nat
  gd : Option Nat
  ch : Option Nat
  adv : Option (Nat × Word)
  back : Option Agent
  deriving DecidableEq, Repr

/-- A source that a V word reads through a KIND 4 channel before it issues: its load, its lanes, its bytes, and VSHAPE and the mask as
the read found them, which the word uses (R174); `undo` is the stream that the read passed a group of, the position before it and whether it
ended a tile. -/
structure VPre where
  load : Nat
  lanes : List Nat
  bytes : Option (List Byte)
  shape : Word
  msk : BitVec 64
  undo : Option (Nat × Nat × Bool)
  deriving DecidableEq, Repr

/-- A tile that VSTS is writing (R258): its stores that have not applied, and whether all its elements are stored. -/
structure TailTile where
  stores : List Nat
  full : Bool
  deriving DecidableEq, Repr

/-- A Guestbook entry (R221). -/
structure GbEntry where
  entry : Word
  nval : Nat
  nref : Nat
  vals : List Word
  refs : List (Nat × Nat)
  count : Nat
  gen : Nat
  deriving DecidableEq, Repr

/-- What a request asks of a home Guestbook (R224). -/
inductive GbOp where
  | inc | dec | read
  deriving DecidableEq, Repr

/-- A request at a home Guestbook: the asking cell, the handle, its arrival cycle. -/
structure GbReq where
  cell : Nat
  op : GbOp
  handle : BitVec 32
  at_ : Nat
  deriving DecidableEq, Repr

/-- The home's answer: a fault code of R392 with AUX2, or the entry as it was read; and the asking cell. -/
structure GbAck where
  code : Nat
  aux2 : Word
  addr : Word
  ent : GbEntry
  deriving DecidableEq, Repr

/-- An S word that spans several steps (log 9): what it waits for and what has come back, and the store of a KST as it was checked, its
accesses and the leaf whose D it sets (R393, R426). -/
structure SOp where
  load : Option Nat
  bytes : Option (List Byte)
  asked : Bool
  ack : Option GbAck
  chk : Option (List Acc × Option Nat)
  deriving DecidableEq, Repr

/-- A word in progress that has asked for nothing. -/
def SOp.idle : SOp := ⟨none, none, false, none, none⟩

/-- A word in progress that waits for a load. -/
def SOp.ofLoad (id : Nat) : SOp := { SOp.idle with load := some id }

/-- An entry of the deferral queue (R260). -/
structure DqEntry where
  handle : BitVec 32
  width : Nat
  vals : List Nat
  deriving DecidableEq, Repr

/-- A fault or trap as it is detected (R358, R359), before the record is written; `cycle` is the cycle of its detection (R363). -/
structure Report where
  cls : Nat
  code : Nat
  agent : Nat
  dlv : Nat
  rst : Bool
  pc : Word
  addr : Word
  aux : Word
  dpos : Nat
  time : Word
  aux2 : Word
  cycle : Nat
  deriving DecidableEq, Repr

/-! Commands. -/

/-- A range of bytes: an address, virtual for a declared footprint (R188) and home where footprints are compared (R163), and a length. -/
structure Range where
  base : Nat
  len : Nat
  deriving DecidableEq, Repr

/-- An X command (R287, R310): its word, the g values at issue with LO added to addresses, the closure handle of a
completion action, declared footprints, whether it has begun and whether a wait or barrier has been released, DONE, the bytes of the
present transfer already injected, the stamp and sequence it holds, the CSEQs still to be acknowledged, the tickets still to be
applied, whether a read of another node is out, the source bytes of the present chunk with the offsets in it that are still to be read (`todo`) and
to be written (`puts`), since granules follow no fixed order (R141), the accesses of the chunk as they were checked (R426), the record that
XCOLL read at acceptance, whether its last chunk is over, and whether a lost connection has stopped it (R448); stores of the cell numbered
below `seen` were made before it issued. -/
structure Job where
  pc : Word
  dpos : Nat
  word : Instr
  a : Word
  b : Word
  c : Word
  d : Word
  kreg : BitVec 32
  rd : List Range
  wr : List Range
  begun : Bool
  reached : Bool
  done : Nat
  sub : Nat
  stamp : Option Word
  oseq : Word
  acks : List (Nat × Nat)
  tickets : List (Nat × Nat)
  asked : Bool
  buf : List Byte
  todo : List Nat
  puts : List Nat
  racc : List (List Acc)
  wacc : List (List Acc)
  record : List Byte
  spent : Bool
  lost : Bool
  seen : Nat
  deriving DecidableEq, Repr

/-- A matrix or sketch step word issued to the array (R268): the images of its streams and the LO of their BASE at issue,
its g value or address, ARITHCTL, the M agent as it stood at the word (R68), whether the Awl has pushed
the scales of each port (R107), whether it has begun, is stopped at a panel boundary (R62) and when its present part ends; stores of
the cell numbered below `seen` were made before it issued; `caught` are the granules that it has read and `out` those that it has written before it
retires, since its granules follow no fixed order (R141). -/
structure MStep where
  cell : Nat
  pc : Word
  dpos : Nat
  word : Instr
  g : Word
  ia : Image
  ib : Image
  im : Image
  la : Word
  lb : Word
  lm : Word
  traps : BitVec 4
  agent : Agent
  pa : Bool
  pb : Bool
  begun : Bool
  paused : Bool
  ends : Nat
  seen : Nat
  caught : List (Nat × List Byte)
  out : List Nat
  deriving DecidableEq, Repr

/-- A register write that its owner has not acknowledged (R233): writer, register number, the unit whose register
it is (cell, cluster or die number), value, whether the owner has taken it, and the position of the writing word. -/
structure RegWrite where
  by_ : Actor
  reg : Nat
  unit : Nat
  val : Word
  taken : Bool
  pos : Nat
  deriving DecidableEq, Repr

/-- A translation held in a TLB (R83). -/
structure Trans where
  base : Nat
  size : Nat
  pa : Nat
  key : Nat
  x : Bool
  w : Bool
  r : Bool
  leaf : Nat
  deriving DecidableEq, Repr

/-- A stage's tile as it runs on a cell (R51). -/
structure TileRef where
  die : Nat
  queue : Nat
  stage : Nat
  tile : Nat
  deriving DecidableEq, Repr

/-- A replay that the end of a lease stopped (R437): what the replay area does not hold, the LO of the retained words by
window, and the place, the g value and the ARITHCTL of the triggering word. -/
structure SavedReplay where
  los : Tab (List (Word × Word × Word))
  pc : Word
  dpos : Nat
  g : Word
  traps : BitVec 4
  deriving DecidableEq, Repr

/-- One cell (R15 to R22): `leaseSaved` is a lease held or requested at the halt (R66), `granted` a grant in this tile (R64),
`mlog` the outcomes and tokens that M has taken past step words not retired (R68), `saved` a replay of its tile that the end of a
lease stopped (R437), `text` and `textKey` memory as it stood when the fetch cache was last emptied (R150, log 12), `upset` a hidden error of the cell's own
structures, an input (R429, log 60): structures 0 to 13 and an entry as R431 code 0x03 numbers them, 14 a word of the fetch cache, 15 a 64 KiB
unit that the TLBs translate; `vahead` is where V goes on, place by place, after a push that was refused at its landing (R359, log 68), `netAt` the network cycle in which
a flit last came on the circuit of each network port (R329); `gpast` is what g registers held before S's words at the positions named
wrote them, for the agents that are still before those positions (R167, log 25). -/
structure Cell where
  tile : Option TileRef
  g : Tab Word
  gpast : List (Nat × Nat × Word)
  v : Tab VReg
  m : Tab (BitVec 64)
  k : Tab (BitVec 32)
  s : Tab Image
  lent : Tab Nat
  agents : Tab Agent
  chans : Tab Chan
  tokens : Tab (List Nat)
  outq : Tab (List Outcome)
  slipwin : Word
  vshape : Word
  vstat : Word
  arithctl : Word
  wallow : Word
  faultrec : Word
  lstride : Tab Word
  netp : Tab Word
  netAt : Tab Nat
  loads : List Load
  returning : List Load
  stores : List Store
  hold : Option Hold
  pend : List VPend
  vpre : Tab VPre
  vahead : List Agent
  tails : Tab (List TailTile)
  nextId : Nat
  sop : Option SOp
  gb : Tab GbEntry
  gbq : List GbReq
  gbacks : List GbAck
  dq : List DqEntry
  ftop : Nat
  fgen : Nat
  jobs : List Job
  xbar : Tab Nat
  fcache : Tab (BitVec 32)
  text : List Host.Cell
  textKey : Tab (BitVec 512)
  stlb : List Trans
  vtlb : List Trans
  mtlb : List Trans
  xtlb : List Trans
  lastPass : Nat
  leaseSaved : Bool
  granted : Bool
  mlog : List (Nat × Option Outcome)
  saved : Option SavedReplay
  upset : Option (Nat × Nat)
  deriving DecidableEq, Repr

/-! Clusters. -/

/-- A retained step word of a command window (R280, R437): the word, the tile indices it read, the LO of its streams. -/
structure Kept where
  word : Instr
  ha : Nat
  hb : Nat
  hm : Nat
  la : Word
  lb : Word
  lm : Word
  deriving DecidableEq, Repr

/-- A command window (R280): open or not, the checkpoint with its flag code, the retained words. -/
structure Window where
  opened : Bool
  tile : Tab (BitVec 32)
  code : BitVec 4
  kept : List Kept
  deriving DecidableEq, Repr

/-- A replay in progress (R436, R437): tiles concerned, trigger kind, triggering tile, window and position
reached, and the place and the ARITHCTL of the triggering step. -/
structure Replay where
  mask : Nat
  kind : Nat
  tile : Nat
  win : Nat
  pos : Nat
  pc : Word
  dpos : Nat
  traps : BitVec 4
  deriving DecidableEq, Repr

/-- One element of the scatter-accumulate engine (R90): its word's home, width, operation, type, value. -/
structure Elem where
  addr : Nat
  op : Nat
  ty : Nat
  val : Word
  deriving DecidableEq, Repr

/-- A block of elements with its first ticket (R91, R93); `src` names the node, CSEQ and CLASS of the packet that brought it, which has applied
once the block has. -/
structure Block where
  ticket : Nat
  elems : List Elem
  src : Option (Nat × Nat × Nat)
  deriving DecidableEq, Repr

/-- One logical cluster (R23 to R25): `lessee`, `prev` and `owner` are cell indices 0 to 3, `owner` the cell whose tiles the array
holds (R64); `upsets` are hidden errors of the array (trigger kind of R431 code 0x04, tile), an input (R429, R433);
`wakeAt` is the cycle from which it is in Run after the Gated state (R350), `delay` and `delay720` are what its monitors show, inputs (R352), and `stopped` says that GBHARD was passed (R375). -/
structure Cluster where
  lessee : Option Nat
  prev : Nat
  owner : Option Nat
  reqs : List Nat
  used : Nat
  granted : Nat
  acc : Tab (Tab (BitVec 32))
  codes : Tab (BitVec 4)
  sktab : Word
  accsave : Word
  rplbase : Word
  steps : List MStep
  lastEnd : Nat
  lastMul : Bool
  freeAt : Nat
  scales : Tab (List (Byte × Byte × Nat))
  trigger : Option (Nat × Nat)
  wins : Tab Window
  replay : Option Replay
  upsets : List (Nat × Nat)
  blocks : List Block
  ticket : Nat
  gated : Bool
  idleFrom : Nat
  wakeAt : Nat
  delay : Nat
  delay720 : Nat
  stopped : Bool
  deriving DecidableEq, Repr

/-! Dies. -/

/-- A started stage (R48 to R53): queue, ring index, record bytes, tiles handed out and ended, whether its
completion event is suppressed, start time, its number. -/
structure Stage where
  id : Nat
  queue : Nat
  index : Nat
  record : List Byte
  handed : List Nat
  ended : Nat
  nocev : Bool
  start : Nat
  deriving DecidableEq, Repr

/-- A waiter of an event (R59): an XEVWAIT of a cell, at a position of its tile. -/
structure Waiter where
  cell : Nat
  dpos : Nat
  tile : Option TileRef
  deriving DecidableEq, Repr

/-- An event of a die (R59): count, hardware wait list, number of entries in its overflow list in memory, and
whether a release of the overflow list is under way. -/
structure Event where
  count : BitVec 32
  hw : List Waiter
  spill : List Waiter
  release : Bool
  deriving DecidableEq, Repr

/-- An arrival packet waiting at a die scheduler (R54, R301): queue, ring index, tile, source node, and the
local command it completes (cell, position). -/
structure Arrive where
  queue : Nat
  index : Nat
  tile : Nat
  src : Nat
  job : Option (Nat × Nat)
  deriving DecidableEq, Repr

/-- The Innkeeper of a die (R26): its registers and run state. -/
structure Innkeeper where
  g : Tab Word
  pc : Word
  running : Bool
  nest : Bool
  tlb : List Trans
  s : Tab Image
  sop : Option SOp
  deriving DecidableEq, Repr

/-- One die: `prio` and `since` are the effective priority of each queue and the cycles since which its head has been eligible and since which the
present ageing step counts (R60),
`reserve` the clusters that a queue's head caravan reserves (R61), `upsets` hidden errors of the die, an input (R429, log 60): 0 one that is
corrected, 1 an uncorrectable one of the event table, the slot tables or a scale FIFO, n + 2 one of entry n of the last-level TLB;
`newSlots` are slot tables loaded and the slot-0 cycle in which they take effect (R329). -/
structure Die where
  qbase : Tab Word
  qcfg : Tab Word
  qhead : Tab Word
  qtail : Tab Word
  qkey : Tab Word
  prio : Tab Nat
  since : Tab (Nat × Nat)
  regs : Tab Word
  stages : List Stage
  nextStage : Nat
  reserve : List (Nat × List Nat)
  events : Tab Event
  arrivals : List Arrive
  fnq : List (Word × Nat × List Byte)
  ik : Innkeeper
  lltlb : List Trans
  slots : Tab (BitVec 32)
  newSlots : Option (Nat × Tab (BitVec 32))
  retention : Bool
  tripped : Bool
  upsets : List Nat
  deriving DecidableEq, Repr

/-- What a gang is doing: running; halting with its reports not yet written; halted with its context saved. -/
inductive GangRun where
  | running | halting | halted
  deriving DecidableEq, Repr

/-- A gang (R45, R46): its first cell, KIND, cells, die, stage, the reports of its present halt in order of
detection, whether one of them has RST 0, an ABORTREQ in wait, and its cells' saved contexts (R66). -/
structure Gang where
  first : Nat
  kind : Nat
  cells : List Nat
  die : Nat
  run : GangRun
  reports : List Report
  norst : Bool
  abort : Option Bool
  saved : Tab Cell
  deriving DecidableEq, Repr

/-! The fabric. -/

/-- A packet (R326); `epoch` counts the restarts of its connection (R448, log 13). -/
structure Packet where
  ty : Nat
  cls : Nat
  dst : Nat
  src : Nat
  stamp : Word
  oseq : Word
  cseq : Nat
  cack : Nat
  addr : Word
  aux : Word
  data : List Byte
  epoch : Nat
  deriving DecidableEq, Repr

/-- A flit as it is before sealing and after opening (R325): the fields of its link header and its 224 bytes of payload. -/
structure Flit where
  ms : Word
  kind : Nat
  slot : Nat
  lseq : Nat
  lack : Nat
  body : List Byte
  deriving DecidableEq, Repr

/-- A link key slot (R308, R341): key, salt, KID, loaded, transmit and receive counters, and whether it has sealed
flits since it was loaded. -/
structure LinkKey where
  key : BitVec 256
  salt : BitVec 32
  kid : BitVec 32
  loaded : Bool
  tx : Nat
  rx : Nat
  sealed : Bool
  deriving DecidableEq, Repr

/-- A flit held for link retry, the 256 bytes it was sent as, and the number of times it has been resent (R327, R441). -/
structure Held where
  flit : Flit
  image : List Byte
  resent : Nat
  deriving DecidableEq, Repr

/-- A retraining sequence (R442, R443): its abort bit, whether the link state of its sender begins anew, and whether the link trains at the width
that is tried. -/
structure Train where
  abort : Bool
  restart : Bool
  trains : Bool
  deriving DecidableEq, Repr

/-- A fabric port (R324 to R328, R341, R342, R440 to R453). `part` counts the flits of the first packet queued that have been sent,
`stale` says that a flit with an old LACK has come, `switching` is the XKEYSW under way (cell, position), `ahead` the packets queued
before it that have not left, `mark` the LSEQ of its marker once sent, `refused` the LSEQ of a marker that was refused, `again`
how many of the last flits held are sent again once retraining ends, which it does by `retrainBy`; `width` and `rwidth` are the widths sent and
received at, and the wires hold flits of 256 bytes, behind a lantern's the timing word that goes with it (R338, log 22); `trainOut` is the retraining
sequence that the port sends, `trainIn` the one that its peer sends, an input, and `authBad` says that no flit has been accepted since a tag check failed. -/
structure Port where
  ctl : Word
  state : Nat
  width : Nat
  rwidth : Nat
  lanes : Nat
  authf : Nat
  narrow : Nat
  resend : Nat
  lkctl : Word
  near : Bool
  txs : Nat
  rxs : Nat
  keys : Tab LinkKey
  lseq : Nat
  expect : Nat
  lack : Nat
  buf : List Held
  acked : Nat
  ackTime : Nat
  rxq : List Flit
  wireIn : List (List Byte)
  wireOut : List (List Byte)
  txq : List Packet
  lastTx : Nat
  msSent : Word
  msRecv : Word
  switching : Option (Nat × Nat)
  ahead : Nat
  mark : Option Nat
  part : Nat
  stale : Bool
  refused : Option Nat
  episode : Bool
  again : Nat
  retrainBy : Nat
  trainOut : Train
  trainIn : Train
  authBad : Bool
  deriving DecidableEq, Repr

/-- A packet in the connection retry store (R332, R447): the packet, when it was last sent, how often it has been
resent, the posted write or command it completes, and the 64-byte line of the store that its copy begins at. -/
structure Retry where
  pkt : Packet
  sent : Nat
  times : Nat
  store : Option (Nat × Nat)
  job : Option (Nat × Nat)
  place : Nat
  deriving DecidableEq, Repr

/-- A reliable connection to a peer node (R331): send and next expected CSEQ, unacknowledged packets, early arrivals, the time of the
oldest application not yet acknowledged, whether its spilled state was found poisoned (R447), and how often it has started afresh (R448). -/
structure Conn where
  send : Nat
  recv : Nat
  retry : List Retry
  early : List Packet
  ackDue : Option Nat
  bad : Bool
  epoch : Nat
  deriving DecidableEq, Repr

/-- Who waits for a read response of another node: a load of a cell, a chunk of an X command, an Innkeeper's load. -/
inductive Asker where
  | load (c id : Nat)
  | job (c dpos off : Nat)
  | ik (d : Nat)
  deriving DecidableEq, Repr

/-- A read request sent and not answered: the node, the CSEQ of the request and who waits (R326, log 13). -/
structure ReadReq where
  node : Nat
  cseq : Nat
  who : Asker
  deriving DecidableEq, Repr

/-- A reduction element at HOME (R340): contributions taken and the accumulator. -/
structure RedElem where
  count : Nat
  acc : Word
  deriving DecidableEq, Repr

/-! The carrier flash and the sensors: inputs that the spec names and does not give (log 7). -/

/-- The firmware image (R346, R348): its bytes, VERSION, the vendor's signature, the entry point of system software. -/
structure Firmware where
  image : List Byte
  version : BitVec 32
  sig : List Byte
  entry : Word
  deriving DecidableEq, Repr

/-- An XMSS public key: its root hash and its seed (R347, log 8). -/
structure XmssKey where
  root : BitVec 256
  seed : BitVec 256
  deriving DecidableEq, Repr

/-- The fuses (R346, R347, R349): the vendor's key, the least VERSION, the identity key with its two secrets, its next leaf. -/
structure Fuses where
  vendor : XmssKey
  minVersion : BitVec 32
  identity : XmssKey
  secret : BitVec 256
  nonce : BitVec 256
  leaf : Nat
  deriving DecidableEq, Repr

/-- The carrier flash (R346, R347, R354, R356): firmware, the identity certificate, the node number, time master and port keys of the pod configuration record,
the largest node number and ports fitted, the deconfiguration record, the wear log with the newest live record. -/
structure Flash where
  fw : Firmware
  cert : List Byte
  node : BitVec 12
  master : Nat
  maxNode : Nat
  fitted : BitVec 18
  keys : Tab LinkKey
  memkey0 : BitVec 512
  deconf : List Nat
  log : List (List Byte)
  live : List Byte
  deriving DecidableEq, Repr

/-- A flit on a circuit of the on-die network (R330): sending cell and channel, receiving cell and network port. -/
structure NetFlit where
  cell : Nat
  chan : Nat
  peer : Nat
  port : Nat
  val : VReg
  deriving DecidableEq, Repr

/-- What a cell had under way as TLBINV was written (R85): the cell, its next access number, the positions of its begun transfers to the memory that
the dropped translations led to, and the position of a KST that has been checked. -/
structure OldUse where
  cell : Nat
  id : Nat
  jobs : List Nat
  kst : Option Nat
  deriving DecidableEq, Repr

/-- A module: everything one fabric node holds. `ordered` are the ordered packets taken and not delivered, with their arrival cycles
(R336), `redHeld` contributions of elements that wait for the next round (descriptor, offset, value; R340), `hostq` the packets
that await the events of R343 and R326. `tlbinvBusy` lists, while TLBINV is busy, the memory that the dropped translations led to and what each
cell had under way (R85). `slew` says that the next cycle counts twice in PODTIME or
not at all, `slewAt` when that last was so (R338); `hourAt` and `powerAt` are the cycles of the last hourly reading (R352) and of the power controller's last
computation (R353). -/
structure State where
  now : Nat
  rank : Nat
  ticks : Nat
  agenda : List Turn
  cur : Actor
  moved : List Actor
  podtime : Word
  mem : List Host.Cell
  lineKey : Tab (BitVec 512)
  poison : List Nat
  latent : List (Nat × Bool)
  cells : Tab Cell
  clusters : Tab Cluster
  dies : Tab Die
  gangs : List Gang
  regs : Tab Word
  keySlots : Tab (Option (BitVec 512))
  writes : List RegWrite
  tlbinvBusy : Option (List Range × List OldUse)
  ports : Tab Port
  conns : Tab Conn
  resident : List Nat
  selfq : List Packet
  netq : List NetFlit
  ordered : List (Nat × Packet)
  delivered : Option (Nat × Nat × Nat)
  oseq : Word
  redux : Tab RedElem
  redHeld : List (Nat × Nat × Nat)
  hostq : List Packet
  sendq : List Packet
  reads : List ReadReq
  locked : Bool
  heard : Option Nat
  slew : Option Bool
  slewAt : Nat
  booted : Bool
  bootStep : Nat
  bootAt : Nat
  fuses : Fuses
  meas : BitVec 256
  configured : List Nat
  flash : Flash
  report : Option (Actor × Word)
  alarms : Nat
  hours : Nat
  hourAt : Nat
  powerAt : Nat
  energy : Word
  deriving DecidableEq, Repr

/-! The state after reset. -/

/-- A control word of R172, R41, R77: the reset values of a cell's registers. -/
def vshapeReset : Word := 0x8006
/-- WALLOW at reset (R77). -/
def wallowReset : Word := 0x20202020
/-- SLIPWIN at reset (R41). -/
def slipwinReset : Word := 64
/-- CHBIND at reset: WAIT 1, KIND 0 (R174). -/
def chbindReset : Word := 0x80

/-- An idle agent (log 6). -/
def Agent.reset : Agent := ⟨0, 0, false, .none, 0, [], none, none, [], []⟩

/-- An empty channel, four credits (R174, R330). -/
def Chan.reset : Chan := ⟨[], chbindReset, chbindReset, 4, false⟩

/-- A free Guestbook entry of generation 1 (R221). -/
def GbEntry.reset : GbEntry := ⟨0, 0, 0, [], [], 0, 1⟩

/-- A cell in which no tile has run (R51, R52, log 6). -/
def Cell.reset : Cell :=
  { tile := none, g := [], gpast := [], v := [], m := [], k := [], s := [], lent := [], agents := [], chans := []
    tokens := [], outq := [], slipwin := slipwinReset, vshape := vshapeReset, vstat := 0, arithctl := 0
    wallow := wallowReset, faultrec := 0, lstride := [], netp := [], netAt := [], loads := [], returning := [], stores := []
    hold := none, pend := [], vpre := [], vahead := [], tails := [], nextId := 0, sop := none, gb := [], gbq := [], gbacks := [], dq := []
    ftop := 0x200000, fgen := 0, jobs := [], xbar := [], fcache := [], text := [], textKey := [], stlb := [], vtlb := [], mtlb := [], xtlb := []
    lastPass := 0, leaseSaved := false, granted := false, mlog := [], saved := none, upset := none }

/-- A closed command window. -/
def Window.reset : Window := ⟨false, [], 0, []⟩

/-- A cluster at power-up (log 6). -/
def Cluster.reset : Cluster :=
  { lessee := none, prev := 3, owner := none, reqs := [], used := 0, granted := 0, acc := [], codes := [], sktab := 0, accsave := 0
    rplbase := 0, steps := [], lastEnd := 0, lastMul := false, freeAt := 0, scales := [], trigger := none, wins := []
    replay := none, upsets := [], blocks := [], ticket := 0, gated := false, idleFrom := 0, wakeAt := 0, delay := 0, delay720 := 0
    stopped := false }

/-- An event with count 0 and no waiters (log 6). -/
def Event.reset : Event := ⟨0, [], [], false⟩

/-- An Innkeeper that boot has not started (R346, log 6). -/
def Innkeeper.reset : Innkeeper := ⟨[], 0, false, false, [], [], none⟩

/-- A die at power-up (R55, R60, R369, log 6). -/
def Die.reset : Die :=
  { qbase := [], qcfg := [], qhead := [], qtail := [], qkey := [], prio := [], since := [], regs := []
    stages := [], nextStage := 0, reserve := [], events := [], arrivals := [], fnq := [], ik := Innkeeper.reset
    lltlb := [], slots := [], newSlots := none, retention := false, tripped := false, upsets := [] }

/-- A link key slot that nothing has loaded. -/
def LinkKey.reset : LinkKey := ⟨0, 0, 0, false, 0, 0, false⟩

/-- A port at power-up: EN 1, 8 lanes (R345, R453). -/
def Port.reset : Port :=
  { ctl := 0x8000000000000000, state := 0, width := 0, rwidth := 0, lanes := 8, authf := 0, narrow := 0, resend := 0
    lkctl := 0xFF00000000, near := false, txs := 0, rxs := 0, keys := [], lseq := 0, expect := 0, lack := 0, buf := []
    acked := 0, ackTime := 0, rxq := [], wireIn := [], wireOut := [], txq := [], lastTx := 0, msSent := 0, msRecv := 0
    switching := none, ahead := 0, mark := none, part := 0, stale := false, refused := none, episode := false, again := 0
    retrainBy := 0, trainOut := ⟨false, false, true⟩, trainIn := ⟨false, false, true⟩, authBad := false }

/-- A connection with CSEQ 0 at both ends (R448). -/
def Conn.reset : Conn := ⟨0, 0, [], [], none, false, 0⟩

/-- Fuses that hold nothing: their contents are an input (log 7). -/
def Fuses.reset : Fuses := ⟨⟨0, 0⟩, 0, ⟨0, 0⟩, 0, 0, 0⟩

/-- An empty carrier flash with unsigned firmware: the contents are an input (log 7). -/
def Flash.reset : Flash :=
  { fw := ⟨[], 0, [], 0⟩, cert := [], node := 0, master := 0, maxNode := 0, fitted := 0x3FFFF, keys := [], memkey0 := 0, deconf := []
    log := [], live := [] }

/-- The module right after reset: nothing booted, every register at the value that the spec states or log 6 names. -/
def State.reset : State :=
  { now := 0, rank := 0, ticks := 0, agenda := [], cur := .ik 0, moved := [], podtime := 0, mem := [], lineKey := [], poison := [], latent := []
    cells := [], clusters := [], dies := [], gangs := [], regs := [], keySlots := [], writes := [], tlbinvBusy := none
    ports := [], conns := [], resident := [], selfq := [], netq := [], ordered := [], delivered := none, oseq := 0
    redux := [], redHeld := [], hostq := [], sendq := [], reads := [], locked := false, heard := none, slew := none, slewAt := 0, booted := false, bootStep := 0, bootAt := 0, fuses := Fuses.reset
    meas := 0, configured := List.range 128, flash := Flash.reset, report := none, alarms := 0, hours := 0, hourAt := 0, powerAt := 0
    energy := 0 }

end Sys2Proof.Machine
end

