-- ==== Sys2Proof/Machine/Base.lean ====
section
/-!
DEFINITION. Accessors of the units of a module, numbering (R19, R20), and storage: the one home space (log 4),
reads and writes of bytes, DRAM lines under their keys (R87), poisoned units (R430).
-/
namespace Sys2Proof.Machine

/-- The answer of a meaning. -/
abbrev Out := Host.Outcome State Fault Refusal

/-! Units. -/

/-- The engine code of R17. -/
def engCode : Engine → Nat
  | .S => 0 | .V => 1 | .M => 2 | .X => 3

/-- The engine of a code. -/
def engineOf (n : Nat) : Engine :=
  match n % 4 with
  | 0 => .S | 1 => .V | 2 => .M | _ => .X

/-- Logical cell `c`. -/
def State.cell (s : State) (c : Nat) : Cell := Tab.get Cell.reset s.cells c
/-- Replace logical cell `c`. -/
def State.setCell (s : State) (c : Nat) (x : Cell) : State := { s with cells := Tab.set s.cells c x }
/-- Logical cluster `l`. -/
def State.cluster (s : State) (l : Nat) : Cluster := Tab.get Cluster.reset s.clusters l
/-- Replace logical cluster `l`. -/
def State.setCluster (s : State) (l : Nat) (x : Cluster) : State := { s with clusters := Tab.set s.clusters l x }
/-- Die `d`. -/
def State.die (s : State) (d : Nat) : Die := Tab.get Die.reset s.dies d
/-- Replace die `d`. -/
def State.setDie (s : State) (d : Nat) (x : Die) : State := { s with dies := Tab.set s.dies d x }
/-- Port `p`. -/
def State.port (s : State) (p : Nat) : Port := Tab.get Port.reset s.ports p
/-- Replace port `p`. -/
def State.setPort (s : State) (p : Nat) (x : Port) : State := { s with ports := Tab.set s.ports p x }
/-- The connection to node `n`. -/
def State.conn (s : State) (n : Nat) : Conn := Tab.get Conn.reset s.conns n
/-- Replace the connection to node `n`. -/
def State.setConn (s : State) (n : Nat) (x : Conn) : State := { s with conns := Tab.set s.conns n x }

/-- Agent `e` of a cell. -/
def Cell.agent (x : Cell) (e : Engine) : Agent := Tab.get Agent.reset x.agents (engCode e)
/-- Replace agent `e`. -/
def Cell.setAgent (x : Cell) (e : Engine) (a : Agent) : Cell := { x with agents := Tab.set x.agents (engCode e) a }
/-- Channel `n` of a cell. -/
def Cell.chan (x : Cell) (n : Nat) : Chan := Tab.get Chan.reset x.chans n
/-- Replace channel `n`. -/
def Cell.setChan (x : Cell) (n : Nat) (h : Chan) : Cell := { x with chans := Tab.set x.chans n h }
/-- v register `n`. -/
def Cell.vreg (x : Cell) (n : Nat) : VReg := Tab.get 0 x.v n
/-- Mask register `n`. -/
def Cell.mreg (x : Cell) (n : Nat) : BitVec 64 := Tab.get 0 x.m n
/-- Closure register `n`. -/
def Cell.kreg (x : Cell) (n : Nat) : BitVec 32 := Tab.get 0 x.k n
/-- Stream register `n`. -/
def Cell.stream (x : Cell) (n : Nat) : Image := Tab.get 0 x.s n
/-- g register `n`: g0 reads 0 (R168). -/
def Cell.greg (x : Cell) (n : Nat) : Word := if n = 0 then 0 else Tab.get 0 x.g n
/-- Write g register `n`: a write to g0 is discarded (R168). -/
def Cell.setG (x : Cell) (n : Nat) (v : Word) : Cell := if n = 0 then x else { x with g := Tab.set x.g n v }
/-- Guestbook entry `n`. -/
def Cell.gbEntry (x : Cell) (n : Nat) : GbEntry := Tab.get GbEntry.reset x.gb n
/-- g register `n` of an Innkeeper (R168, R237). -/
def Innkeeper.greg (x : Innkeeper) (n : Nat) : Word := if n = 0 then 0 else Tab.get 0 x.g n
/-- Write g register `n` of an Innkeeper. -/
def Innkeeper.setG (x : Innkeeper) (n : Nat) (v : Word) : Innkeeper := if n = 0 then x else { x with g := Tab.set x.g n v }

/-! Numbering (R19, R20, R34). -/

/-- The cluster of a cell. -/
def clusterOf (c : Nat) : Nat := c / 4
/-- The die of a logical cluster. -/
def dieOfCluster (s : State) (l : Nat) : Nat := s.configured.getD l 0 / 32
/-- The die of a cell. -/
def dieOf (s : State) (c : Nat) : Nat := dieOfCluster s (clusterOf c)
/-- Configured clusters of the module. -/
def clusterCount (s : State) : Nat := s.configured.length
/-- Configured cells of the module. -/
def cellCount (s : State) : Nat := 4 * s.configured.length
/-- Configured clusters of die `d`. -/
def dieClusters (s : State) (d : Nat) : Nat := (s.configured.filter (fun p => p / 32 = d)).length
/-- The first logical cluster of die `d`: b of R48. -/
def firstCluster (s : State) (d : Nat) : Nat := (s.configured.filter (fun p => p / 32 < d)).length
/-- The module-wide agent number (R19). -/
def agentNo (c : Nat) (e : Engine) : Nat := 4 * c + engCode e
/-- The die a fabric port stands on (R31). -/
def dieOfPort (p : Nat) : Nat := if p = 16 then 0 else if p = 17 then 2 else p / 4

/-! Fields of words. -/

/-- The `n` bits of `w` from bit `lo`, as a number. -/
def bits (w : Word) (lo n : Nat) : Nat := w.toNat / 2 ^ lo % 2 ^ n
/-- Bit `i` of a word. -/
def bit (w : Word) (i : Nat) : Bool := w.getLsbD i
/-- A word from a number. -/
def wd (n : Nat) : Word := BitVec.ofNat 64 n
/-- A word with `v` in the `n` bits from `lo`. -/
def setBits (w : Word) (lo n v : Nat) : Word := (w &&& ~~~ (wd ((2 ^ n - 1) * 2 ^ lo))) ||| wd (v % 2 ^ n * 2 ^ lo)
/-- One bit as a number. -/
def b2n (b : Bool) : Nat := if b then 1 else 0

/-! The home space (log 4): DRAM at its physical address below 2^48, the scratchpads above it. -/

/-- The first byte of a cell store. -/
def cellHome (c : Nat) : Nat := 2 ^ 60 + c * 2 ^ 21
/-- The first byte of a cluster scratchpad. -/
def clusterHome (l : Nat) : Nat := 2 ^ 61 + l * 2 ^ 23
/-- The first byte of a die scratchpad. -/
def dieHome (d : Nat) : Nat := 2 ^ 62 + d * 2 ^ 25

/-- A physical address of R74 that is assigned. -/
def assigned (a : Nat) : Bool := a < 2 ^ 39 || (2 ^ 43 ≤ a && a < 2 ^ 44)

/-- A home byte that lies in DRAM. -/
def isDram (a : Nat) : Bool := a < 2 ^ 48

/-- The die whose memory holds a home byte. -/
def homeDie (s : State) (a : Nat) : Nat :=
  if a < 2 ^ 43 then a / 2 ^ 37
  else if a < 2 ^ 48 then (a - 2 ^ 43) / 2 ^ 41
  else if a < 2 ^ 61 then dieOf s ((a - 2 ^ 60) / 2 ^ 21)
  else if a < 2 ^ 62 then dieOfCluster s ((a - 2 ^ 61) / 2 ^ 23)
  else (a - 2 ^ 62) / 2 ^ 25

/-- What a unit of storage is, for AUX of class 0x0B (R431): 0 cell store, 1 cluster, 2 die scratchpad, 3 bonded
DRAM, 4 LPDDR6. -/
def homeKind (a : Nat) : Nat :=
  if a < 2 ^ 43 then 3 else if a < 2 ^ 48 then 4 else if a < 2 ^ 61 then 0 else if a < 2 ^ 62 then 1 else 2

/-- A home byte that a die in Retention does not keep in service (R351): everything but its LPDDR6. -/
def retained (s : State) (a : Nat) : Bool := homeKind a != 4 && (s.die (homeDie s a)).retention

/-- The home that a home byte lies in, on which the path of a store turns (R139, R143): each LPDDR6 channel is one, and consecutive
4 KiB blocks of a die rotate over its eight channels (R74). The layers of a die's bonded DRAM, whose interleave R74 does not give, are one
home and one path here (log 4, DESIGN CHOICE). -/
def homeUnit (a : Nat) : Nat :=
  if a < 2 ^ 43 then a / 2 ^ 37
  else if a < 2 ^ 48 then 4 + 8 * ((a - 2 ^ 43) / 2 ^ 41) + (a - 2 ^ 43) / 2 ^ 12 % 8
  else if a < 2 ^ 61 then 1000 + (a - 2 ^ 60) / 2 ^ 21
  else if a < 2 ^ 62 then 2000 + (a - 2 ^ 61) / 2 ^ 23
  else 3000 + (a - 2 ^ 62) / 2 ^ 25

/-! Memory: bytes listed by rising address, none of them 0 (log 5). -/

/-- The byte that memory holds at a home address; an unlisted byte reads 0. -/
def memGet (m : List Host.Cell) (a : Nat) : Byte := Tab.get 0 m a

/-- Memory with one byte written, in canonical form. -/
def memPut (m : List Host.Cell) (a : Nat) (b : Byte) : List Host.Cell :=
  if b = 0 then Tab.erase m a else Tab.set m a b

/-- Memory with a run of bytes written from `a` up. -/
def memPutAll (m : List Host.Cell) (a : Nat) (l : List Byte) : List Host.Cell :=
  match l with
  | [] => m
  | b :: r => memPutAll (memPut m a b) (a + 1) r

/-- The canonical form of memory: addresses strictly rising, no entry 0. -/
def Memory.wf (m : List Host.Cell) : Bool := Tab.rising 0 m && m.all (fun p => p.2 != 0)

/-- The bytes of a run of home addresses as they stand. -/
def rd (s : State) (a n : Nat) : List Byte := (List.range n).map (fun i => memGet s.mem (a + i))

/-- The 64-byte lines that a run touches. -/
def linesOf (a n : Nat) : List Nat := (List.range ((a + n + 63) / 64 - a / 64)).map (fun i => a / 64 + i)

/-- The 512-bit key in a slot; an unloaded slot holds 0 (R89). An access uses the key that its slot holds as it reads or writes memory, also where it
began before a KEYCMD changed it (log 5, DESIGN CHOICE). -/
def keyVal (s : State) (k : Nat) : BitVec 512 := (Tab.get none s.keySlots k).getD 0

/-- Every line of the run was last written under this key, or never written (R87, log 5). -/
def linesUnder (s : State) (kv : BitVec 512) (a n : Nat) : Bool :=
  (linesOf a n).all (fun l => Tab.get kv s.lineKey l == kv)

/-- The plain bytes of a line as they read under `kv`: decrypted from what was encrypted under the key of its last
write (R87). -/
def lineView (s : State) (kv : BitVec 512) (line : Nat) : List Byte :=
  let old := Tab.get kv s.lineKey line
  let p := rd s (64 * line) 64
  if old = kv then p else xtsDec kv line (xtsEnc old line p)

/-- Read a run of home bytes; `key` is the slot of a DRAM access, none for a window (R87). -/
def readHome (s : State) (a n : Nat) (key : Option Nat) : List Byte :=
  match key with
  | none => rd s a n
  | some k =>
    if !isDram a || linesUnder s (keyVal s k) a n then rd s a n
    else (List.range n).map (fun i => byteAt (lineView s (keyVal s k) ((a + i) / 64)) ((a + i) % 64))

/-- A line re-encrypted under `kv` (R87). -/
def recode (s : State) (kv : BitVec 512) (line : Nat) : State :=
  { s with mem := memPutAll s.mem (64 * line) (lineView s kv line), lineKey := Tab.set s.lineKey line kv }

/-- The size of a unit of storage with its own check code (R430). -/
def unitSize (a : Nat) : Nat := if isDram a then 64 else 8

/-- A write of the run covers the unit at `u` whole. -/
def covers (a n u : Nat) : Bool := decide (a ≤ u) && decide (u + unitSize u ≤ a + n)

/-- A run touches the unit at `u`. -/
def touches (a n u : Nat) : Bool := decide (u < a + n) && decide (a < u + unitSize u)

/-- Some unit of the run is poisoned, or holds an error that no read has found yet (R429, R430). -/
def poisoned (s : State) (a n : Nat) : Bool :=
  s.poison.any (touches a n) || s.latent.any (fun p => !p.2 && touches a n p.1)

/-- The first poisoned unit of a run. -/
def poisonAt (s : State) (a n : Nat) : Nat :=
  ((s.poison.find? (touches a n)).orElse (fun _ => (s.latent.find? (fun p => !p.2 && touches a n p.1)).map (·.1))).getD a

/-- Write a run of home bytes (R430: a write that covers a unit clears its poison; a smaller one into a poisoned
unit is lost). -/
def writeHome (s : State) (a : Nat) (l : List Byte) (key : Option Nat) : State :=
  let s1 := match key with
    | none => s
    | some k => if !isDram a || linesUnder s (keyVal s k) a l.length then s
        else (linesOf a l.length).foldl (fun t n => recode t (keyVal s k) n) s
  let s2 := match key with
    | none => s1
    | some k => if isDram a then
        { s1 with lineKey := (linesOf a l.length).foldl (fun t n => Tab.set t n (keyVal s k)) s1.lineKey } else s1
  { s2 with mem := memPutAll s2.mem a l, poison := s2.poison.filter (fun u => !covers a l.length u)
            latent := s2.latent.filter (fun p => !covers a l.length p.1) }

/-- Eight bytes of a word. -/
def wordBytes (w : Word) : List Byte := leList 8 w.toNat
/-- The 8-byte word at an offset of a run of bytes. -/
def wordAt (l : List Byte) (i : Nat) : Word := wd (leNat ((l.drop i).take 8))

/-! Integrity counts (R429, R432). -/

/-- A field of a counter register raised by one, saturating. -/
def bump (w : Word) (lo n : Nat) : Word := if bits w lo n = 2 ^ n - 1 then w else setBits w lo n (bits w lo n + 1)

/-- INTEGSTAT (die register 0x0212) with a field counted once (R432). -/
def countInteg (s : State) (d lo n : Nat) : State :=
  let x := s.die d
  s.setDie d { x with regs := Tab.set x.regs 0x212 (bump (Tab.get 0 x.regs 0x212) lo n) }

/-- A read of a unit that holds a hidden error corrects and counts it, or poisons it and counts that (R429, R430). -/
def exposeOne (s : State) (p : Nat × Bool) : State :=
  let s1 := { s with latent := s.latent.filter (· != p) }
  if p.2 then countInteg s1 (homeDie s p.1) 0 32
  else countInteg { s1 with poison := s1.poison ++ [p.1] } (homeDie s p.1) 32 16

/-- Every hidden error that a read of the run meets (R429). -/
def expose (s : State) (a n : Nat) : State := (s.latent.filter (fun p => touches a n p.1)).foldl exposeOne s

/-- The hidden errors that a write of the run meets: it reads the units that it covers only in part (R429). -/
def exposePart (s : State) (a n : Nat) : State := (s.latent.filter (fun q => touches a n q.1 && !covers a n q.1)).foldl exposeOne s

/-- A structure of R181 or R425 read by the device: key slot 0, no translation. -/
def devRead (s : State) (a n : Nat) : List Byte := readHome s a n (some 0)
/-- A structure of R181 or R425 written by the device. -/
def devWrite (s : State) (a : Nat) (l : List Byte) : State := writeHome (exposePart s a l.length) a l (some 0)
/-- An 8-byte word of such a structure. -/
def devWord (s : State) (a : Nat) : Word := wd (leNat (devRead s a 8))

end Sys2Proof.Machine
end

