-- ==== Sys2Proof/Machine/Mem.lean ====
section
/-!
DEFINITION. Windows (R71), translation (R80 to R86), the checks of an access (R382, R422 to R424) and the
fetch of an instruction word (R380, R381).
-/
namespace Sys2Proof.Machine

/-- A fault as it is detected: class, code, ADDR, AUX, AUX2, delivery and RST (R358 to R360). -/
structure Flt where
  cls : Nat
  code : Nat
  addr : Word := 0
  aux : Word := 0
  aux2 : Word := 0
  dlv : Nat := 0
  rst : Bool := true
  deriving DecidableEq, Repr

/-- A result, or the fault that stands in its place. -/
inductive Res (α : Type) where
  | ok (a : α)
  | flt (f : Flt)
  deriving DecidableEq, Repr

/-! Addresses. -/

/-- The offset of an address of the window half in that half (R71). -/
def winOff (va : Word) : Nat := va.toNat % 2 ^ 56

/-- Bits [63:57] all equal bit [56] (R70). -/
def canonical (va : Word) : Bool := va.toNat < 2 ^ 56 || 2 ^ 64 - 2 ^ 56 ≤ va.toNat

/-- The address lies in the paged half (R70). -/
def paged (va : Word) : Bool := va.toNat < 2 ^ 56

/-- AUX of classes 0x05 and 0x06 (R382): write, element of a stream or bulk command, width in bytes. -/
def accAux (write elem : Bool) (n : Nat) : Word := wd (b2n write + 2 * b2n elem + 2 ^ 8 * (if n < 256 then n else 0))

/-- Where a window leads, or the code of class 0x06 that refuses it. -/
inductive WRes where
  | ok (loc : Loc) (cls : Nat)
  | bad (code : Nat)
  deriving DecidableEq, Repr

/-- An offset in a window of `size` bytes, for an access of `n` bytes (R424 code 0x08). -/
def inWin (o n size : Nat) (loc : Loc) (cls : Nat) : WRes := if o + n ≤ size then .ok loc cls else .bad 8

/-- The cell, or none for an Innkeeper, that an actor accesses from. -/
def Actor.cell? : Actor → Option Nat
  | .agent c _ => some c
  | .ik _ => none

/-- The die that an actor stands on. -/
def Actor.die (s : State) : Actor → Nat
  | .agent c _ => dieOf s c
  | .ik d => d

/-- The window that an offset `u` in the window half names, for an access of `n` bytes (R71, R424). The Innkeeper
has no cell and no cluster: the windows of its own cell and cluster are no window for it (log 11). -/
def window (s : State) (who : Actor) (u n : Nat) : WRes :=
  let own := who.cell?
  if u < 2 ^ 21 then
    match own with
    | some c => inWin u n (2 ^ 21) (.home (cellHome c + u)) 4
    | none => .bad 6
  else if 2 ^ 24 ≤ u && u < 2 ^ 24 + 2 ^ 23 then
    match own with
    | some c => inWin (u - 2 ^ 24) n (2 ^ 23) (.home (clusterHome (clusterOf c) + (u - 2 ^ 24))) 4
    | none => .bad 6
  else if 2 ^ 25 ≤ u && u < 2 ^ 26 then inWin (u - 2 ^ 25) n (2 ^ 25) (.home (dieHome (who.die s) + (u - 2 ^ 25))) 4
  else if 2 ^ 26 ≤ u && u < 2 ^ 26 + 2 ^ 21 then
    match own with
    | some _ => inWin (u - 2 ^ 26) n (2 ^ 21) (.mcast (u - 2 ^ 26)) 4
    | none => .bad 6
  else if 2 ^ 32 ≤ u && u < 2 ^ 32 + 2 ^ 30 then
    let o := u - 2 ^ 32
    if o / 2 ^ 21 < cellCount s then inWin (o % 2 ^ 21) n (2 ^ 21) (.home (2 ^ 60 + o)) 0 else .bad 7
  else if 2 ^ 33 ≤ u && u < 2 ^ 33 + 2 ^ 30 then
    let o := u - 2 ^ 33
    if o / 2 ^ 23 < clusterCount s then inWin (o % 2 ^ 23) n (2 ^ 23) (.home (2 ^ 61 + o)) 1 else .bad 7
  else if 3 * 2 ^ 32 ≤ u && u < 3 * 2 ^ 32 + 2 ^ 27 then
    let o := u - 3 * 2 ^ 32
    inWin (o % 2 ^ 25) n (2 ^ 25) (.home (2 ^ 62 + o)) 2
  else if 2 ^ 34 ≤ u && u < 2 ^ 34 + 2 ^ 32 then
    let o := u - 2 ^ 34
    inWin (o % 2 ^ 24) n (2 ^ 24) (.reduce (o / 2 ^ 24) (o % 2 ^ 24)) 4
  else if 2 ^ 54 ≤ u && u < 2 ^ 54 + 2 ^ 42 then
    let o := u - 2 ^ 54
    if o / 2 ^ 30 ≤ s.flash.maxNode then inWin (o % 2 ^ 21) n (2 ^ 21) (.fabric (o / 2 ^ 30) (o % 2 ^ 30)) 3 else .bad 7
  else .bad 6

/-! The page table walk (R80 to R82, R422, R426). -/

/-- How a walk ends. The level and the entry are those of AUX and AUX2; `asleep` is a table in the bonded DRAM of a die in Retention
(R351, R424 code 0x09). -/
inductive WalkRes where
  | ok (t : Trans)
  | invalid (level : Nat) (e : Word)
  | malformed (level : Nat) (e : Word)
  | unassigned (level : Nat) (e : Word)
  | poison (a : Nat)
  | asleep
  deriving DecidableEq, Repr

/-- A reserved or must-be-zero field of any entry is set (R81). -/
def pteReserved (e : Word) : Bool := bits e 48 6 != 0 || bits e 8 5 != 0 || bits e 6 1 != 0

/-- The size of a leaf of this TYPE. -/
def leafSize (ty : Nat) : Nat := if ty = 0 then 2 ^ 16 else if ty = 1 then 2 ^ 21 else 2 ^ 26

/-- The translation that a leaf at entry address `ea` gives (R81, R82, R86). -/
def leafTrans (va level ea : Nat) (e : Word) : WalkRes :=
  let ty := bits e 4 2
  let size := leafSize ty
  let pa := bits e 16 32 * 2 ^ 16
  if bits e 13 3 != 0 || pa % size != 0 then .malformed level e
  else if !assigned (pa + va % size) then .unassigned level 0
  else .ok ⟨va - va % size, size, pa, bits e 54 10, bit e 3, bit e 2, bit e 1, if ty = 1 then ea - ea % 256 else ea⟩

/-- The walk from the table at `tbl` on this level; `parent` is the entry that named it. -/
def walkFrom (s : State) (va : Nat) (level : Nat) (tbl : Nat) (parent : Word) : WalkRes :=
  if !assigned tbl then .unassigned level parent
  else
    let ea := tbl + 8 * (va / 2 ^ (16 + 10 * level) % 1024)
    if retained s ea then .asleep
    else if poisoned s ea 8 then .poison (ea / 64 * 64)
    else
      let e := devWord s ea
      let ty := bits e 4 2
      if !bit e 0 then .invalid level e
      else if pteReserved e then .malformed level e
      else if ty = 3 then
        if bits e 54 10 != 0 then .malformed level e
        else match level with
          | 0 => .malformed level e
          | k + 1 => walkFrom s va k (bits e 13 35 * 2 ^ 13) e
      else if (level = 1 && ty = 2) || (level = 0 && ty != 2) then leafTrans va level ea e
      else .malformed level e

/-- The addresses of the entries that a walk from the table at `tbl` reads, down to the first that ends it (R426). -/
def entriesFrom (s : State) (va : Nat) (level : Nat) (tbl : Nat) : List Nat :=
  let ea := tbl + 8 * (va / 2 ^ (16 + 10 * level) % 1024)
  if !assigned tbl || retained s ea then []
  else
    let e := devWord s ea
    ea :: (if poisoned s ea 8 || !bit e 0 || pteReserved e || bits e 4 2 != 3 || bits e 54 10 != 0 then []
      else match level with
        | 0 => []
        | k + 1 => entriesFrom s va k (bits e 13 35 * 2 ^ 13))

/-- The walk of the module's page table (R80). -/
def walk (s : State) (va : Nat) : WalkRes :=
  let root := Tab.get 0 s.regs 0x1000
  walkFrom s va 3 (bits root 13 35 * 2 ^ 13) root

/-- The hidden errors that a walk meets in the lines that it reads (R429). -/
def walkMeets (s : State) (va : Nat) : State :=
  (entriesFrom s va 3 (bits (Tab.get 0 s.regs 0x1000) 13 35 * 2 ^ 13)).foldl (fun t a => expose t a 8) s

/-! TLBs (R83). -/

/-- The entry that covers an address. -/
def tlbFind (t : List Trans) (va : Nat) : Option Trans := t.find? (fun e => decide (e.base ≤ va) && decide (va < e.base + e.size))

/-- A TLB of `cap` entries with one more; a full one replaces the entry that a free value picks (log 3). -/
def tlbPut (t : List Trans) (cap k : Nat) (e : Trans) : List Trans :=
  if t.length < cap then t ++ [e] else t.set (Config.tlbVictim k % cap) e

/-- The TLB of an actor that an engine's accesses use; the Innkeeper has one of its own (log 11). -/
def tlbOf (s : State) (who : Actor) (eng : Engine) : List Trans :=
  match who with
  | .ik d => (s.die d).ik.tlb
  | .agent c _ => match eng with
    | .S => (s.cell c).stlb | .V => (s.cell c).vtlb | .M => (s.cell c).mtlb | .X => (s.cell c).xtlb

/-- A translation entered into the TLB of an actor and engine, and into its die's last-level TLB. -/
def fillTlb (s : State) (who : Actor) (eng : Engine) (e : Trans) : State :=
  let d := who.die s
  let k := s.ticks
  let ll := fun (x : Die) => if (tlbFind x.lltlb e.base).isSome then x else { x with lltlb := tlbPut x.lltlb 12288 k e }
  let s1 := s.setDie d (ll (s.die d))
  match who with
  | .ik i => let x := s1.die i; s1.setDie i { x with ik := { x.ik with tlb := tlbPut x.ik.tlb 64 k e } }
  | .agent c _ =>
    let x := s1.cell c
    s1.setCell c (match eng with
      | .S => { x with stlb := tlbPut x.stlb 64 k e }
      | .V => { x with vtlb := tlbPut x.vtlb 8 k e }
      | .M => { x with mtlb := tlbPut x.mtlb 8 k e }
      | .X => { x with xtlb := tlbPut x.xtlb 8 k e })

/-- The translation of a paged address: from the engine's TLB, else the die's last-level TLB, else a walk, whose
failure enters no TLB (R83, R426). -/
def translate (s : State) (who : Actor) (eng : Engine) (va : Nat) : State × WalkRes :=
  match tlbFind (tlbOf s who eng) va with
  | some t => (s, .ok t)
  | none =>
    match tlbFind (s.die (who.die s)).lltlb va with
    | some t => (fillTlb s who eng t, .ok t)
    | none => match walk s va with
      | .ok t => (fillTlb (walkMeets s va) who eng t, .ok t)
      | r => (walkMeets s va, r)

/-! Checks of a data access. -/

/-- The key window of the actor's tile admits the key (R88); the Innkeeper has none. -/
def keyAllowed (s : State) (who : Actor) (k : Nat) : Bool :=
  match who with
  | .ik _ => true
  | .agent c _ => match (s.cell c).tile with
    | none => true
    | some t =>
      let w := Tab.get 0 (s.die t.die).qkey t.queue
      decide (bits w 0 10 ≤ k) && decide (k ≤ bits w 16 10)

/-- AUX of class 0x07 (R423). -/
def protAux (t : Trans) (fetch write second : Bool) : Word :=
  wd (t.key + 2 ^ 10 * b2n t.r + 2 ^ 11 * b2n t.w + 2 ^ 12 * b2n t.x + 2 ^ 16 * b2n fetch + 2 ^ 17 * b2n write + 2 ^ 18 * b2n second)

/-- The protection check of a translated data access (R423). -/
def protect (s : State) (who : Actor) (t : Trans) (va : Word) (write : Bool) : Option Flt :=
  let mk := fun code => some { cls := 7, code := code, addr := va, aux := protAux t false write false : Flt }
  if !write && !t.r then mk 1
  else if write && !t.w then mk 2
  else if !keyAllowed s who t.key then mk 3
  else if (Tab.get none s.keySlots t.key).isNone then mk 4
  else none

/-- The fault of a failed walk for data (R422): AUX adds the level in [18:16]. -/
def walkFlt (va : Word) (aux : Word) (r : WalkRes) : Flt :=
  match r with
  | .ok _ => { cls := 5, code := 0, addr := va }
  | .invalid l e => { cls := 5, code := 1, addr := va, aux := aux ||| wd (l * 2 ^ 16), aux2 := e }
  | .malformed l e => { cls := 5, code := 2, addr := va, aux := aux ||| wd (l * 2 ^ 16), aux2 := e }
  | .unassigned l e => { cls := 5, code := 3, addr := va, aux := aux ||| wd (l * 2 ^ 16), aux2 := e }
  | .poison a => { cls := 0xB, code := 2, addr := wd a, aux := wd (homeKind a + 16), aux2 := va, dlv := 3, rst := false }
  | .asleep => { cls := 6, code := 9, addr := va, aux := aux }

/-- A checked access: its parts that perform or apply whole (R141: by 64-byte lines in the paged half), and the leaf
entry to mark dirty before a store (R86). -/
structure Chkd where
  accs : List Acc
  leaf : Option Nat
  deriving DecidableEq, Repr

/-- The 64-byte lines of a paged access of `n` bytes at `va`, physical address `pa`. -/
def lineAccs (va : Word) (pa n key : Nat) : List Acc :=
  (linesOf pa n).map (fun l =>
    let lo := max pa (64 * l)
    ⟨.home lo, min (pa + n) (64 * l + 64) - lo, some key, 4, va + wd (lo - pa)⟩)

/-- The first byte of the descriptor of a reduction (R339). -/
def descAt (s : State) (d : Nat) : Nat := bits (Tab.get 0 s.regs 0x1107) 0 48 + 64 * d

/-- The home byte of this module that an access through a window needs beyond the place itself (R351): by a fabric address of its own node the
byte of a configured cell (R71, R139, R424), and for a contribution its descriptor (R339). -/
def ownSlice (s : State) (l : Loc) : Option Nat :=
  match l with
  | .fabric n o => if n = s.flash.node.toNat && o / 2 ^ 21 < cellCount s then some (2 ^ 60 + o) else none
  | .reduce d _ => some (descAt s d)
  | _ => none

/-- The checks of the address alone (R382 codes 0x01 to 0x03): canonical, within its half, aligned to `al`. -/
def formCode (va : Word) (n al : Nat) : Option Nat :=
  if !canonical va then some 1
  else if (paged va && decide (2 ^ 56 < va.toNat + n)) || decide (2 ^ 64 < va.toNat + n) then some 2
  else if va.toNat % al != 0 then some 3
  else none

/-- The checks of one access of `n` bytes at `va`, in the order of R361: the address (R382, R424), its alignment to
`al`, translation (R422), Retention of the home, and for a write of the leaf whose D it sets (R351, R86), protection (R423). -/
def checkAccess (s : State) (who : Actor) (eng : Engine) (va : Word) (n al : Nat) (write elem : Bool) :
    State × Res Chkd :=
  let aux := accAux write elem n
  let bad := fun code => (s, Res.flt { cls := 6, code := code, addr := va, aux := aux })
  match formCode va n al with
  | some code => bad code
  | none =>
   if paged va then
    match translate s who eng va.toNat with
    | (s1, .ok t) =>
      let pa := t.pa + (va.toNat - t.base)
      if retained s pa || (write && retained s t.leaf) then (s1, .flt { cls := 6, code := 9, addr := va, aux := aux })
      else match protect s1 who t va write with
        | some f => (s1, .flt f)
        | none => (s1, .ok ⟨lineAccs va pa n t.key, if write then some t.leaf else none⟩)
    | (s1, r) => (s1, .flt (walkFlt va aux r))
   else
    match window s who (winOff va) n with
    | .bad code => bad code
    | .ok (.home a) cls => if retained s a then bad 9 else (s, .ok ⟨[⟨.home a, n, none, cls, va⟩], none⟩)
    | .ok loc cls => if (ownSlice s loc).any (retained s) then bad 9 else (s, .ok ⟨[⟨loc, n, none, cls, va⟩], none⟩)

/-- Set D in a leaf entry, by an atomic OR at the memory that holds it (R86). -/
def markDirty (s : State) (leaf : Option Nat) : State :=
  match leaf with
  | none => s
  | some a => devWrite s a [byteAt (devRead s a 1) 0 ||| 0x80]

/-! Fetch. -/

/-- The fault of a failed walk for a fetch (R380); `second` marks the second page of an instruction. -/
def fetchFlt (va : Word) (second : Bool) (r : WalkRes) : Flt :=
  let mk := fun code e =>
    let c := code + 0x80 * b2n second
    { cls := 4, code := c, addr := va, aux := wd c, aux2 := e : Flt }
  match r with
  | .ok _ => mk 0 0
  | .invalid _ _ => mk 1 0
  | .malformed _ e => mk 4 e
  | .unassigned _ _ => mk 5 0
  | .poison a => { cls := 0xB, code := 2, addr := wd a, aux := wd (homeKind a + 16 + 32), aux2 := va, dlv := 3, rst := false }
  | .asleep => { cls := 6, code := 9, addr := va, aux := accAux false false 4 }

/-- The text as the fetches of an actor see it: a cell's as it stood when its fetch cache was last emptied, since a later store does
not reach fetch (R150, log 12); an Innkeeper has no fetch cache. -/
def textView (s : State) (who : Actor) : State :=
  match who with
  | .agent c _ => { s with mem := (s.cell c).text, lineKey := (s.cell c).textKey }
  | .ik _ => s

/-- The fetch cache of a cell is emptied: later fetches see the text as memory holds it now (R150, log 12). -/
def Cell.emptyFetch (x : Cell) (s : State) : Cell := { x with fcache := [], text := s.mem, textKey := s.lineKey }

/-- A fetch cache of 64 KiB with one more word; a full one gives up the word that a free value picks (R15, log 12). -/
def fcachePut (t : Tab (BitVec 32)) (k n : Nat) (w : BitVec 32) : Tab (BitVec 32) :=
  if t.length < 16384 then Tab.set t n w else Tab.set (t.eraseIdx (Config.fetchVictim k % 16384)) n w

/-- The word at a text address, through the fetch cache of a cell (R16, R150, log 12), the scalar TLB and the checks
of R380 and R423. -/
def fetchWord (s : State) (who : Actor) (va : Word) (second : Bool) : State × Res (BitVec 32) :=
  let hit := match who with
    | .agent c _ => Tab.look (s.cell c).fcache (va.toNat / 4)
    | .ik _ => none
  match hit with
  | some w => (s, .ok w)
  | none =>
    let mk := fun code => (s, Res.flt { cls := 4, code := code + 0x80 * b2n second, addr := va, aux := wd (code + 0x80 * b2n second) })
    if !canonical va || !paged va then mk 3
    else match translate s who .S va.toNat with
      | (s1, .ok t) =>
        let pa := t.pa + (va.toNat - t.base)
        if !t.x then mk 2
        else if retained s pa then (s1, .flt { cls := 6, code := 9, addr := va, aux := accAux false false 4 })
        else if !keyAllowed s1 who t.key then
          (s1, .flt { cls := 7, code := 3, addr := va, aux := protAux t true false second })
        else if (Tab.get none s1.keySlots t.key).isNone then
          (s1, .flt { cls := 7, code := 4, addr := va, aux := protAux t true false second })
        else if poisoned s1 pa 4 then
          let a := poisonAt s1 pa 4
          (expose s1 pa 4, .flt { cls := 0xB, code := 2, addr := wd (a / 64 * 64), aux := wd (homeKind a + 32), aux2 := va, dlv := 3, rst := false })
        else
          let w := BitVec.ofNat 32 (leNat (readHome (textView s1 who) pa 4 (some t.key)))
          match who with
          | .ik _ => (expose s1 pa 4, .ok w)
          | .agent c _ =>
            let s2 := expose s1 pa 4
            let x := s2.cell c
            (s2.setCell c { x with fcache := fcachePut x.fcache s.ticks (va.toNat / 4) w }, .ok w)
      | (s1, r) => (s1, .flt (fetchFlt va second r))

end Sys2Proof.Machine
end

