-- ==== Sys2Proof/Machine/Net.lean ====
section
/-!
DEFINITION. Sending packets: reliable connections (R331 to R333), the choice of a port (R334), and the control
registers of the module that they read.
-/
namespace Sys2Proof.Machine

/-! Module registers with their reset values (R181, R337, R338, R345, R353, R356, R369, R453). -/

/-- The reset value of a module register. -/
def regReset (n : Nat) : Word :=
  if n = 0x1102 then wd (80000 * 2 ^ 32 + 64)
  else if n = 0x1103 then wd (64 * 2 ^ 32 + 256)
  else if n = 0x110C then wd (8 * 2 ^ 16 + 512)
  else if n = 0x110D then wd (16 * 2 ^ 40 + 200000)
  else if n = 0x1301 then 2400
  else if n = 0x1302 then wd (60 * 2 ^ 16)
  else if n = 0x1305 then 24
  else 0

/-- A module register as it is held. -/
def mreg (s : State) (n : Nat) : Word := Tab.get (regReset n) s.regs n
/-- Set a module register. -/
def setMreg (s : State) (n : Nat) (v : Word) : State := { s with regs := Tab.set s.regs n v }

/-- The reset value of a die register (R60, R352, R369). -/
def dregReset (n : Nat) : Word := if n = 0x200 then 16 else if n = 0x207 then 20 else if n = 0x210 then 1000 else 0
/-- A die register as it is held. -/
def dreg (s : State) (d n : Nat) : Word := Tab.get (dregReset n) (s.die d).regs n
/-- Set a die register. -/
def setDreg (s : State) (d n : Nat) (v : Word) : State :=
  let x := s.die d; s.setDie d { x with regs := Tab.set x.regs n v }

/-! Time units: one network cycle is two cell cycles, one microsecond 4,000 (R5). -/

/-- Cell cycles of network cycles. -/
def net (n : Nat) : Nat := 2 * n

/-! Connections. -/

/-- This module's node number (R345). -/
def selfNode (s : State) : Nat := s.flash.node.toNat
/-- CONNCTL.WIN (R345): 0 means 1,024. -/
def connWin (s : State) : Nat := let w := bits (mreg s 0x1103) 32 10; if w = 0 then 1024 else w
/-! The connection retry store (R332): 64 MiB of bonded DRAM at RETRYBASE, whose layout is the model's (log 13). -/

/-- The bytes of a packet: the 48-byte header of R326, with the restarts of its connection in its reserved bits (R448, log 13), and its data. -/
def packetBytes (p : Packet) : List Byte :=
  wordBytes (wd (p.ty * 2 ^ 60 + p.cls % 4 * 2 ^ 58 + p.dst % 2 ^ 12 * 2 ^ 46 + p.src % 2 ^ 12 * 2 ^ 34 + p.data.length % 2 ^ 13 * 2 ^ 21 + p.epoch % 2 ^ 21))
    ++ wordBytes p.stamp ++ wordBytes p.oseq ++ wordBytes (wd (p.cseq % 2 ^ 32 * 2 ^ 32 + p.cack % 2 ^ 32)) ++ wordBytes p.addr ++ wordBytes p.aux ++ p.data

/-- The packet that a run of bytes holds. -/
def packetOf (l : List Byte) : Packet :=
  let h := wordAt l 0
  ⟨bits h 60 4, bits h 58 2, bits h 46 12, bits h 34 12, wordAt l 8, wordAt l 0x10, bits (wordAt l 0x18) 32 32, bits (wordAt l 0x18) 0 32, wordAt l 0x20,
    wordAt l 0x28, (l.drop 48).take (bits h 21 13), bits h 0 21⟩

/-- The 64-byte lines that the copy of a packet takes. -/
def copyLines (p : Packet) : Nat := (48 + p.data.length + 63) / 64

/-- The runs of lines that copies take now. -/
def copies (s : State) : List (Nat × Nat) := s.conns.flatMap (fun c => c.2.retry.map (fun r => (r.place, copyLines r.pkt)))

/-- The lowest run of `n` free lines that starts the store or follows a copy. -/
def copyPlace (s : State) (n : Nat) : Option Nat :=
  let l := copies s
  ((0 :: l.map (fun p => p.1 + p.2)).filter (fun a => decide (a + n ≤ 2 ^ 20) && l.all (fun p => decide (a + n ≤ p.1) || decide (p.1 + p.2 ≤ a)))).foldl
    (fun b a => match b with | none => some a | some c => some (min a c)) none

/-- The address of a copy. -/
def copyAt (s : State) (place : Nat) : Nat := bits (mreg s 0x1105) 0 48 + 64 * place

/-- The connection and the retry store have room for `k` more packets of up to `b` bytes of data (R331, R332). -/
def roomFor (s : State) (n k b : Nat) : Bool :=
  decide ((s.conn n).retry.length + k ≤ connWin s) && (copyPlace s (k * ((48 + b + 63) / 64))).isSome

/-- The connection and the retry store have room for one more packet (R331, R332). -/
def canSend (s : State) (n : Nat) : Bool := roomFor s n 1 4096

/-- The flits of a packet with so much data (R326). -/
def flitCount (len : Nat) : Nat := 1 + (len - 176 + 223) / 224

/-- Flits still queued on a port: those of its packets but the ones of the first that have been sent. -/
def queued (s : State) (p : Nat) : Nat := ((s.port p).txq.map (fun k => flitCount k.data.length)).foldl (· + ·) 0 - (s.port p).part

/-- A port that traffic may leave by: enabled, neither broken nor down (R334). -/
def usable (s : State) (p : Nat) : Bool := bit (s.port p).ctl 63 && (s.port p).state < 2

/-- The port a packet for node `n` leaves by: of the mask at ROUTEBASE + 4n, the usable port with the fewest flits
queued, ties to the lower number (R334). -/
def route (s : State) (n : Nat) : Option Nat :=
  let mask := leNat (devRead s (bits (mreg s 0x1106) 0 48 + 4 * n) 4)
  ((List.range 18).filter (fun p => mask / 2 ^ p % 2 = 1 && usable s p)).foldl (fun b p =>
    match b with
    | none => some p
    | some q => if queued s p < queued s q then some p else some q) none

/-- The bytes that spilled connection state takes: their layout is not given (R333, log 13). -/
def spillBytes (k : Nat) : List Byte := (List.range 128).map (fun i => Config.freeByte (k + i))

/-- The place of a peer's spilled state: SPILLBASE + 128 × node (R333). -/
def spillAt (s : State) (n : Nat) : Nat := bits (mreg s 0x1104) 0 48 + 128 * n

/-- A peer's state is not in port SRAM; the line that holds it is read, and poison there is noted (R333, R447). -/
def fetchConn (s : State) (n : Nat) : State :=
  if (Tab.look s.conns n).isSome then
    let t := expose s (spillAt s n) 128
    if poisoned s (spillAt s n) 128 then t.setConn n { t.conn n with bad := true } else t
  else s

/-- Bring a peer's state into port SRAM: of 1,024 resident connections the least recently used is written back (R333). The list holds
the most recently used first. -/
def touchConn (s : State) (n : Nat) : State :=
  let rest := s.resident.filter (· != n)
  if s.resident.contains n then { s with resident := n :: rest }
  else
    let s1 := fetchConn s n
    if rest.length < 1024 then { s1 with resident := n :: rest }
    else { devWrite s1 (spillAt s (rest.getLastD 0)) (spillBytes s.ticks) with resident := n :: rest.dropLast, ticks := s.ticks + 128 }

/-- How far back from the next expected CSEQ a packet lies that was taken and has not applied. -/
def backlog (x : Conn) (q : Nat) : Nat := let d := (x.recv + 2 ^ 32 - q) % 2 ^ 32; if d < 2 ^ 31 then d else 0

/-- The packets that have been taken and await their effect: ordered ones, those that await an event, those whose elements a
scatter-accumulate engine holds; of each its node, CSEQ and CLASS. -/
def notApplied (s : State) : List (Nat × Nat × Nat) :=
  (s.ordered.map (·.2) ++ s.hostq).map (fun p => (p.src, p.cseq, p.cls)) ++ s.clusters.flatMap (fun c => c.2.blocks.filterMap (·.src))

/-- The CACK for a peer (R326, R331): every packet of it below this CSEQ has applied. -/
def ackOf (s : State) (n : Nat) : Nat :=
  let x := s.conn n
  let l := (notApplied s).filter (fun p => p.1 = n)
  (x.recv + 2 ^ 32 - (l.map (fun p => backlog x p.2.1)).foldl max 0) % 2 ^ 32

/-- A packet of a peer has applied: its acknowledgement is due. -/
def owe (s : State) (n : Nat) : State := let x := s.conn n; s.setConn n { x with ackDue := x.ackDue.orElse (fun _ => some s.now) }

/-- Put a sequenced packet on its way: turned round inside the module for its own node, else queued on a port; with
no usable port it stays in the retry store alone (R334). -/
def launch (s : State) (p : Packet) : State :=
  if p.dst = selfNode s then { s with selfq := s.selfq ++ [p] }
  else match route s p.dst with
    | none => s
    | some q => let x := s.port q; s.setPort q { x with txq := x.txq ++ [p] }

/-- Send a packet on the connection to its destination (R331): it takes the next CSEQ, and a copy stays in the retry store until it is
acknowledged (R332). `store` and `job` name the posted write or command it completes. -/
def sendNow (s : State) (p : Packet) (store job : Option (Nat × Nat)) : State :=
  let s1 := touchConn s p.dst
  let x := s1.conn p.dst
  let q := { p with src := selfNode s, cseq := x.send, cack := ackOf s1 p.dst, epoch := x.epoch }
  let at_ := (copyPlace s1 (copyLines q)).getD 0
  let s2 := devWrite s1 (copyAt s1 at_) (packetBytes q)
  launch (s2.setConn p.dst { x with send := (x.send + 1) % 2 ^ 32, ackDue := none, retry := x.retry ++ [⟨q, s.now, 0, store, job, at_⟩] }) q

/-- The same for a packet of the device itself: it waits in the send queue while the window is full. -/
def sendDev (s : State) (p : Packet) : State :=
  if canSend s p.dst && !s.sendq.any (fun q => q.dst = p.dst) then sendNow s p none none
  else { s with sendq := s.sendq ++ [p] }

/-- An ordinary-class packet with no data yet. -/
def plainPacket (ty dst : Nat) (addr aux : Word) (data : List Byte) : Packet :=
  ⟨ty, 0, dst, 0, 0, 0, 0, 0, addr, aux, data, 0⟩

/-- Send waiting packets of the device whose connection has room again. -/
def flushSends (s : State) : State :=
  s.sendq.foldl (fun t p => if canSend t p.dst then
    sendNow { t with sendq := t.sendq.erase p } p none none else t) s

end Sys2Proof.Machine
end

