-- ==== Sys2Proof/Machine/Ops.lean ====
section
/-!
DEFINITION. Taking an exception: the report of a fault, the halt of a gang (R358 to R364), the record and the
notification (R365 to R372), the Innkeeper's entry and its return (R369 to R371, R235); and how an agent issues
and passes a word: tokens, slip, the loop sequencer, signals (R38 to R44, R215 to R219).
-/
namespace Sys2Proof.Machine

/-! Records, alarms and notifications. -/

/-- The 64 bytes of a record with this SEQ (R366). -/
def recordBytes (r : Report) (seq : Nat) : List Byte :=
  wordBytes (wd (r.cls * 2 ^ 56 + r.code * 2 ^ 48 + r.agent % 2 ^ 11 * 2 ^ 37 + r.dlv * 2 ^ 35 + b2n r.rst * 2 ^ 34 + seq))
    ++ wordBytes r.pc ++ wordBytes r.addr ++ wordBytes r.aux ++ wordBytes (wd r.dpos) ++ wordBytes r.time
    ++ wordBytes r.aux2 ++ wordBytes 0

/-- One alarm to each node named in an enabled HOSTi (R372): an ordinary TYPE 0 write of 64 bytes at ALMDST. -/
def sendAlarm (s : State) (alm d : Nat) (w : Word) (rest : List Byte) : State :=
  let dst := mreg s 0x1306
  let s1 := { s with alarms := s.alarms + 1 }
  if !bit dst 63 then s
  else
    let data := wordBytes (wd (alm * 2 ^ 56 + d * 2 ^ 48 + s.alarms % 2 ^ 32)) ++ wordBytes w ++ (rest ++ List.replicate 48 0).take 48
    ([0, 1, 2, 3].map (fun i => mreg s (0x1108 + i))).foldl (fun t h =>
      if bit h 63 then sendDev t (plainPacket 0 (bits h 0 12) (wd (bits dst 0 30)) 0 data) else t) s1

/-- An FNQ entry (R368). -/
def fnqEntry (reason kind nrec first seq : Nat) : Word :=
  wd (2 ^ 63 + reason * 2 ^ 61 + kind * 2 ^ 56 + min nrec 255 * 2 ^ 48 + first * 2 ^ 32 + seq)

/-- Put an entry into a die's FNQ (R368), with the escalations of R372: a full queue drops it (ALM 2), a health record
or die alarm also goes to the hosts (ALM 4), and an Innkeeper halted under ALM 1 leaves it to the hosts alone, as ALM 4 or else as ALM 1 with
IKCAUSE (log 14). `head` is the first 48 bytes of the first record. -/
def notify (s : State) (d : Nat) (e : Word) (head : List Byte) : State :=
  let health := decide (2 ≤ bits e 61 2)
  if (s.die d).ik.nest then (if health then sendAlarm s 4 d e head else sendAlarm s 1 d (dreg s d 0x20B) head)
  else
    let s1 := if 64 ≤ (s.die d).fnq.length then
        sendAlarm (setMreg s 0x1307 (mreg s 0x1307 ||| wd (2 ^ 63))) 2 d e head
      else s.setDie d { s.die d with fnq := (s.die d).fnq ++ [(e, s.now, head)] }
    if health then sendAlarm s1 4 d e head else s1

/-- The physical address of a cell's fault area (R365). -/
def faultArea (s : State) (c : Nat) : Nat :=
  let d := dieOf s c
  bits (dreg s d 0x208) 19 29 * 2 ^ 19 + 4096 * (c - 4 * firstCluster s d)

/-- Write a record into a cell's fault area (R365 to R367): a full ring drops it and sets OVF; an area that cannot be
written sets HLTSTAT.WRFAIL and raises a die alarm (R375 code 0x05). The second part is the record's SEQ, where one
was written. -/
def writeRecord (s : State) (c : Nat) (r : Report) : State × Option Nat :=
  let x := s.cell c
  let wr := bits x.faultrec 0 24
  let rdi := bits x.faultrec 32 24
  if (wr + 2 ^ 24 - rdi) % 2 ^ 24 = 64 then
    (s.setCell c { x with faultrec := x.faultrec ||| wd (2 ^ 56) }, none)
  else
    let a := faultArea s c + 64 * (wr % 64)
    if !assigned a || retained s a then
      (notify (setMreg s 0x1307 (mreg s 0x1307 ||| wd (2 ^ 62))) (dieOf s c) (fnqEntry 3 0 0 c 0) [], none)
    else
      let s1 := devWrite s a (recordBytes r wr)
      (s1.setCell c { s1.cell c with faultrec := setBits x.faultrec 0 24 (wr + 1) }, some wr)

/-- A record that halts no gang (R396, R431, R452): into the fault area of a die's first logical cell, FNQ REASON 3. -/
def dieRecord (s : State) (d : Nat) (e : Engine) (f : Flt) : State :=
  let c := 4 * firstCluster s d
  let r : Report := ⟨f.cls, f.code, agentNo c e, 3, true, 0, f.addr, f.aux, 0, s.podtime, f.aux2, s.now⟩
  match writeRecord s c r with
  | (s1, q) => notify s1 d (fnqEntry 3 0 1 c (q.getD 0)) ((recordBytes r (q.getD 0)).take 48)

/-- A node record of class 0x0C at the die of a port, or at die 0 (R452). -/
def nodeRecord (s : State) (d code : Nat) (addr aux aux2 : Word) : State :=
  dieRecord s d .X { cls := 0xC, code := code, addr := addr, aux := aux, aux2 := aux2 }

/-! The gang of a cell and its halt. -/

/-- The gang resident on a cell: running or halting (R46). -/
def gangOf (s : State) (c : Nat) : Option Gang := s.gangs.find? (fun g => g.cells.contains c && g.run != .halted)

/-- Replace the resident gang of a first cell. -/
def setGang (s : State) (g : Gang) : State :=
  { s with gangs := s.gangs.map (fun h => if h.first = g.first && h.run != .halted then g else h) }

/-- The agents of a cell may issue: its gang runs and it has a tile (R65, R362), whose first word waits while the cluster
leaves the Gated state (R350). -/
def active (s : State) (c : Nat) : Bool :=
  (s.cell c).tile.isSome && decide ((s.cell c).lastPass ≤ s.now) && (match gangOf s c with | some g => g.run = .running | none => false)

/-- A tile of a running gang holds the cell, whether or not its cluster is in Run yet (R350). -/
def tileRuns (s : State) (c : Nat) : Bool := (s.cell c).tile.isSome && (match gangOf s c with | some g => g.run = .running | none => false)

/-- The word of the text that an agent has read at word address `n`: from its replay buffer, else from the fetch cache. -/
def textWord (x : Cell) (e : Engine) (n : Nat) : BitVec 32 := (Tab.look (x.agent e).replay n).getD (Tab.get 0 x.fcache n)

/-- AUX of class 0x01 (R377): the first word in [31:0], its extension in [63:32] where E is 1. -/
def auxOf (w : BitVec 32 × BitVec 32) : Word := ((if eBit w.1 then w.2 else 0) ++ w.1).setWidth 64

/-- AUX of class 0x01 for the word at `pc` that an agent is at. -/
def wordAux (x : Cell) (e : Engine) (pc : Word) : Word := auxOf (textWord x e (pc.toNat / 4), textWord x e (pc.toNat / 4 + 1))

/-- A fault of a word that its agent has passed: AUX of class 0x01 is the word's own two words (R377). -/
def ofWord (i : Instr) (f : Flt) : Flt := if f.cls = 1 then { f with aux := auxOf ((encode i).getD (0, 0)) } else f

/-- The report is of a word of its agent; a health record and one of R431 code 0x03 are of no word (R428, log 56). -/
def ownReport (r : Report) : Bool := r.cls != 0xD && !(r.cls = 0xB && r.code = 3)

/-- TAKING AN EXCEPTION in a cell (R362): the report joins its gang's halt, one per agent for its own word (R363, R428), and the gang
halts. The records, the notification and the context are written when the gang is quiescent (CONTEXT_SAVE). -/
def raise (s : State) (c : Nat) (e : Engine) (f : Flt) (pc : Word) (dpos : Nat) : State :=
  match gangOf s c with
  | none => s
  | some g =>
    let aux := if f.cls = 1 && f.aux = 0 then wordAux (s.cell c) e pc else f.aux
    let r : Report := ⟨f.cls, f.code, agentNo c e, f.dlv, f.rst, pc, f.addr, aux, dpos, s.podtime, f.aux2, s.now⟩
    if g.reports.any (fun q => q.agent = agentNo c e && (ownReport q || !ownReport r)) then s
    else setGang s { g with run := .halting, reports := g.reports ++ [r], norst := g.norst || !f.rst }

/-- An agent reports a fault of the word it stands at. -/
def fault (s : State) (c : Nat) (e : Engine) (f : Flt) : State :=
  let a := (s.cell c).agent e
  raise s c e f a.pc a.dpos

/-! The Innkeeper's exception entry (R369 to R372) and its return. -/

/-- IKCAUSE.ACT of a die (R370). -/
def ikActive (s : State) (d : Nat) : Bool := bit (dreg s d 0x20B) 63

/-- TAKING AN EXCEPTION on the Innkeeper (R371): IKEPC := `pc`, ACT := 1, CLASS, CODE and IKADDR set, PC := IKVEC; no load of
the word it leaves is awaited any more. -/
def ikEnter (s : State) (d cls code : Nat) (addr pc : Word) : State :=
  let s1 := setDreg (setDreg (setDreg s d 0x20A pc) d 0x20B (wd (2 ^ 63 + code * 2 ^ 8 + cls))) d 0x20C addr
  let x := s1.die d
  s1.setDie d { x with ik := { x.ik with pc := dreg s d 0x209, sop := none } }

/-- A fault of the Innkeeper's own word (R371); while ACT is 1 it halts for good under ALM 1 (R372). -/
def ikFault (s : State) (d : Nat) (f : Flt) : State :=
  let x := s.die d
  if ikActive s d then
    let s1 := s.setDie d { x with ik := { x.ik with running := false, nest := true } }
    let s2 := setMreg s1 0x1307 (setBits (mreg s 0x1307) (44 + d) 1 1)
    sendAlarm s2 1 d (dreg s d 0x20B) (wordBytes (dreg s d 0x20A) ++ wordBytes (dreg s d 0x20C))
  else ikEnter s d f.cls f.code f.addr x.ik.pc

/-- RETURNING FROM AN EXCEPTION on the Innkeeper (R371, R235): PC := IKEPC, ACT := 0. -/
def ikReturn (s : State) (d : Nat) : State :=
  let s1 := setDreg s d 0x20B (dreg s d 0x20B &&& ~~~ (wd (2 ^ 63)))
  let x := s1.die d
  s1.setDie d { x with ik := { x.ik with pc := dreg s d 0x20A } }

/-- A fault of whoever moves: a cell's agent halts its gang, the Innkeeper takes its entry. -/
def faultNow (s : State) (f : Flt) : State :=
  match s.cur with
  | .agent c e => fault s c e f
  | .ik d => ikFault s d f

/-! Neighbours and tokens (R18, R42, R43). -/

/-- The left neighbour of an engine. -/
def leftOf : Engine → Engine
  | .S => .X | .V => .S | .M => .V | .X => .M
/-- The right neighbour of an engine. -/
def rightOf : Engine → Engine
  | .S => .V | .V => .M | .M => .X | .X => .S

/-- The number of the FIFO from one engine to a neighbour. -/
def fifo (a b : Engine) : Nat := 4 * engCode a + engCode b

/-- The put cycles of the tokens in a FIFO, oldest first. -/
def Cell.tok (x : Cell) (a b : Engine) : List Nat := Tab.get [] x.tokens (fifo a b)

/-- A token of the FIFO can be taken: it was put in an earlier cycle (R148). -/
def hasTok (x : Cell) (now : Nat) (a b : Engine) : Bool :=
  match x.tok a b with
  | [] => false
  | t :: _ => t < now

/-- Take the oldest token. -/
def takeTok (x : Cell) (a b : Engine) : Cell := { x with tokens := Tab.set x.tokens (fifo a b) (x.tok a b).tail }
/-- Put a token. -/
def putTok (x : Cell) (now : Nat) (a b : Engine) : Cell :=
  { x with tokens := Tab.set x.tokens (fifo a b) (x.tok a b ++ [now]) }

/-- `wl`, `wr`, `sl`, `sr` of the token bits [28:25] (R42). -/
def wl (t : BitVec 4) : Bool := t.getLsbD 3
/-- Wait on the right neighbour. -/
def wr (t : BitVec 4) : Bool := t.getLsbD 2

/-! Completion points (R44) and signals. -/

/-- The QSYNC or FENCE of a cell still holds later accesses back (R146, R153); of the stores that a QSYNC found, which it alone waits to see leave, only
those on the own-cell-store path must apply. -/
def held (x : Cell) : Bool :=
  match x.hold with
  | none => false
  | some h => x.loads.any (fun l => h.loads.contains l.id)
      || x.stores.any (fun q => (h.leave.contains q.id && !q.left) || (h.apply.contains q.id && (h.leave.isEmpty || q.path = 0 || q.awaits)))

/-- Every word the agent has passed is complete (R44, R148): S has no load out, no word in progress, no SYSWR
unacknowledged and no QSYNC or FENCE in force; V has nothing in flight; M has no step at the array
and no replay stopped; X no command. -/
def quiet (s : State) (c : Nat) (e : Engine) : Bool :=
  let x := s.cell c
  match e with
  | .S => !(x.loads ++ x.returning).any (fun l => l.eng = .S) && x.sop.isNone && !held x
      && !s.writes.any (fun w => w.by_ = .agent c .S)
  | .V => x.pend.isEmpty
  | .M => !(s.cluster (clusterOf c)).steps.any (fun m => m.cell = c) && x.saved.isNone
  | .X => x.jobs.isEmpty

/-- Put the signals that an agent still owes and that have room (R43, R148). -/
def flushSig (s : State) (c : Nat) (e : Engine) : State :=
  let x := s.cell c
  let a := x.agent e
  if a.sig = 0 || !quiet s c e then s
  else
    let l := a.sig.getLsbD 1 && (x.tok e (leftOf e)).length < 16
    let r := a.sig.getLsbD 0 && (x.tok e (rightOf e)).length < 16
    let x1 := if l then putTok x s.now e (leftOf e) else x
    let x2 := if r then putTok x1 s.now e (rightOf e) else x1
    s.setCell c (x2.setAgent e { a with sig := a.sig &&& ~~~ (BitVec.ofNat 2 (2 * b2n l + b2n r)) })

/-! The loop sequencer (R215 to R219). -/

/-- The PC and the levels after an agent stands at `pc`: at the end of a level's body the level goes round or exits,
and its offsets step (R216, R219). Levels are innermost first. -/
def backEdge (pc : Word) (ls : List Level) : Word × List Level :=
  match ls with
  | [] => (pc, [])
  | l :: r =>
    if pc = l.start + wd (4 * l.len) then
      if l.iter + 1 < l.trip + l.stages - 1 then
        (l.start, { l with iter := l.iter + 1, slots := l.slots.map (fun q => { q with off := q.off + q.stride.signExtend 64 }) } :: r)
      else backEdge pc r
    else (pc, l :: r)

/-- The agent having passed `n` words to `np` (R40): DPOS rises, the LSTG is spent, loops turn. -/
def passTo (a : Agent) (n : Nat) (np : Word) : Agent :=
  let e := backEdge np a.levels
  { a with pc := e.1, dpos := a.dpos + n, wait := .none, lstg := none
           skipTo := if a.skipTo = some np then none else a.skipTo
           levels := e.2, replay := if e.2.isEmpty then [] else a.replay
           taken := a.taken.filter (· != a.dpos) }

/-- The stage conditions of the innermost level let the word that the agent stands at issue (R216). -/
def stageOk (a : Agent) : Bool :=
  match a.levels with
  | [] => true
  | l :: _ =>
    let g := a.lstg.getD (0, false, false)
    decide (g.1 ≤ l.iter) && decide (l.iter - g.1 < l.trip)
      && (!g.2.1 || l.iter == g.1) && (!g.2.2 || l.iter - g.1 + 1 == l.trip)

/-- LO of a g register (R200, R219): the offsets of every active level that aim at it. -/
def loG (a : Agent) (r : Nat) : Word :=
  (a.levels.map (fun l => (l.slots.filter (fun q => q.kind = 1 && q.target = r && r != 0)).foldl (fun t q => t + q.off) 0)).foldl (· + ·) 0

/-- LO of a stream's BASE (R219). -/
def loS (a : Agent) (n : Nat) : Word :=
  (a.levels.map (fun l => (l.slots.filter (fun q => q.kind = 2 && q.target % 16 = n)).foldl (fun t q => t + q.off) 0)).foldl (· + ·) 0

/-! Issue. -/

/-- The smallest DPOS of a cell's agents (R40). -/
def minDpos (x : Cell) : Nat :=
  min (min (x.agent .S).dpos (x.agent .V).dpos) (min (x.agent .M).dpos (x.agent .X).dpos)

/-- Passing `n` words keeps the slip bound (R40). -/
def slipOk (x : Cell) (e : Engine) (n : Nat) : Bool := (x.agent e).dpos + n ≤ minDpos x + bits x.slipwin 0 11

/-- The token conditions hold; tokens that a returned word took are not taken again (R42, R68). -/
def tokOk (x : Cell) (now : Nat) (e : Engine) (t : BitVec 4) : Bool :=
  let a := x.agent e
  a.taken.contains a.dpos || ((!wl t || hasTok x now (leftOf e) e) && (!wr t || hasTok x now (rightOf e) e))

/-- What holds an agent back from a word of `n` words with token bits `t`, if anything does (R40, R42, R43). -/
def blocked (s : State) (c : Nat) (e : Engine) (t : BitVec 4) (n : Nat) : Option Wait :=
  let x := s.cell c
  let a := x.agent e
  if !active s c || a.halted then some .other
  else if a.sig.getLsbD 1 then some .leftSignal
  else if a.sig.getLsbD 0 then some .rightSignal
  else if !slipOk x e n then some .slip
  else if tokOk x s.now e t then none
  else if wl t && !hasTok x s.now (leftOf e) e then some .leftToken else some .rightToken

/-- The agent waits. -/
def waits (s : State) (c : Nat) (e : Engine) (w : Wait) : State :=
  let x := s.cell c
  s.setCell c (x.setAgent e { x.agent e with wait := w })

/-- The tokens of a word's wait bits leave their FIFOs (R42, R43). -/
def takeToks (x : Cell) (e : Engine) (t : BitVec 4) : Cell :=
  let a := x.agent e
  if a.taken.contains a.dpos then x
  else
    let x1 := if wl t then takeTok x (leftOf e) e else x
    if wr t then takeTok x1 (rightOf e) e else x1

/-- The agent passes a word of `n` words and goes on at `np`; its signals are owed until its words are complete. -/
def retireAt (s : State) (c : Nat) (e : Engine) (t : BitVec 4) (n : Nat) (np : Word) : State :=
  let x := takeToks (s.cell c) e t
  let a := passTo (x.agent e) n np
  flushSig (s.setCell c { x.setAgent e { a with sig := t.setWidth 2 } with lastPass := s.now }) c e

/-- The agent passes a word and goes on at the next one. -/
def retire (s : State) (c : Nat) (e : Engine) (t : BitVec 4) (n : Nat) : State :=
  retireAt s c e t n (((s.cell c).agent e).pc + wd (4 * n))

/-- An agent passes words that are not for it: no tokens, no signals (R38). -/
def skipWords (s : State) (c : Nat) (e : Engine) (n : Nat) : State :=
  let x := s.cell c
  let a := x.agent e
  s.setCell c { x.setAgent e (passTo a n (a.pc + wd (4 * n))) with lastPass := s.now }

/-! Reads and writes of g registers by whoever moves. -/

/-- g register `r` of the mover. -/
def gGet (s : State) (r : BitVec 5) : Word :=
  match s.cur with
  | .agent c _ => (s.cell c).greg r.toNat
  | .ik d => (s.die d).ik.greg r.toNat

/-- Write g register `r` of the mover. -/
def gSet (s : State) (r : BitVec 5) (v : Word) : State :=
  match s.cur with
  | .agent c _ => s.setCell c ((s.cell c).setG r.toNat v)
  | .ik d => let x := s.die d; s.setDie d { x with ik := x.ik.setG r.toNat v }

/-- A g register that awaits a load or the landing of a V word (R167, R238). -/
def gBusy (x : Cell) (r : Nat) : Bool :=
  r != 0 && ((x.loads ++ x.returning).any (fun l => match l.dest with | .reg q _ _ => q = r | _ => false)
    || x.pend.any (fun p => p.gd = some r))

/-! g registers in the order of the text (R167, R323, log 25). -/

/-- An earlier value of g register `r` that an agent at position `p` reads: S, which is further on, has written the register since. -/
def isPast (x : Cell) (p r : Nat) (q : Nat × Nat × Word) : Bool := decide (p ≤ q.1) && decide (q.1 < (x.agent .S).dpos) && q.2.1 == r

/-- S has written g register `r` in a word after position `p`. -/
def wroteSince (x : Cell) (p r : Nat) : Bool := x.gpast.any (isPast x p r)

/-- g register `r` as the words before an agent's position left it. -/
def Cell.gAt (x : Cell) (e : Engine) (r : Nat) : Word :=
  if r = 0 then 0 else match x.gpast.find? (isPast x (x.agent e).dpos r) with
  | some q => q.2.2
  | none => x.greg r

/-- k register `r` as the words before an agent's position left it; its earlier values stand under the number 32 + `r`. -/
def Cell.kAt (x : Cell) (e : Engine) (r : Nat) : BitVec 32 :=
  match x.gpast.find? (isPast x (x.agent e).dpos (32 + r)) with
  | some q => q.2.2.setWidth 32
  | none => x.kreg r

/-- A word at position `p` writes g register `r`: under the later write that S has made, where there is one. -/
def Cell.landG (x : Cell) (p r : Nat) (v : Word) : Cell :=
  match x.gpast.find? (isPast x p r) with
  | some q => { x with gpast := x.gpast.map (fun y => if y.1 = q.1 && y.2.1 = r then (y.1, r, v) else y) }
  | none => x.setG r v

/-- The g registers that a word of S writes, and k registers counted from 32 (R190). -/
def gWrites (w : BitVec 32) : List Nat :=
  let o := (fld w 18 7).toNat
  if wordTag w != 0 then []
  else if o = 0x61 then [23]
  else if o = 0x6C then [18, 19, 20, 21, 22, 23, 24, 25, 26, 27, 28, 29, 30, 31]
  else if o < 0x37 || o = 0x4D || o = 0x58 || o = 0x5D then [(fld w 13 5).toNat]
  else if o = 0x48 || o = 0x49 || o = 0x4C || o = 0x5F then [32 + (fld w 13 4).toNat]
  else []

/-- The least position of a cell that some agent may still have to read from: its V, M and X agents, its V words in flight, its M steps. -/
def backTo (s : State) (c : Nat) : Nat :=
  let x := s.cell c
  ((x.pend.map (·.dpos)) ++ ((s.cluster (clusterOf c)).steps.filter (·.cell = c)).map (·.dpos)).foldl min
    (min (x.agent .V).dpos (min (x.agent .M).dpos (x.agent .X).dpos))

/-- S comes to a word: the values of the registers that it writes are kept for the agents behind it. -/
def keepG (s : State) (c : Nat) (e : Engine) (w : BitVec 32) : State :=
  let x := s.cell c
  let p := (x.agent .S).dpos
  match if e = .S then gWrites w else [] with
  | [] => s
  | l => s.setCell c { x with gpast := x.gpast.filter (fun q => decide (backTo s c ≤ q.1) && q.1 != p) ++ l.map (fun r => (p, r, if r < 32 then x.greg r else (x.kreg (r - 32)).setWidth 64)) }

/-- A mask register that awaits a landing (R238). -/
def mBusy (x : Cell) (r : Nat) : Bool := x.pend.any (fun p => p.md = some r)

/-! The issue of scalar words. -/

/-- What a scalar word does once it may issue: it is done and control goes on at the next word; done and control goes to
`pc`; it waits; or it faults with no effect. The state of a wait or a fault holds what translation has cached. -/
inductive Act where
  | done (s : State)
  | jump (s : State) (pc : Word)
  | wait (s : State) (w : Wait)
  | flt (s : State) (f : Flt)
  deriving DecidableEq, Repr

/-- The Innkeeper goes on at `pc`. -/
def ikGo (s : State) (d : Nat) (pc : Word) : State :=
  let x := s.die d; s.setDie d { x with ik := { x.ik with pc := pc } }

/-- The Innkeeper's word is not an instruction on it (R237). -/
def ikBad (s : State) (d code : Nat) : State := ikFault s d { cls := 1, code := code }

/-- No register of the list awaits a load or a landing (R167, R199). -/
def regsFree (x : Cell) (rs : List (BitVec 5)) : Bool := !rs.any (fun r => gBusy x r.toNat)

/-- The S agent of a cell finishes a word of `n` words. -/
def sFinish (c : Nat) (t : BitVec 4) (n : Nat) (r : Act) : State :=
  match r with
  | .done s1 => retire s1 c .S t n
  | .jump s1 pc => retireAt s1 c .S t n pc
  | .wait s1 w => waits s1 c .S w
  | .flt s1 f => fault s1 c .S f

/-- The Innkeeper finishes a word of `n` words; a wait leaves it at the word. -/
def ikFinish (d n : Nat) (r : Act) : State :=
  match r with
  | .done s1 => ikGo s1 d ((s1.die d).ik.pc + wd (4 * n))
  | .jump s1 pc => ikGo s1 d pc
  | .wait s1 _ => s1
  | .flt s1 f => ikFault s1 d f

/-- A scalar word that cells and the Innkeeper execute: `rs` are the g registers it names. On the Innkeeper the token
bits are ignored (R237). -/
def sWord (s : State) (t : BitVec 4) (n : Nat) (rs : List (BitVec 5)) (k : State → Act) : Out :=
  match s.cur with
  | .ik d => .next (ikFinish d n (k s))
  | .agent c .S =>
    let s1 := flushSig s c .S
    match blocked s1 c .S t n with
    | some w => .next (waits s1 c .S w)
    | none => if regsFree (s1.cell c) rs then .next (sFinish c t n (k s1)) else .next (waits s1 c .S .other)
  | .agent c e => .next (skipWords s c e n)

/-- A scalar word that only cells execute (R237): on the Innkeeper it is not an instruction. -/
def cWord (s : State) (t : BitVec 4) (n : Nat) (rs : List (BitVec 5)) (k : State → Nat → Act) : Out :=
  match s.cur with
  | .ik d => .next (ikBad s d 1)
  | .agent c _ => sWord s t n rs (fun s1 => k s1 c)

end Sys2Proof.Machine
end

