-- ==== Sys2Proof/Machine/Operands.lean ====
section
/-!
DEFINITION. Operand forms: immediates and addresses of the scalar forms (R184, R200), and the address operands of
the other engines.
-/
namespace Sys2Proof.Machine

/-- IMM of form I and K with E = 0: Sext(imm8, 8) (R184). -/
def imm8 (i : BitVec 8) : Word := i.signExtend 64
/-- IMM with E = 1: Sext(ext, 32) (R184). -/
def imm32 (x : BitVec 32) : Word := x.signExtend 64
/-- The signed 27-bit offset of the VA and MA extensions (R186, R187). -/
def imm27 (x : BitVec 27) : Word := x.signExtend 64
/-- The byte offset of a branch with an 18-bit word offset (R184). -/
def off18 (o : BitVec 18) : Word := o.signExtend 64 <<< 2
/-- The byte offset of a branch with a 50-bit word offset, OFF as bits [49:32] (R184). -/
def off50 (o : BitVec 18) (x : BitVec 32) : Word := (o ++ x).signExtend 64 <<< 2
/-- The byte offset of a compare-branch (R184). -/
def off8 (o : BitVec 8) : Word := o.signExtend 64 <<< 2
/-- The byte offset of a compare-branch with E = 1 (R184). -/
def off32 (x : BitVec 32) : Word := x.signExtend 64 <<< 2

/-- LO of the mover for a g register (R200, R219); the Innkeeper has no loops. -/
def loOf (s : State) (r : BitVec 5) : Word :=
  match s.cur with
  | .agent c e => loG ((s.cell c).agent e) r.toNat
  | .ik _ => 0

/-- The address of a memory operand [ga + IMM] (R200). -/
def addrOf (s : State) (a : BitVec 5) (i : Word) : Word := gGet s a + i + loOf s a

/-- PC of the mover. -/
def pcOf (s : State) : Word :=
  match s.cur with
  | .agent c e => ((s.cell c).agent e).pc
  | .ik d => (s.die d).ik.pc

/-- The engine whose accesses the mover makes. -/
def engOf (s : State) : Engine :=
  match s.cur with
  | .agent _ e => e
  | .ik _ => .S

end Sys2Proof.Machine
end

