-- ==== Sys2Proof/Machine/Scalar.lean ====
section
/-!
DEFINITION. Integer arithmetic and logic of the scalar words (R201 to R204). No flag is set and no result traps.
-/
namespace Sys2Proof.Machine

/-- A two-source word gd, ga, gb. -/
def sAlu (s : State) (t : BitVec 4) (d a b : BitVec 5) (f : Word → Word → Word) : Out :=
  sWord s t 1 [d, a, b] (fun s1 => .done (gSet s1 d (f (gGet s1 a) (gGet s1 b))))

/-- A one-source word gd, ga. -/
def sAlu1 (s : State) (t : BitVec 4) (d a : BitVec 5) (f : Word → Word) : Out :=
  sWord s t 1 [d, a] (fun s1 => .done (gSet s1 d (f (gGet s1 a))))

/-- An immediate word gd, ga, IMM of `n` words. -/
def sImm (s : State) (t : BitVec 4) (n : Nat) (d a : BitVec 5) (f : Word → Word) : Out :=
  sWord s t n [d, a] (fun s1 => .done (gSet s1 d (f (gGet s1 a))))

/-- MULH: the high 64 bits of the signed (SUB 0) or natural (SUB 1) product (R201). -/
def mulhOp (u : BitVec 1) (x y : Word) : Word :=
  if u = 0 then BitVec.ofInt 64 (x.toInt * y.toInt / 2 ^ 64) else wd (x.toNat * y.toNat / 2 ^ 64)

/-- DIV (R202): truncation toward zero; a zero divisor gives all ones, the overflowing quotient gives a. -/
def divOp (u : BitVec 1) (x y : Word) : Word :=
  if y = 0 then wd (2 ^ 64 - 1)
  else if u = 0 then (if x.toInt = -2 ^ 63 ∧ y.toInt = -1 then x else BitVec.ofInt 64 (Int.tdiv x.toInt y.toInt))
  else wd (x.toNat / y.toNat)

/-- REM (R202): the sign of the remainder is the sign of the dividend. -/
def remOp (u : BitVec 1) (x y : Word) : Word :=
  if y = 0 then x
  else if u = 0 then (if x.toInt = -2 ^ 63 ∧ y.toInt = -1 then 0 else BitVec.ofInt 64 (Int.tmod x.toInt y.toInt))
  else wd (x.toNat % y.toNat)

/-- b[5:0], the shift count (R201). -/
def shAmt (y : Word) : Nat := y.toNat % 64
/-- SHL. -/
def shlOp (x y : Word) : Word := x <<< shAmt y
/-- SHR. -/
def shrOp (x y : Word) : Word := x >>> shAmt y
/-- SAR. -/
def sarOp (x y : Word) : Word := x.sshiftRight (shAmt y)
/-- ROR. -/
def rorOp (x y : Word) : Word := x.rotateRight (shAmt y)

/-- x below y in the view that SUB selects (R201). -/
def below (u : BitVec 1) (x y : Word) : Bool := if u = 0 then decide (x.toInt < y.toInt) else decide (x.toNat < y.toNat)
/-- MIN. -/
def minOp (u : BitVec 1) (x y : Word) : Word := if below u y x then y else x
/-- MAX. -/
def maxOp (u : BitVec 1) (x y : Word) : Word := if below u x y then y else x
/-- SLT. -/
def sltOp (u : BitVec 1) (x y : Word) : Word := if below u x y then 1 else 0
/-- SEQ. -/
def seqOp (x y : Word) : Word := if x = y then 1 else 0

/-- Zero bits above the highest 1 bit, over the low `n` bits. -/
def leadZeros (n : Nat) (x : Word) : Nat :=
  match n with
  | 0 => 0
  | k + 1 => if x.getLsbD k then 0 else leadZeros k x + 1
/-- CLZ: 64 for 0. -/
def clzOp (x : Word) : Word := wd (leadZeros 64 x)

/-- Zero bits below the lowest 1 bit, from bit `64 - n` up. -/
def trailZeros (n : Nat) (x : Word) : Nat :=
  match n with
  | 0 => 0
  | k + 1 => if x.getLsbD (64 - (k + 1)) then 0 else trailZeros k x + 1
/-- CTZ: 64 for 0. -/
def ctzOp (x : Word) : Word := wd (trailZeros 64 x)

/-- The number of 1 bits among the low `n` bits. -/
def onesIn (n : Nat) (x : Word) : Nat :=
  match n with
  | 0 => 0
  | k + 1 => onesIn k x + b2n (x.getLsbD k)
/-- POPC. -/
def popcOp (x : Word) : Word := wd (onesIn 64 x)

/-- The width that BEXT and BINS take from b[13:8]: 0 means 64 (R203). -/
def fieldWidth (b : Word) : Nat := let w := bits b 8 6; if w = 0 then 64 else w
/-- BEXT (R203). -/
def bextOp (a b : Word) : Word := wd (a.toNat / 2 ^ bits b 0 6 % 2 ^ fieldWidth b)
/-- BINS (R203): `old` is gd before the word. -/
def binsOp (old a b : Word) : Word :=
  let p := bits b 0 6
  let m := 2 ^ fieldWidth b - 1
  (old &&& ~~~ (wd (m * 2 ^ p))) ||| wd (a.toNat % (m + 1) * 2 ^ p)

/-- R201 ADD. -/
def execAdd (t : BitVec 4) (d a b : BitVec 5) (s : State) : Out := sAlu s t d a b (fun x y => x + y)
/-- R201 SUB. -/
def execSub (t : BitVec 4) (d a b : BitVec 5) (s : State) : Out := sAlu s t d a b (fun x y => x - y)
/-- R201 MUL. -/
def execMul (t : BitVec 4) (d a b : BitVec 5) (s : State) : Out := sAlu s t d a b (fun x y => x * y)
/-- R201 MULH. -/
def execMulh (t : BitVec 4) (d a : BitVec 5) (u : BitVec 1) (b : BitVec 5) (s : State) : Out := sAlu s t d a b (mulhOp u)
/-- R202 DIV. -/
def execDiv (t : BitVec 4) (d a : BitVec 5) (u : BitVec 1) (b : BitVec 5) (s : State) : Out := sAlu s t d a b (divOp u)
/-- R202 REM. -/
def execRem (t : BitVec 4) (d a : BitVec 5) (u : BitVec 1) (b : BitVec 5) (s : State) : Out := sAlu s t d a b (remOp u)
/-- R201 AND. -/
def execAndr (t : BitVec 4) (d a b : BitVec 5) (s : State) : Out := sAlu s t d a b (fun x y => x &&& y)
/-- R201 OR. -/
def execOrr (t : BitVec 4) (d a b : BitVec 5) (s : State) : Out := sAlu s t d a b (fun x y => x ||| y)
/-- R201 XOR. -/
def execXorr (t : BitVec 4) (d a b : BitVec 5) (s : State) : Out := sAlu s t d a b (fun x y => x ^^^ y)
/-- R201 SHL. -/
def execShl (t : BitVec 4) (d a b : BitVec 5) (s : State) : Out := sAlu s t d a b shlOp
/-- R201 SHR. -/
def execShr (t : BitVec 4) (d a b : BitVec 5) (s : State) : Out := sAlu s t d a b shrOp
/-- R201 SAR. -/
def execSar (t : BitVec 4) (d a b : BitVec 5) (s : State) : Out := sAlu s t d a b sarOp
/-- R201 ROR. -/
def execRor (t : BitVec 4) (d a b : BitVec 5) (s : State) : Out := sAlu s t d a b rorOp
/-- R201 MIN. -/
def execMinr (t : BitVec 4) (d a : BitVec 5) (u : BitVec 1) (b : BitVec 5) (s : State) : Out := sAlu s t d a b (minOp u)
/-- R201 MAX. -/
def execMaxr (t : BitVec 4) (d a : BitVec 5) (u : BitVec 1) (b : BitVec 5) (s : State) : Out := sAlu s t d a b (maxOp u)
/-- R201 SLT. -/
def execSlt (t : BitVec 4) (d a : BitVec 5) (u : BitVec 1) (b : BitVec 5) (s : State) : Out := sAlu s t d a b (sltOp u)
/-- R201 SEQ. -/
def execSeq (t : BitVec 4) (d a b : BitVec 5) (s : State) : Out := sAlu s t d a b seqOp
/-- R201 CLZ. -/
def execClz (t : BitVec 4) (d a : BitVec 5) (s : State) : Out := sAlu1 s t d a clzOp
/-- R201 CTZ. -/
def execCtz (t : BitVec 4) (d a : BitVec 5) (s : State) : Out := sAlu1 s t d a ctzOp
/-- R201 POPC. -/
def execPopc (t : BitVec 4) (d a : BitVec 5) (s : State) : Out := sAlu1 s t d a popcOp
/-- R203 BEXT. -/
def execBext (t : BitVec 4) (d a b : BitVec 5) (s : State) : Out := sAlu s t d a b bextOp
/-- R203 BINS: gd is read as well as written. -/
def execBins (t : BitVec 4) (d a b : BitVec 5) (s : State) : Out :=
  sWord s t 1 [d, a, b] (fun s1 => .done (gSet s1 d (binsOp (gGet s1 d) (gGet s1 a) (gGet s1 b))))

/-! Immediate forms (R204). -/

/-- SLTI: signed. -/
def sltiOp (x i : Word) : Word := if x.toInt < i.toInt then 1 else 0
/-- LIH: the immediate's low 32 bits above the kept low half. -/
def lihOp (old i : Word) : Word := wd (i.toNat % 2 ^ 32 * 2 ^ 32 + old.toNat % 2 ^ 32)

/-- R204 ADDI. -/
def execAddi (t : BitVec 4) (d a : BitVec 5) (i : BitVec 8) (s : State) : Out := sImm s t 1 d a (fun x => x + imm8 i)
/-- R204 ADDI, with the extension word. -/
def execAddiExt (t : BitVec 4) (d a : BitVec 5) (x : BitVec 32) (s : State) : Out := sImm s t 2 d a (fun y => y + imm32 x)
/-- R204 ANDI. -/
def execAndi (t : BitVec 4) (d a : BitVec 5) (i : BitVec 8) (s : State) : Out := sImm s t 1 d a (fun x => x &&& imm8 i)
/-- R204 ANDI, with the extension word. -/
def execAndiExt (t : BitVec 4) (d a : BitVec 5) (x : BitVec 32) (s : State) : Out := sImm s t 2 d a (fun y => y &&& imm32 x)
/-- R204 ORI. -/
def execOri (t : BitVec 4) (d a : BitVec 5) (i : BitVec 8) (s : State) : Out := sImm s t 1 d a (fun x => x ||| imm8 i)
/-- R204 ORI, with the extension word. -/
def execOriExt (t : BitVec 4) (d a : BitVec 5) (x : BitVec 32) (s : State) : Out := sImm s t 2 d a (fun y => y ||| imm32 x)
/-- R204 XORI. -/
def execXori (t : BitVec 4) (d a : BitVec 5) (i : BitVec 8) (s : State) : Out := sImm s t 1 d a (fun x => x ^^^ imm8 i)
/-- R204 XORI, with the extension word. -/
def execXoriExt (t : BitVec 4) (d a : BitVec 5) (x : BitVec 32) (s : State) : Out := sImm s t 2 d a (fun y => y ^^^ imm32 x)
/-- R204 SHLI. -/
def execShli (t : BitVec 4) (d a : BitVec 5) (i : BitVec 8) (s : State) : Out := sImm s t 1 d a (fun x => shlOp x (imm8 i))
/-- R204 SHLI, with the extension word. -/
def execShliExt (t : BitVec 4) (d a : BitVec 5) (x : BitVec 32) (s : State) : Out := sImm s t 2 d a (fun y => shlOp y (imm32 x))
/-- R204 SHRI. -/
def execShri (t : BitVec 4) (d a : BitVec 5) (i : BitVec 8) (s : State) : Out := sImm s t 1 d a (fun x => shrOp x (imm8 i))
/-- R204 SHRI, with the extension word. -/
def execShriExt (t : BitVec 4) (d a : BitVec 5) (x : BitVec 32) (s : State) : Out := sImm s t 2 d a (fun y => shrOp y (imm32 x))
/-- R204 SARI. -/
def execSari (t : BitVec 4) (d a : BitVec 5) (i : BitVec 8) (s : State) : Out := sImm s t 1 d a (fun x => sarOp x (imm8 i))
/-- R204 SARI, with the extension word. -/
def execSariExt (t : BitVec 4) (d a : BitVec 5) (x : BitVec 32) (s : State) : Out := sImm s t 2 d a (fun y => sarOp y (imm32 x))
/-- R204 SLTI. -/
def execSlti (t : BitVec 4) (d a : BitVec 5) (i : BitVec 8) (s : State) : Out := sImm s t 1 d a (fun x => sltiOp x (imm8 i))
/-- R204 SLTI, with the extension word. -/
def execSltiExt (t : BitVec 4) (d a : BitVec 5) (x : BitVec 32) (s : State) : Out := sImm s t 2 d a (fun y => sltiOp y (imm32 x))
/-- R204 MULI. -/
def execMuli (t : BitVec 4) (d a : BitVec 5) (i : BitVec 8) (s : State) : Out := sImm s t 1 d a (fun x => x * imm8 i)
/-- R204 MULI, with the extension word. -/
def execMuliExt (t : BitVec 4) (d a : BitVec 5) (x : BitVec 32) (s : State) : Out := sImm s t 2 d a (fun y => y * imm32 x)
/-- R204 LI. -/
def execLi (t : BitVec 4) (d : BitVec 5) (i : BitVec 8) (s : State) : Out := sImm s t 1 d d (fun _ => imm8 i)
/-- R204 LI, with the extension word. -/
def execLiExt (t : BitVec 4) (d : BitVec 5) (x : BitVec 32) (s : State) : Out := sImm s t 2 d d (fun _ => imm32 x)
/-- R204 LIH. -/
def execLih (t : BitVec 4) (d : BitVec 5) (i : BitVec 8) (s : State) : Out := sImm s t 1 d d (fun y => lihOp y (imm8 i))
/-- R204 LIH, with the extension word. -/
def execLihExt (t : BitVec 4) (d : BitVec 5) (x : BitVec 32) (s : State) : Out := sImm s t 2 d d (fun y => lihOp y (imm32 x))

end Sys2Proof.Machine
end

