-- ==== Sys2Proof/Machine/Queue.lean ====
section
/-!
DEFINITION. The load and store queues of a cell (R142 to R146, R153), the paths of stores (R143), own-store
forwarding (R145), posted writes (R76 to R78), ordered messages (R303) and reduce contributions (R79, R339).
-/
namespace Sys2Proof.Machine

/-! Bytes and paths. -/

/-- The home byte that a fabric offset of this node reaches (R71, R139). -/
def sliceHome (o : Nat) : Nat := 2 ^ 60 + o

/-- The home bytes, or bytes of another node, that an access of a cell reaches: a multicast access reaches four. -/
def reach (s : State) (c : Nat) (a : Acc) : List Nat :=
  match a.loc with
  | .home x => [x]
  | .mcast o => [0, 1, 2, 3].map (fun i => cellHome (4 * clusterOf c + i) + o)
  | .fabric n o => if n = selfNode s then [sliceHome o] else [2 ^ 70 + n * 2 ^ 30 + o]
  | .reduce d o => [2 ^ 80 + d * 2 ^ 24 + o]

/-- Two runs share a byte. -/
def overlap (a n b m : Nat) : Bool := n != 0 && m != 0 && decide (a < b + m) && decide (b < a + n)

/-- Two accesses of a cell reach a common byte. -/
def meet (s : State) (c : Nat) (a b : Acc) : Bool :=
  (reach s c a).any (fun x => (reach s c b).any (fun y => overlap x a.len y b.len))

/-- The path of a store (R143). -/
def pathOf (c : Nat) (a : Acc) : Nat :=
  match a.loc with
  | .home x => if a.cls = 4 && a.key.isNone && decide (cellHome c ≤ x) && decide (x < cellHome c + 2 ^ 21) then 0 else 2 + homeUnit x
  | .mcast _ => 1
  | .fabric n _ => 10000 + n
  | .reduce _ _ => 9999

/-- Accesses that apply or perform whole together (R141): consecutive ones in one 64-byte line of the paged half, or
one 256-byte block of a window. -/
def sameBlock (a b : Acc) : Bool :=
  match a.loc, b.loc with
  | .home x, .home y => if a.key.isSome then x / 64 == y / 64 && b.key.isSome else x / 256 == y / 256 && b.key.isNone
  | .mcast x, .mcast y => x / 256 == y / 256
  | .fabric n x, .fabric m y => n == m && x / 256 == y / 256
  | .reduce d x, .reduce e y => d == e && x / 256 == y / 256
  | _, _ => false

/-- Group accesses, with what each carries, into those that apply or perform whole. -/
def groupAccs {α : Type} (l : List (Acc × α)) : List (List (Acc × α)) :=
  match l with
  | [] => []
  | p :: r => match groupAccs r with
    | (q :: g) :: t => if sameBlock p.1 q.1 then (p :: q :: g) :: t else [p] :: (q :: g) :: t
    | t => [p] :: t

/-! Entering the queues. -/

/-- A load may enter the load queue (R142, R146). -/
def loadRoom (x : Cell) : Bool := !held x && x.loads.length < 32

/-- The entries of the store queue that are taken: a word's stores share one until the last of them has left (R142, R256). -/
def storeEntries (x : Cell) : Nat := ((x.stores.filter (fun q => !q.left)).map (·.word)).eraseDups.length

/-- A store may enter the store queue; `k` more entries are needed (R142, R146). -/
def storeRoom (x : Cell) (k : Nat) : Bool := !held x && storeEntries x + k ≤ 32

/-- Enter a load; the second part is its number. -/
def enterLoad (x : Cell) (e : Engine) (accs : List (List Acc)) (dest : LoadDest) : Cell × Nat :=
  ({ x with loads := x.loads ++ [⟨x.nextId, e, (x.agent e).dpos, accs, [], false, [], dest⟩], nextId := x.nextId + 1 }, x.nextId)

/-- The WALLOW bound of a class (R77): 0 acts as 1; a store that is not posted has none. -/
def wallowOf (x : Cell) (cls : Nat) : Nat := if cls < 4 then max 1 (bits x.wallow (8 * cls) 8) else 0

/-- An entry whose places are not known yet. -/
def Store.blind (q : Store) : Bool := q.awaits && q.parts.isEmpty

/-- A store reaches a byte that an access reaches, or may do so: its places are not known yet. -/
def storeMeets (s : State) (c : Nat) (q : Store) (a : Acc) : Bool := q.blind || q.parts.any (fun g => g.any (fun p => meet s c p.1 a))

/-- A load of the cell that entered its queue before number `id` has yet to read a byte that an access reaches: it never takes a later store's
value (R145). -/
def loadAhead (s : State) (c id : Nat) (a : Acc) : Bool :=
  (s.cell c).loads.any (fun l => decide (l.id < id) && l.accs.any (fun g => g.any (fun b => meet s c a b)))

/-- A multicast store numbered `id` may issue: no earlier store of the cell to any of its bytes is unapplied (R75), and no earlier load of them
unperformed (R145). -/
def mcastClear (s : State) (c id : Nat) (accs : List Acc) : Bool :=
  !accs.any (fun a => (s.cell c).stores.any (fun q => decide (q.id < id) && !q.applied && storeMeets s c q a) || loadAhead s c id a)

/-- The store's accesses go to the multicast window. -/
def isMcast (accs : List Acc) : Bool := accs.any (fun a => match a.loc with | .mcast _ => true | _ => false)

/-- What the stores of a word are told apart by: the path and the window class of a part that applies whole (R143, R77). -/
def partKey (c : Nat) (g : List (Acc × List Byte)) : Nat × Nat :=
  match g with
  | [] => (0, 4)
  | p :: _ => (pathOf c p.1, p.1.cls)

/-- The parts of a word in runs of one path and class, in the word's order. -/
def splitParts (c : Nat) (l : List (List (Acc × List Byte))) : List (List (List (Acc × List Byte))) :=
  match l with
  | [] => []
  | g :: r => match splitParts c r with
    | (h :: u) :: t => if partKey c g = partKey c h then (g :: h :: u) :: t else [g] :: (h :: u) :: t
    | t => [g] :: t

/-- The store that a run of parts of the word numbered `word` makes: a multicast one lands 12 cycles after issue (R75). -/
def newStore (x : Cell) (c now id word : Nat) (e : Engine) (pos : Nat) (run : List (List (Acc × List Byte))) : Store :=
  let k := partKey c (run.headD [])
  let mc := decide (k.1 = 1)
  ⟨id, word, e, pos, k.1, run, k.2, wallowOf x k.2, if mc then some (now + 12) else none, mc, false, false⟩

/-- The stores of a list of runs of the word at `pos`, numbered from `id` on. -/
def newStores (x : Cell) (c now id : Nat) (e : Engine) (pos : Nat) (runs : List (List (List (Acc × List Byte)))) : List Store :=
  match runs with
  | [] => []
  | r :: t => newStore x c now id x.nextId e pos r :: newStores x c now (id + 1) e pos t

/-- A word's stores enter the queue: one for each run of its parts on one path and of one class, in order (R142, R257). -/
def enterStore (x : Cell) (c now : Nat) (e : Engine) (pos : Nat) (parts : List (List (Acc × List Byte))) : Cell :=
  let runs := splitParts c parts
  { x with stores := x.stores ++ newStores x c now x.nextId e pos runs, nextId := x.nextId + runs.length }

/-- An entry of the store queue for a word of V whose values are still to come through a KIND 4 channel (R142, R174): `accs` are the places that it
goes to, in order, none where they are not known yet. -/
def enterAwaiting (x : Cell) (id pos : Nat) (accs : List (List Acc)) : Cell :=
  { x with stores := x.stores ++ [⟨id, id, .V, pos, 0, accs.map (fun l => l.map (fun a => (a, []))), 4, 0, none, false, false, true⟩] }

/-- The entry `id` that awaited its values gets its parts, in its place in the queue: one store of its number for each run of them. -/
def fillAwaiting (x : Cell) (c now id : Nat) (parts : List (List (Acc × List Byte))) : Cell :=
  { x with stores := x.stores.flatMap (fun q =>
      if q.id = id && q.awaits then (splitParts c parts).map (newStore x c now id q.word q.eng q.dpos) else [q]) }

/-- The entry `id` that awaits its values leaves the queue: its word stores nothing there. -/
def dropAwaiting (x : Cell) (id : Nat) : Cell := { x with stores := x.stores.filter (fun q => !(q.id = id && q.awaits)) }

/-- The number of the entry of a word whose places are not known yet: V stands at that word, so there is one at most. -/
def blindEntry (x : Cell) : Option Nat := (x.stores.find? (·.blind)).map (·.id)

/-! Ordered messages (R303). -/

/-- Ordered-class traffic may be injected: PTCTL.LOCKED is 1 (R346, R452). -/
def canStamp (s : State) : Bool := s.locked

/-- Send an ordered packet with this stamp and source sequence. -/
def sendOrdered (s : State) (p : Packet) (stamp oseq : Word) (store job : Option (Nat × Nat)) : State :=
  sendNow s { p with cls := 1, stamp := stamp, oseq := oseq } store job

/-- A descriptor of this module's reduction table (R339). -/
def redDesc (s : State) (d : Nat) : List Byte := devRead s (descAt s d) 64
/-- HOME of a descriptor. -/
def redHome (l : List Byte) : Nat := bits (wordAt l 0) 52 12
/-- TYPE of a descriptor. -/
def redType (l : List Byte) : Nat := bits (wordAt l 0) 48 4
/-- OP of a descriptor. -/
def redOp (l : List Byte) : Nat := bits (wordAt l 0) 46 2

/-- One contribution (R79, R339): an ordered TYPE 3 packet to HOME of the issuing module's descriptor. Above the aperture address, ADDR
carries TYPE and OP of that descriptor for the check of R452 code 0x21 (log 13). -/
def contribution (s : State) (d o : Nat) (data : List Byte) : Packet :=
  let desc := redDesc s d
  plainPacket 3 (redHome desc) (wd ((redType desc * 4 + redOp desc) * 2 ^ 32 + d * 2 ^ 24 + o)) 0 data

/-! Leaving the store queue. -/

/-- Contiguous runs of a group merged into one data block each, for packets. -/
def runs (l : List (Acc × List Byte)) : List (Loc × List Byte) :=
  match l with
  | [] => []
  | p :: r => match runs r with
    | (q, b) :: t =>
      let next := match p.1.loc with
        | .home x => Loc.home (x + p.1.len) | .mcast x => .mcast (x + p.1.len)
        | .fabric n x => .fabric n (x + p.1.len) | .reduce d x => .reduce d (x + p.1.len)
      if q = next then (p.1.loc, p.2 ++ b) :: t else (p.1.loc, p.2) :: (q, b) :: t
    | [] => [(p.1.loc, p.2)]

/-- The TYPE 0 packets of a block that applies whole (R141): where its bytes are not contiguous there are several, and ADDR bit 63 of
every one but the last says that the next packet of the connection belongs to the same write (log 13). -/
def blockPackets (l : List Packet) : List Packet :=
  match l with
  | p :: q :: r => { p with addr := p.addr ||| wd (2 ^ 63) } :: blockPackets (q :: r)
  | l => l

/-- The packets of one part of a store that leaves for the fabric remote window or the reduce aperture. -/
def partPackets (s : State) (g : List (Acc × List Byte)) : List Packet :=
  blockPackets ((runs g).filterMap (fun r => match r.1 with | .fabric n o => some (plainPacket 0 n (wd o) 0 r.2) | _ => none))
    ++ (runs g).filterMap (fun r => match r.1 with | .reduce d o => some (contribution s d o r.2) | _ => none)

/-- The packets of a store that leaves for the fabric remote window or the reduce aperture. -/
def storePackets (s : State) (q : Store) : List Packet := q.parts.flatMap (partPackets s)

/-- The store leaves as packets. -/
def leavesNode (q : Store) : Bool := decide (9999 ≤ q.path)

/-- The posted writes of a class in flight (R77): left and not yet acknowledged. -/
def inFlight (x : Cell) (cls : Nat) : Nat := (x.stores.filter (fun q => q.left && q.cls = cls)).length

/-- The connections and the retry store have room for every packet of the list (R331, R332). -/
def roomForAll (s : State) (l : List Packet) : Bool := l.all (fun p => roomFor s p.dst (l.filter (fun q => q.dst = p.dst)).length 256)

/-- Two stores of one word whose elements apply in lane order (R256): neither a multicast write, which lands at its own time, nor a
contribution, which is no write. -/
def lanesBefore (r q : Store) : Bool := r.word = q.word && r.path != 1 && q.path != 1 && r.path != 9999 && q.path != 9999

/-- A store for the fabric remote window may leave: the earlier elements of its word on other paths have applied (R256), and so has
every earlier store of the cell to its bytes where they lie in this node (R143). -/
def turnCome (s : State) (c : Nat) (q : Store) : Bool :=
  ((s.cell c).stores.takeWhile (fun r => r.left)).all (fun r => r.applied || r.path = q.path
    || !(lanesBefore r q || r.parts.any (fun g => g.any (fun a => q.parts.any (fun h => h.any (fun b => meet s c a.1 b.1))))))

/-- The first store in the queue may leave (R77, R331, R332, R452): its values are there, and one for another place than a home of this module
follows every earlier load of its bytes (R145). -/
def mayLeave (s : State) (c : Nat) (q : Store) : Bool :=
  !q.awaits && (q.cls = 4 || inFlight (s.cell c) q.cls < q.bound)
    && (!leavesNode q || (roomForAll s (storePackets s q) && (storePackets s q).all (fun p => p.ty != 3 || canStamp s) && turnCome s c q
      && !q.parts.any (fun g => g.any (fun a => loadAhead s c q.id a.1))))

/-- Send the packets of a store that leaves the node. A reduce contribution is one ordered message (R303). -/
def sendStore (s : State) (c : Nat) (q : Store) : State :=
  (storePackets s q).foldl (fun t p =>
    if p.ty = 3 then { sendOrdered t p t.podtime t.oseq (some (c, q.id)) none with oseq := t.oseq + 1 }
    else sendNow t p (some (c, q.id)) none) s

/-- A posted store leaves one write at a time (R77, R257): its first part goes, the rest stay in its queue entry. -/
def splitHead (q : Store) : Store × List Store :=
  match q.parts with
  | g :: h :: r => if q.cls < 4 then ({ q with parts := [g], left := true }, [{ q with parts := h :: r }]) else ({ q with left := true }, [])
  | _ => ({ q with left := true }, [])

/-- The list of stores with its first queued one replaced by these. -/
def replaceFirst (l : List Store) (new : List Store) : List Store :=
  match l with
  | [] => []
  | q :: r => if q.left then q :: replaceFirst r new else new ++ r

/-- Stores leave the queue in the order they entered it, as far as they may (R143). `n` bounds the writes that leave. -/
def drain (n : Nat) (s : State) (c : Nat) : State :=
  match n with
  | 0 => s
  | k + 1 =>
    match (s.cell c).stores.find? (fun q => !q.left) with
    | none => s
    | some q =>
      let h := splitHead q
      if mayLeave s c h.1 then
        let s1 := s.setCell c { s.cell c with stores := replaceFirst (s.cell c).stores (h.1 :: h.2) }
        drain k (if leavesNode q then sendStore s1 c h.1 else s1) c
      else s

/-- Enter a store of the word at `pos`, in the entry `own` that awaits its values where the word has one, and let the queue drain. -/
def issueStore (s : State) (c : Nat) (e : Engine) (pos : Nat) (own : Option Nat) (parts : List (List (Acc × List Byte))) : State :=
  let x := s.cell c
  drain 288 (s.setCell c (match own with
    | some id => fillAwaiting x c s.now id parts
    | none => enterStore x c s.now e pos parts)) c

/-! Own-store forwarding (R145). -/

/-- The byte that the latest unapplied store of the cell before `id` gives for the home byte `a`. -/
def forwarded (s : State) (c id a : Nat) : Option Byte :=
  (s.cell c).stores.foldl (fun r q =>
    if q.id < id && !q.applied && !q.awaits then
      q.parts.foldl (fun r1 g => g.foldl (fun r2 p =>
        (reach s c p.1).foldl (fun r3 x => if decide (x ≤ a) && decide (a < x + p.1.len) then some (byteAt p.2 (a - x)) else r3) r2) r1) r
    else r) none

/-- What the cell's own stores give a run that lies `o` bytes into the slice of another node `n` (R145): those that have left go before
a request that follows them on the connection, so those that have not left are laid over its answer. -/
def forwardedFar (s : State) (c id n o len : Nat) : List (Option Byte) :=
  let t := s.setCell c { s.cell c with stores := (s.cell c).stores.filter (fun q => !q.left) }
  if n = selfNode s then [] else (List.range len).map (fun i => forwarded t c id (2 ^ 70 + n * 2 ^ 30 + o + i))

/-- Some store of the cell numbered below `id` has not applied and reaches one of the ranges: a step or command of M or X that
issued after it goes there only once it has (R148, R165, log 69). -/
def storeAhead (s : State) (c id : Nat) (l : List Range) : Bool :=
  (s.cell c).stores.any (fun q => decide (q.id < id) && !q.applied && q.parts.any (fun g => g.any (fun p =>
    (reach s c p.1).any (fun x => l.any (fun r => overlap x p.1.len r.base r.len)))))

/-- The bytes of a home run as an access of the cell's X or M sees them: what the store queue holds is visible to every agent of the
cell (R148, R145). -/
def cellBytes (s : State) (c a n : Nat) (key : Option Nat) : List Byte :=
  let home := readHome s a n key
  (List.range n).map (fun i => (forwarded s c (s.cell c).nextId (a + i)).getD (byteAt home i))

/-- The bytes of a home run as a load of the cell sees them. -/
def loadBytes (s : State) (c id a n : Nat) (key : Option Nat) : List Byte :=
  let home := readHome s a n key
  (List.range n).map (fun i => (forwarded s c id (a + i)).getD (byteAt home i))

/-! Checks of many accesses (R383): every address is checked before any byte is touched. -/

/-- The place of a fault in the order of R361: fetch, not-an-instruction by its code (R378), lease, channel, address range, translation,
protection, closure, stream out of step, queue or event overflow. -/
def fltOrder (f : Flt) : Nat :=
  if f.cls = 4 then 0 else if f.cls = 1 then 1 + f.code else if f.cls = 0xE then 256 else if f.cls = 2 then 257
  else if f.cls = 6 then 258 else if f.cls = 7 then 260 else if f.cls = 8 then 261 else if f.cls = 9 then 262
  else if f.cls = 0xF then 263 else 259

/-- Two checks of one word: the fault that R361 names first, the earlier one of two alike (R361). -/
def firstFlt (f g : Flt) : Flt := if fltOrder g < fltOrder f then g else f

/-- The checks of two parts of one word joined: the first fault in the order of R361, or both results. -/
def joinRes {α β γ : Type} (k : α → β → γ) (a : Res α) (b : Res β) : Res γ :=
  match a, b with
  | .flt f, .flt g => .flt (firstFlt f g)
  | .flt f, .ok _ => .flt f
  | .ok _, .flt g => .flt g
  | .ok x, .ok y => .ok (k x y)

/-- Check each (address, bytes); the first fault in the order of R361 stands, and of two alike that of the earlier access. -/
def checkMany (s : State) (who : Actor) (e : Engine) (al : Nat) (write elem : Bool) (l : List (Word × Nat)) :
    State × Res (List Chkd) :=
  match l with
  | [] => (s, .ok [])
  | p :: r =>
    let a := checkAccess s who e p.1 p.2 al write elem
    let b := checkMany a.1 who e al write elem r
    (b.1, joinRes (fun k ks => k :: ks) a.2 b.2)

/-- D set for every page of checked stores (R86). -/
def markAll (s : State) (ks : List Chkd) : State := ks.foldl (fun t k => markDirty t k.leaf) s

/-- The bytes of an access dealt out to its parts in order. -/
def deal (accs : List Acc) (b : List Byte) : List (Acc × List Byte) :=
  match accs with
  | [] => []
  | a :: r => (a, b.take a.len) :: deal r (b.drop a.len)

end Sys2Proof.Machine
end

