-- ==== Sys2Proof/Machine/ScalarMem.lean ====
section
/-!
DEFINITION. Scalar loads, stores, PREF, stream images and the ordering words (R205 to R209, R211).
-/
namespace Sys2Proof.Machine

/-! The Innkeeper's own accesses: it has no queues, so a load reads and a store writes at once, except at another
node (log 11). -/

/-- Send a read request (R326): above the offset, ADDR carries the number of bytes (log 13). -/
def askRemote (s : State) (who : Asker) (n o len : Nat) : State :=
  let q := (s.conn n).send
  let s1 := sendNow s (plainPacket 8 n (wd (len * 2 ^ 32 + o)) 0 []) none none
  { s1 with reads := s1.reads ++ [⟨n, q, who⟩] }

/-- What an immediate load gives: its bytes, a wait, or a fault. -/
inductive Got where
  | bytes (s : State) (b : List Byte)
  | wait (s : State)
  | flt (s : State) (f : Flt)
  deriving DecidableEq, Repr

/-- The fault of a read that meets a poisoned unit (R431 codes 0x01, 0x02). -/
def poisonFlt (s : State) (a n : Nat) (va : Word) (array : Bool) : Flt :=
  let u := poisonAt s a n
  { cls := 0xB, code := if isDram u then 2 else 1, addr := if isDram u then wd (u / 64 * 64) else va + wd u - wd a
    aux := wd (homeKind u + 16 * b2n (array && !isDram u)), aux2 := va, dlv := 3, rst := false }

/-- Free bytes: a load from the reduce aperture, whose value the spec does not state (log 15). -/
def freeBytes (s : State) (n : Nat) : List Byte := (List.range n).map (fun i => Config.freeByte (s.ticks + i))

/-- A load by the Innkeeper of die `d`. -/
def ikLoad (s : State) (d : Nat) (va : Word) (n al : Nat) : Got :=
  match (s.die d).ik.sop.bind (fun o => o.bytes) with
  | some b => let x := s.die d; .bytes (s.setDie d { x with ik := { x.ik with sop := none } }) b
  | none =>
    match checkAccess s (.ik d) .S va n al false false with
    | (s1, .flt f) => .flt s1 f
    | (s1, .ok k) =>
      match (k.accs.head?.map (fun (a : Acc) => (a.loc, a.key)) : Option (Loc × Option Nat)) with
      | some (.home a, key) => if poisoned s1 a n then .flt (expose s1 a n) (poisonFlt s1 a n va false)
          else .bytes (expose s1 a n) ((k.accs.map (fun p => match p.loc with | .home h => readHome s1 h p.len key | _ => [])).flatten)
      | some (.fabric m o, _) =>
        if (s1.die d).ik.sop.isSome || !canSend s1 m then .wait s1
        else
          let s2 := askRemote s1 (.ik d) m o n
          let x := s2.die d
          .wait (s2.setDie d { x with ik := { x.ik with sop := some { SOp.idle with asked := true } } })
      | _ => .bytes { s1 with ticks := s1.ticks + n } (freeBytes s1 n)

/-- The tag of an Innkeeper's posted writes in the retry store. -/
def ikTag (d : Nat) : Nat := 2 ^ 20 + d

/-- A store by the Innkeeper of die `d`. -/
def ikStore (s : State) (d : Nat) (va : Word) (b : List Byte) (al : Nat) : Act :=
  match checkAccess s (.ik d) .S va b.length al true false with
  | (s1, .flt f) => .flt s1 f
  | (s1, .ok k) =>
    let s2 := markDirty s1 k.leaf
    match (k.accs.head?.map (fun (a : Acc) => a.loc) : Option Loc) with
    | some (.fabric m o) => if canSend s2 m then .done (sendNow s2 (plainPacket 0 m (wd o) 0 b) (some (ikTag d, 0)) none) else .wait s1 .other
    | some (.reduce e o) =>
      let p := contribution s2 e o b
      if canSend s2 p.dst && canStamp s2 then
        .done { sendOrdered s2 p s2.podtime s2.oseq (some (ikTag d, 0)) none with oseq := s2.oseq + 1 } else .wait s1 .other
    | _ => .done ((deal k.accs b).foldl (fun t p => match p.1.loc with | .home h => writeHome (exposePart t h p.2.length) h p.2 p.1.key | _ => t) s2)

/-! Loads (R205). -/

/-- The value of loaded bytes: sign- or zero-extended. -/
def loadValue (b : List Byte) (n : Nat) (signed : Bool) : Word :=
  let v := leNat (b.take n)
  if signed then (BitVec.ofNat (8 * n) v).signExtend 64 else wd v

/-- Checked accesses grouped into those that perform whole (R141). -/
def loadGroups (ks : List Chkd) : List (List Acc) :=
  (groupAccs ((ks.flatMap (fun k => k.accs)).map (fun a => (a, ())))).map (fun g => g.map (·.1))

/-- A load of `n` bytes by whoever moves: it enters the load queue. -/
def loadAct (s : State) (va : Word) (n al : Nat) (dest : LoadDest) (ik : State → List Byte → State) : Act :=
  match s.cur with
  | .agent c e =>
    if !loadRoom (s.cell c) then .wait s .other
    else match checkAccess s s.cur e va n al false false with
      | (s1, .flt f) => .flt s1 f
      | (s1, .ok k) => .done (s1.setCell c (enterLoad (s1.cell c) e (loadGroups [k]) dest).1)
  | .ik d => match ikLoad s d va n al with
    | .bytes s1 b => .done (ik s1 b)
    | .wait s1 => .wait s1 .other
    | .flt s1 f => .flt s1 f

/-- A scalar load. -/
def sLoad (s : State) (t : BitVec 4) (w : Nat) (d a : BitVec 5) (i : Word) (n : Nat) (signed : Bool) : Out :=
  sWord s t w [d, a] (fun s1 => loadAct s1 (addrOf s1 a i) n n (.reg d.toNat n signed)
    (fun s2 b => gSet s2 d (loadValue b n signed)))

/-! Stores (R206). -/

/-- A store of `b` to checked accesses of a cell enters the store queue, D marked first (R86); a multicast store waits for the cell's
earlier stores to its bytes (R75). -/
def storeChecked (s : State) (c : Nat) (e : Engine) (accs : List Acc) (leaf : Option Nat) (b : List Byte) : Act :=
  if isMcast accs && !mcastClear s c (s.cell c).nextId accs then .wait s .other
  else .done (issueStore (markDirty s leaf) c e ((s.cell c).agent e).dpos none (groupAccs (deal accs b)))

/-- A store of `b` by whoever moves: checked, then entered. -/
def storeAct (s : State) (va : Word) (b : List Byte) (al : Nat) : Act :=
  match s.cur with
  | .agent c e =>
    if !storeRoom (s.cell c) 1 then .wait s .other
    else match checkAccess s s.cur e va b.length al true false with
      | (s1, .flt f) => .flt s1 f
      | (s1, .ok k) => storeChecked s1 c e k.accs k.leaf b
  | .ik d => ikStore s d va b al

/-- A scalar store of the low `n` bytes of gb. -/
def sStore (s : State) (t : BitVec 4) (w : Nat) (b a : BitVec 5) (i : Word) (n : Nat) : Out :=
  sWord s t w [b, a] (fun s1 => storeAct s1 (addrOf s1 a i) (leList n (gGet s1 b).toNat) n)

/-- R205 LD.i8. -/
def execLdI8 (t : BitVec 4) (d a : BitVec 5) (i : BitVec 8) (s : State) : Out := sLoad s t 1 d a (imm8 i) 1 true
/-- R205 LD.i8, with the extension word. -/
def execLdI8Ext (t : BitVec 4) (d a : BitVec 5) (x : BitVec 32) (s : State) : Out := sLoad s t 2 d a (imm32 x) 1 true
/-- R205 LD.i16. -/
def execLdI16 (t : BitVec 4) (d a : BitVec 5) (i : BitVec 8) (s : State) : Out := sLoad s t 1 d a (imm8 i) 2 true
/-- R205 LD.i16, with the extension word. -/
def execLdI16Ext (t : BitVec 4) (d a : BitVec 5) (x : BitVec 32) (s : State) : Out := sLoad s t 2 d a (imm32 x) 2 true
/-- R205 LD.i32. -/
def execLdI32 (t : BitVec 4) (d a : BitVec 5) (i : BitVec 8) (s : State) : Out := sLoad s t 1 d a (imm8 i) 4 true
/-- R205 LD.i32, with the extension word. -/
def execLdI32Ext (t : BitVec 4) (d a : BitVec 5) (x : BitVec 32) (s : State) : Out := sLoad s t 2 d a (imm32 x) 4 true
/-- R205 LD.64. -/
def execLd64 (t : BitVec 4) (d a : BitVec 5) (i : BitVec 8) (s : State) : Out := sLoad s t 1 d a (imm8 i) 8 false
/-- R205 LD.64, with the extension word. -/
def execLd64Ext (t : BitVec 4) (d a : BitVec 5) (x : BitVec 32) (s : State) : Out := sLoad s t 2 d a (imm32 x) 8 false
/-- R205 LD.n8. -/
def execLdN8 (t : BitVec 4) (d a : BitVec 5) (i : BitVec 8) (s : State) : Out := sLoad s t 1 d a (imm8 i) 1 false
/-- R205 LD.n8, with the extension word. -/
def execLdN8Ext (t : BitVec 4) (d a : BitVec 5) (x : BitVec 32) (s : State) : Out := sLoad s t 2 d a (imm32 x) 1 false
/-- R205 LD.n16. -/
def execLdN16 (t : BitVec 4) (d a : BitVec 5) (i : BitVec 8) (s : State) : Out := sLoad s t 1 d a (imm8 i) 2 false
/-- R205 LD.n16, with the extension word. -/
def execLdN16Ext (t : BitVec 4) (d a : BitVec 5) (x : BitVec 32) (s : State) : Out := sLoad s t 2 d a (imm32 x) 2 false
/-- R205 LD.n32. -/
def execLdN32 (t : BitVec 4) (d a : BitVec 5) (i : BitVec 8) (s : State) : Out := sLoad s t 1 d a (imm8 i) 4 false
/-- R205 LD.n32, with the extension word. -/
def execLdN32Ext (t : BitVec 4) (d a : BitVec 5) (x : BitVec 32) (s : State) : Out := sLoad s t 2 d a (imm32 x) 4 false
/-- R206 ST.8. -/
def execSt8 (t : BitVec 4) (b a : BitVec 5) (i : BitVec 8) (s : State) : Out := sStore s t 1 b a (imm8 i) 1
/-- R206 ST.8, with the extension word. -/
def execSt8Ext (t : BitVec 4) (b a : BitVec 5) (x : BitVec 32) (s : State) : Out := sStore s t 2 b a (imm32 x) 1
/-- R206 ST.16. -/
def execSt16 (t : BitVec 4) (b a : BitVec 5) (i : BitVec 8) (s : State) : Out := sStore s t 1 b a (imm8 i) 2
/-- R206 ST.16, with the extension word. -/
def execSt16Ext (t : BitVec 4) (b a : BitVec 5) (x : BitVec 32) (s : State) : Out := sStore s t 2 b a (imm32 x) 2
/-- R206 ST.32. -/
def execSt32 (t : BitVec 4) (b a : BitVec 5) (i : BitVec 8) (s : State) : Out := sStore s t 1 b a (imm8 i) 4
/-- R206 ST.32, with the extension word. -/
def execSt32Ext (t : BitVec 4) (b a : BitVec 5) (x : BitVec 32) (s : State) : Out := sStore s t 2 b a (imm32 x) 4
/-- R206 ST.64. -/
def execSt64 (t : BitVec 4) (b a : BitVec 5) (i : BitVec 8) (s : State) : Out := sStore s t 1 b a (imm8 i) 8
/-- R206 ST.64, with the extension word. -/
def execSt64Ext (t : BitVec 4) (b a : BitVec 5) (x : BitVec 32) (s : State) : Out := sStore s t 2 b a (imm32 x) 8

/-- R207 PREF: no effect that a program can observe; this model drops the hint (log 16). -/
def execPref (t : BitVec 4) (a : BitVec 5) (_i : BitVec 8) (s : State) : Out := sWord s t 1 [a] .done
/-- R207 PREF, with the extension word. -/
def execPrefExt (t : BitVec 4) (a : BitVec 5) (_x : BitVec 32) (s : State) : Out := sWord s t 2 [a] .done

/-! Stream images (R208, R209). -/

/-- Stream register `n` of the mover; the Innkeeper's SLDR and SSTR use images of its own (R237, log 11). -/
def streamGet (s : State) (n : Nat) : Image :=
  match s.cur with
  | .agent c _ => (s.cell c).stream n
  | .ik d => Tab.get 0 (s.die d).ik.s n

/-- SLDR replaces a stream register (R208). -/
def ikStreamSet (s : State) (n : Nat) (b : List Byte) : State :=
  match s.cur with
  | .agent _ _ => s
  | .ik d => let x := s.die d; s.setDie d { x with ik := { x.ik with s := Tab.set x.ik.s n (BitVec.ofNat 1024 (leNat b)) } }

/-- A SLDR of a cell has not replaced the image of stream `n` yet: a read of the stream waits for it (R167). -/
def imageOut (x : Cell) (n : Nat) : Bool := (x.loads ++ x.returning).any (fun l => l.dest = .stream n)

/-- The same for whoever moves. -/
def sldrOut (s : State) (n : Nat) : Bool :=
  match s.cur with
  | .agent c _ => imageOut (s.cell c) n
  | .ik _ => false

/-- SLDR: one 128-byte load through the load queue. -/
def sldr (s : State) (t : BitVec 4) (w : Nat) (r : BitVec 4) (a : BitVec 5) (i : Word) : Out :=
  sWord s t w [a] (fun s1 =>
    if sldrOut s1 r.toNat then .wait s1 .other
    else loadAct s1 (addrOf s1 a i) 128 128 (.stream r.toNat) (fun s2 b => ikStreamSet s2 r.toNat b))

/-- SSTR: the whole image as it stands at issue, one 128-byte store. -/
def sstr (s : State) (t : BitVec 4) (w : Nat) (r : BitVec 4) (a : BitVec 5) (i : Word) : Out :=
  sWord s t w [a] (fun s1 =>
    if sldrOut s1 r.toNat then .wait s1 .other
    else storeAct s1 (addrOf s1 a i) (leList 128 (streamGet s1 r.toNat).toNat) 128)

/-- R208 SLDR. -/
def execSldr (t r : BitVec 4) (a : BitVec 5) (i : BitVec 8) (s : State) : Out := sldr s t 1 r a (imm8 i)
/-- R208 SLDR, with the extension word. -/
def execSldrExt (t r : BitVec 4) (a : BitVec 5) (x : BitVec 32) (s : State) : Out := sldr s t 2 r a (imm32 x)
/-- R208 SSTR. -/
def execSstr (t r : BitVec 4) (a : BitVec 5) (i : BitVec 8) (s : State) : Out := sstr s t 1 r a (imm8 i)
/-- R208 SSTR, with the extension word. -/
def execSstrExt (t r : BitVec 4) (a : BitVec 5) (x : BitVec 32) (s : State) : Out := sstr s t 2 r a (imm32 x)

/-! Ordering words (R146, R153, R211). -/

/-- A home byte of this module lies in scope `k` of a cell (R152). -/
def homeInScope (s : State) (c k x : Nat) : Bool :=
  let u := homeUnit x
  if isDram x then 3 ≤ k
  else if u < 2000 then
    u - 1000 = c || (1 ≤ k && clusterOf (u - 1000) = clusterOf c) || (2 ≤ k && dieOf s (u - 1000) = dieOf s c) || 3 ≤ k
  else if u < 3000 then
    (1 ≤ k && u - 2000 = clusterOf c) || (2 ≤ k && dieOfCluster s (u - 2000) = dieOf s c) || 3 ≤ k
  else (2 ≤ k && u - 3000 = dieOf s c) || 3 ≤ k

/-- A store whose home lies in scope `k` of a cell, by any window (R152): it is read off each access's place. -/
def inScope (s : State) (c k : Nat) (a : Acc) : Bool :=
  match a.loc with
  | .mcast _ => 1 ≤ k
  | .fabric _ _ => 4 ≤ k || (ownSlice s a.loc).any (homeInScope s c k)
  | .reduce _ _ => 4 ≤ k
  | .home x => homeInScope s c k x

/-- A QSYNC enters both queues (R146): later accesses wait until every earlier load has performed and every earlier
store has left and, on the own-cell-store path, applied. -/
def qsyncHold (x : Cell) : Hold :=
  ⟨x.loads.map (·.id), x.stores.map (·.id), x.stores.map (·.id)⟩

/-- A FENCE at scope `k` enters both queues (R153). -/
def fenceHold (s : State) (c k : Nat) : Hold :=
  let x := s.cell c
  ⟨x.loads.map (·.id), [], (x.stores.filter (fun q => q.blind || q.parts.any (fun g => g.any (fun p => inScope s c k p.1)))).map (·.id)⟩

/-- Put a QSYNC or FENCE in force; it waits while an earlier one is. -/
def holdAct (s : State) (h : State → Nat → Hold) : Act :=
  match s.cur with
  | .agent c _ => if held (s.cell c) then .wait s .other else .done (s.setCell c { s.cell c with hold := some (h s c) })
  | .ik _ => .done s

/-- R146, R211 QSYNC. The Innkeeper's accesses are complete at once. -/
def execQsync (t : BitVec 4) (s : State) : Out := sWord s t 1 [] (fun s1 => holdAct s1 (fun s2 c => qsyncHold (s2.cell c)))

/-- Posted writes of an Innkeeper that are not acknowledged. -/
def ikPosted (s : State) (d : Nat) : Bool := s.conns.any (fun p => p.2.retry.any (fun r => r.store = some (ikTag d, 0)))

/-- R153, R211 FENCE; a scope of 5 to 7 is out of range (R378 code 0x05). -/
def execFence (t : BitVec 4) (r : BitVec 3) (s : State) : Out :=
  sWord s t 1 [] (fun s1 =>
    if 4 < r.toNat then .flt s1 { cls := 1, code := 5 }
    else match s1.cur with
      | .ik d => if r = 4 && ikPosted s1 d then .wait s1 .other else .done s1
      | .agent _ _ => holdAct s1 (fun s2 c => fenceHold s2 c r.toNat))

/-- R211 TOK: only the token bits act. -/
def execTok (t : BitVec 4) (s : State) : Out := sWord s t 1 [] .done

end Sys2Proof.Machine
end

