-- ==== Sys2Proof/Machine/Control.lean ====
section
/-!
DEFINITION. Control transfer, the loop sequencer and the passing of words that an agent does not execute
(R38, R39, R212 to R220, R236).
-/
namespace Sys2Proof.Machine

/-! All-agent words (R39). -/

/-- The outcome queue of an engine. -/
def outq (x : Cell) (e : Engine) : List Outcome := Tab.get [] x.outq (engCode e)
/-- Append to the outcome queue of an engine. -/
def pushOut (x : Cell) (e : Engine) (o : Outcome) : Cell := { x with outq := Tab.set x.outq (engCode e) (outq x e ++ [o]) }
/-- Some outcome queue is full: 16 entries (R39). -/
def outFull (x : Cell) : Bool :=
  16 ≤ (outq x .V).length || 16 ≤ (outq x .M).length || 16 ≤ (outq x .X).length

/-- S records an outcome for V, M and X. -/
def record (s : State) (c : Nat) (o : Outcome) : State :=
  s.setCell c (pushOut (pushOut (pushOut (s.cell c) .V o) .M o) .X o)

/-- The levels that the mover's sequencer holds; the Innkeeper has none. -/
def levelsOf (s : State) : List Level :=
  match s.cur with
  | .agent c e => ((s.cell c).agent e).levels
  | .ik _ => []

/-- The structural error of R378 code 0x07. -/
def loopFlt : Flt := { cls := 1, code := 7 }

/-- A word that steers all four agents: not allowed in a loop body (R215), held while an outcome queue is full (R39),
its next PC recorded. On the Innkeeper it records no outcome (R237). -/
def bWord (s : State) (t : BitVec 4) (n : Nat) (rs : List (BitVec 5)) (k : State → Act) : Out :=
  sWord s t n rs (fun s1 =>
    match s1.cur with
    | .ik _ => k s1
    | .agent c e =>
      if !((s1.cell c).agent e).levels.isEmpty then .flt s1 loopFlt
      else if outFull (s1.cell c) then .wait s1 .outcome
      else match k s1 with
        | .jump s2 pc => .jump (record s2 c ⟨pc, none, false⟩) pc
        | r => r)

/-- A relative jump (R212). -/
def jumpBy (s : State) (t : BitVec 4) (n : Nat) (off : Word) : Out :=
  bWord s t n [] (fun s1 => .jump s1 (pcOf s1 + off))

/-- A relative jump that writes NEXT to g23 (R212). -/
def linkBy (s : State) (t : BitVec 4) (n : Nat) (off : Word) : Out :=
  bWord s t n [23] (fun s1 => .jump (gSet s1 23 (pcOf s1 + wd (4 * n))) (pcOf s1 + off))

/-- A compare-branch (R213). -/
def branch (s : State) (t : BitVec 4) (n : Nat) (a b : BitVec 5) (off : Word) (p : Word → Word → Bool) : Out :=
  bWord s t n [a, b] (fun s1 => .jump s1 (if p (gGet s1 a) (gGet s1 b) then pcOf s1 + off else pcOf s1 + wd (4 * n)))

/-- R212 J. -/
def execJ (t : BitVec 4) (o : BitVec 18) (s : State) : Out := jumpBy s t 1 (off18 o)
/-- R212 J, with the extension word. -/
def execJExt (t : BitVec 4) (o : BitVec 18) (x : BitVec 32) (s : State) : Out := jumpBy s t 2 (off50 o x)
/-- R212 JL. -/
def execJl (t : BitVec 4) (o : BitVec 18) (s : State) : Out := linkBy s t 1 (off18 o)
/-- R212 JL, with the extension word. -/
def execJlExt (t : BitVec 4) (o : BitVec 18) (x : BitVec 32) (s : State) : Out := linkBy s t 2 (off50 o x)

/-- R213 BEQ. -/
def execBeq (t : BitVec 4) (a b : BitVec 5) (o : BitVec 8) (s : State) : Out := branch s t 1 a b (off8 o) (fun x y => x == y)
/-- R213 BEQ, with the extension word. -/
def execBeqExt (t : BitVec 4) (a b : BitVec 5) (o : BitVec 32) (s : State) : Out := branch s t 2 a b (off32 o) (fun x y => x == y)
/-- R213 BNE. -/
def execBne (t : BitVec 4) (a b : BitVec 5) (o : BitVec 8) (s : State) : Out := branch s t 1 a b (off8 o) (fun x y => x != y)
/-- R213 BNE, with the extension word. -/
def execBneExt (t : BitVec 4) (a b : BitVec 5) (o : BitVec 32) (s : State) : Out := branch s t 2 a b (off32 o) (fun x y => x != y)
/-- R213 BLT. -/
def execBlt (t : BitVec 4) (a b : BitVec 5) (o : BitVec 8) (s : State) : Out := branch s t 1 a b (off8 o) (fun x y => below 0 x y)
/-- R213 BLT, with the extension word. -/
def execBltExt (t : BitVec 4) (a b : BitVec 5) (o : BitVec 32) (s : State) : Out := branch s t 2 a b (off32 o) (fun x y => below 0 x y)
/-- R213 BGE. -/
def execBge (t : BitVec 4) (a b : BitVec 5) (o : BitVec 8) (s : State) : Out := branch s t 1 a b (off8 o) (fun x y => !below 0 x y)
/-- R213 BGE, with the extension word. -/
def execBgeExt (t : BitVec 4) (a b : BitVec 5) (o : BitVec 32) (s : State) : Out := branch s t 2 a b (off32 o) (fun x y => !below 0 x y)
/-- R213 BLTN. -/
def execBltn (t : BitVec 4) (a b : BitVec 5) (o : BitVec 8) (s : State) : Out := branch s t 1 a b (off8 o) (fun x y => below 1 x y)
/-- R213 BLTN, with the extension word. -/
def execBltnExt (t : BitVec 4) (a b : BitVec 5) (o : BitVec 32) (s : State) : Out := branch s t 2 a b (off32 o) (fun x y => below 1 x y)
/-- R213 BGEN. -/
def execBgen (t : BitVec 4) (a b : BitVec 5) (o : BitVec 8) (s : State) : Out := branch s t 1 a b (off8 o) (fun x y => !below 1 x y)
/-- R213 BGEN, with the extension word. -/
def execBgenExt (t : BitVec 4) (a b : BitVec 5) (o : BitVec 32) (s : State) : Out := branch s t 2 a b (off32 o) (fun x y => !below 1 x y)

/-- R212 JR: the target must be a multiple of 4 (R382 code 0x03). -/
def execJr (t : BitVec 4) (a : BitVec 5) (s : State) : Out :=
  bWord s t 1 [a] (fun s1 =>
    if (gGet s1 a).toNat % 4 != 0 then .flt s1 { cls := 6, code := 3, addr := gGet s1 a } else .jump s1 (gGet s1 a))

/-! S words that span several steps (log 9). -/

/-- The word in progress of the S agent of a cell. -/
def setSop (s : State) (c : Nat) (o : Option SOp) : State := s.setCell c { s.cell c with sop := o }

/-- A load that the word itself waits for: entered once, its bytes handed to `k` when they have returned. -/
def selfLoad (s : State) (va : Word) (n al : Nat) (k : State → List Byte → Act) : Act :=
  match s.cur with
  | .ik d => match ikLoad s d va n al with
    | .bytes s1 b => k s1 b
    | .wait s1 => .wait s1 .other
    | .flt s1 f => .flt s1 f
  | .agent c e =>
    match (s.cell c).sop with
    | some o => match o.bytes with
      | some b => k s b
      | none => .wait s .other
    | none =>
      if !loadRoom (s.cell c) then .wait s .other
      else match checkAccess s s.cur e va n al false false with
        | (s1, .flt f) => .flt s1 f
        | (s1, .ok q) =>
          let r := enterLoad (s1.cell c) e (loadGroups [q]) .sop
          .wait (s1.setCell c { r.1 with sop := some (SOp.ofLoad r.2) }) .other

/-- The word in progress is over. -/
def endSop (s : State) : State :=
  match s.cur with
  | .agent c _ => setSop s c none
  | .ik _ => s

/-- JTAB (R214): one load of entry min(i, L); the table must be aligned to 4 (R388). L = 0 is code 0x05, which comes before the loop
structure's 0x07 (R378). -/
def jtab (s : State) (t : BitVec 4) (n : Nat) (a b : BitVec 5) (l : Nat) : Out :=
  if l = 0 then sWord s t n [a, b] (fun s1 => .flt s1 { cls := 1, code := 5 })
  else bWord s t n [a, b] (fun s1 =>
    let e := if (gGet s1 b).toNat < l then (gGet s1 b).toNat else l
    selfLoad s1 (gGet s1 a + loOf s1 a + wd (4 * e)) 4 4 (fun s2 y =>
      .jump (endSop s2) (pcOf s2 + ((BitVec.ofNat 32 (leNat y)).signExtend 64 <<< 2))))

/-- R214 JTAB. -/
def execJtab (t : BitVec 4) (a b : BitVec 5) (n : BitVec 8) (s : State) : Out := jtab s t 1 a b n.toNat
/-- R214 JTAB, with the extension word. -/
def execJtabExt (t : BitVec 4) (a b : BitVec 5) (n : BitVec 16) (s : State) : Out := jtab s t 2 a b n.toNat

/-! The loop sequencer (R215 to R220). -/

/-- Fetch `n` words from `va` (R215: S reads the whole body). -/
def fetchRun (n : Nat) (s : State) (who : Actor) (va : Word) : State × Res (List (BitVec 32)) :=
  match n with
  | 0 => (s, .ok [])
  | k + 1 =>
    match fetchWord s who va false with
    | (s1, .flt f) => (s1, .flt f)
    | (s1, .ok w) => match fetchRun k s1 who (va + 4) with
      | (s2, .flt f) => (s2, .flt f)
      | (s2, .ok r) => (s2, .ok (w :: r))

/-- A LOOP word. -/
def isLoop (w : BitVec 32) : Bool := wordTag w == 0 && fld w 18 7 == 0x6A

/-- St of R216: 1 plus the largest stage that an LSTG of the body names, inner bodies not counted; `skip` words are
still to be passed over (extension words, inner bodies). -/
def maxStage (skip : Nat) (l : List (BitVec 32)) : Nat :=
  match l with
  | [] => 1
  | w :: r =>
    match skip with
    | k + 1 => maxStage k r
    | 0 =>
      let rest := maxStage ((if eBit w then 1 else 0) + (if isLoop w then (fld w 0 8).toNat + 1 else 0)) r
      match lstgFields w with
      | some f => max (f.1.toNat + 1) rest
      | none => rest

/-- The six stride slots of level `l` as an agent copies them when it starts the level (R218, R219). -/
def copySlots (x : Cell) (l : Nat) : List Stride :=
  (List.range 6).map (fun j =>
    let w := Tab.get 0 x.lstride (6 * l + j)
    ⟨BitVec.ofNat 32 (bits w 32 32), bits w 8 2, bits w 0 5, 0⟩)

/-- The agent starts a level of `len` body words, trip T and St stages at `start`. -/
def startLevel (x : Cell) (e : Engine) (start : Word) (len trip st : Nat) : Cell :=
  let a := x.agent e
  x.setAgent e { a with levels := ⟨start, len, trip, st, 0, copySlots x a.levels.length⟩ :: a.levels }

/-- What a LOOP word itself forbids: the structure (R378 code 0x07), then the trip count (code 0x10). -/
def loopWordFlt (x : Cell) (len : Nat) (v : Word) : Option Flt :=
  let g := x.agent .S
  let stop := g.pc + 4 + wd (4 * len)
  if g.levels.length = 6 || (g.levels.head?.map (fun l => decide ((l.start + wd (4 * l.len)).toNat < stop.toNat))).getD false then some loopFlt
  else if bits v 32 32 != 0 then some { cls := 1, code := 0x10, aux2 := v }
  else none

/-- R215, R216 LOOP: the body fetched, the word's own checks, of two faults the first in the order of R361; the level started unless it runs no
iteration. -/
def execLoop (t : BitVec 4) (a : BitVec 5) (n : BitVec 8) (s : State) : Out :=
  cWord s t 1 [a] (fun s1 c =>
    let x := s1.cell c
    let g := x.agent .S
    let len := n.toNat + 1
    let start := g.pc + 4
    let stop := start + wd (4 * len)
    let v := x.greg a.toNat
    match fetchRun len s1 s1.cur start, loopWordFlt x len v with
    | (s2, .flt f), o => .flt s2 (o.elim f (firstFlt f))
    | (s2, .ok _), some f => .flt s2 f
    | (s2, .ok body), none =>
      if outFull (s2.cell c) then .wait s2 .outcome
      else
        let st := maxStage 0 body
        let trip := bits v 0 32
        if trip = 0 then .jump (record s2 c ⟨stop, none, false⟩) stop
        else
          let s3 := record s2 c ⟨start, some (len, trip, st), false⟩
          .jump (s3.setCell c (startLevel (s3.cell c) .S start len trip st)) start)

/-- The first word at an agent's PC as the fetch cache or its replay buffer holds it. -/
def wordHere (x : Cell) (e : Engine) : BitVec 32 :=
  textWord x e ((x.agent e).pc.toNat / 4)

/-- The number of words of an instruction: two where E is 1. -/
def wordCount (w : BitVec 32) : Nat := if eBit w then 2 else 1

/-- R217 LSTG: every agent reads its fields as it passes it; it governs the next word of a loop body. One with E = 1, which S refuses, is
passed by the others with its extension (R379). -/
def execLstg (g : BitVec 3) (f l : BitVec 1) (s : State) : Out :=
  match s.cur with
  | .ik d => .next (ikBad s d 1)
  | .agent c e =>
    let s1 := flushSig s c e
    let n := if e = .S then 1 else wordCount (wordHere (s1.cell c) e)
    match blocked s1 c e 0 n with
    | some w => .next (waits s1 c e w)
    | none =>
      let a := (s1.cell c).agent e
      let ends := (a.levels.head?.map (fun v => decide (a.pc + wd (4 * n) = v.start + wd (4 * v.len)))).getD true
      let s2 := skipWords s1 c e n
      let b := (s2.cell c).agent e
      .next (s2.setCell c ((s2.cell c).setAgent e { b with lstg := if ends then none else some (g.toNat, f == 1, l == 1) }))

/-- R236 HALT: the S agent passes it and stops; the others take it from their outcome queues. -/
def execHalt (t : BitVec 4) (s : State) : Out :=
  cWord s t 1 [] (fun s1 c =>
    let x := s1.cell c
    let a := x.agent .S
    if !a.levels.isEmpty then .flt s1 loopFlt
    else if outFull x then .wait s1 .outcome
    else
      let s2 := record s1 c ⟨a.pc + 4, none, true⟩
      .jump (s2.setCell c ((s2.cell c).setAgent .S { (s2.cell c).agent .S with halted := true })) (a.pc + 4))

/-! Passing words that are not the agent's own. -/

/-- R38 SKIP_WORD: an agent passes a word that is not for it, or that its loop stage does not issue (R216): no effect,
no tokens. A LOOP that does not issue has its body passed once as skipped words. -/
def execSkipWord (s : State) : Out :=
  match s.cur with
  | .ik _ => .next s
  | .agent c e =>
    let s1 := flushSig s c e
    let x := s1.cell c
    let w := wordHere x e
    match blocked s1 c e 0 (wordCount w) with
    | some v => .next (waits s1 c e v)
    | none =>
      let a := x.agent e
      let target := if isLoop w && a.skipTo.isNone then some (a.pc + 4 + wd (4 * ((fld w 0 8).toNat + 1))) else a.skipTo
      .next (skipWords (s1.setCell c (x.setAgent e { a with skipTo := target })) c e (wordCount w))

/-- R39 OUTCOME_TAKE: V, M or X takes the oldest entry of its outcome queue and goes on where it says; V only once
every V word has landed (R198); what M takes past step words not retired is logged (R68). -/
def execOutcomeTake (s : State) : Out :=
  match s.cur with
  | .ik _ => .next s
  | .agent c e =>
    if e = .S then .next s
    else
      let s1 := flushSig s c e
      let x := s1.cell c
      let n := wordCount (wordHere x e)
      match blocked s1 c e 0 n with
      | some v => .next (waits s1 c e v)
      | none =>
        if e = .V && !x.pend.isEmpty then .next (waits s1 c e .other)
        else match outq x e with
          | [] => .next (waits s1 c e .outcome)
          | o :: r =>
            let x1 := { x with outq := Tab.set x.outq (engCode e) r }
            let x2 := match o.loop with
              | some l => startLevel x1 e o.pc l.1 l.2.1 l.2.2
              | none => x1
            let past := e = .M && (s1.cluster (clusterOf c)).steps.any (fun m => m.cell = c)
            let x3 := { x2.setAgent e { x2.agent e with halted := o.ended } with
              mlog := if past then x2.mlog ++ [((x.agent e).dpos, some o)] else x2.mlog }
            .next (retireAt (s1.setCell c x3) c e 0 n o.pc)

end Sys2Proof.Machine
end

