-- ==== Sys2Proof/Machine/Flags.lean ====
section
/-!
DEFINITION. Number formats, rounding and the flag code (R95 to R106, R113, R408, R409): exact values, the one
rounding of a result, conversions, and the arithmetic of one lane. A result comes with the flag code of its events.
-/
namespace Sys2Proof.Machine

/-! Flag codes (R113). -/

/-- O, overflow. -/
def flagO : BitVec 4 := 1
/-- S, saturation. -/
def flagS : BitVec 4 := 2
/-- I, invalid. -/
def flagI : BitVec 4 := 4
/-- N, skipped-non-finite. -/
def flagN : BitVec 4 := 8
/-- A flag code that is set where `b` holds. -/
def flagIf (b : Bool) (f : BitVec 4) : BitVec 4 := if b then f else 0

/-! Types (R172). -/

/-- ETYPE codes 0x0 to 0x5. -/
def isInt (ty : Nat) : Bool := ty < 6
/-- ETYPE codes 0x6 to 0xA. -/
def isFloat (ty : Nat) : Bool := 6 ≤ ty && ty < 11
/-- `i8`, `i16`, `i32`. -/
def isSigned (ty : Nat) : Bool := ty < 3
/-- The lane width of a type code (R169). -/
def widthOf (ty : Nat) : Nat :=
  if ty = 0 || ty = 3 || ty = 9 || ty = 10 then 8 else if ty = 1 || ty = 4 || ty = 7 || ty = 8 then 16 else 32
/-- The lane count of a type code. -/
def lanesOf (ty : Nat) : Nat := 2048 / widthOf ty

/-- A float format (R95): fraction width, exponent width, bias, whether it has infinities. -/
structure Fmt where
  F : Nat
  E : Nat
  B : Nat
  inf : Bool
  deriving DecidableEq, Repr

/-- The format of a float type code. -/
def fmtOf (ty : Nat) : Fmt :=
  if ty = 7 then ⟨10, 5, 15, true⟩
  else if ty = 8 then ⟨7, 8, 127, true⟩
  else if ty = 9 then ⟨3, 4, 7, false⟩
  else if ty = 10 then ⟨2, 5, 15, true⟩
  else ⟨23, 8, 127, true⟩

/-- FP32. -/
def fp32 : Fmt := fmtOf 6

/-! Exact values. -/

/-- An exact value: a NaN, an infinity, or (-1)^neg × m × 2^e. -/
inductive Num where
  | nan
  | inf (neg : Bool)
  | fin (neg : Bool) (m : Nat) (e : Int)
  deriving DecidableEq, Repr

/-- The magnitude bits of the largest finite value. -/
def maxMag (f : Fmt) : Nat := if f.inf then (2 ^ f.E - 2) * 2 ^ f.F + (2 ^ f.F - 1) else (2 ^ f.E - 1) * 2 ^ f.F + (2 ^ f.F - 2)
/-- The bits of an infinity. -/
def infBits (f : Fmt) (neg : Bool) : Nat := b2n neg * 2 ^ (f.E + f.F) + (2 ^ f.E - 1) * 2 ^ f.F
/-- The canonical NaN (R97). -/
def nanBits (f : Fmt) : Nat := if f.inf then (2 ^ f.E - 1) * 2 ^ f.F + 2 ^ (f.F - 1) else (2 ^ f.E - 1) * 2 ^ f.F + (2 ^ f.F - 1)
/-- A zero of a sign. -/
def zeroBits (f : Fmt) (neg : Bool) : Nat := b2n neg * 2 ^ (f.E + f.F)

/-- The value of a code of a float format (R96). -/
def decodeFloat (f : Fmt) (b : Nat) : Num :=
  let s := b / 2 ^ (f.E + f.F) % 2 = 1
  let e := b / 2 ^ f.F % 2 ^ f.E
  let m := b % 2 ^ f.F
  if e = 0 then .fin s m (1 - (f.B : Int) - f.F)
  else if e = 2 ^ f.E - 1 && f.inf then (if m = 0 then .inf s else .nan)
  else if e = 2 ^ f.E - 1 && m = 2 ^ f.F - 1 then .nan
  else .fin s (2 ^ f.F + m) ((e : Int) - f.B - f.F)

/-! Rounding (R99). -/

/-- A non-negative fraction rounded to a whole number in mode `rm`, for a value of sign `neg`. -/
def roundWhole (rm : Nat) (neg : Bool) (num den : Nat) : Nat :=
  let q := num / den
  let r := num % den
  if r = 0 then q
  else if rm = 0 then (if den < 2 * r || (2 * r = den && q % 2 = 1) then q + 1 else q)
  else if rm = 2 then (if neg then q + 1 else q)
  else if rm = 3 then (if neg then q else q + 1)
  else q

/-- Two to an integer power as a fraction. -/
def pow2 (e : Int) : Nat × Nat := if 0 ≤ e then (2 ^ e.toNat, 1) else (1, 2 ^ (-e).toNat)

/-- The largest k with 2^k at most num/den. -/
def floorLog2 (num den : Nat) : Int :=
  let e : Int := (Nat.log2 num : Int) - Nat.log2 den
  let p := pow2 e
  if num * p.2 < den * p.1 then e - 1 else e

/-- The outcome of a rounded magnitude beyond the largest finite value (R99 step 2). -/
def overflowed (f : Fmt) (rm : Nat) (neg : Bool) : Nat × BitVec 4 :=
  let sgn := zeroBits f neg
  if !f.inf then (sgn + maxMag f, flagS)
  else if rm = 0 || (rm = 3 && !neg) || (rm = 2 && neg) then (infBits f neg, flagO)
  else (sgn + maxMag f, flagO)

/-- (-1)^neg × num/den rounded once into a float format (R99). -/
def roundFrac (f : Fmt) (rm : Nat) (neg : Bool) (num den : Nat) : Nat × BitVec 4 :=
  if num = 0 then (zeroBits f neg, 0)
  else
    let q := max (floorLog2 num den) (1 - (f.B : Int)) - f.F
    let p := pow2 q
    let m := roundWhole rm neg (num * p.2) (den * p.1)
    let up := 2 ^ (f.F + 1) ≤ m
    let m1 := if up then m / 2 else m
    let q1 := if up then q + 1 else q
    let mag := if 2 ^ f.F ≤ m1 then (q1 + f.F + f.B).toNat * 2 ^ f.F + (m1 - 2 ^ f.F) else m1
    if maxMag f < mag then overflowed f rm neg else (zeroBits f neg + mag, 0)

/-- An exact value rounded into a float format; a NaN gives the canonical NaN, an infinity has no code in E4M3
(R100). -/
def roundNum (f : Fmt) (rm : Nat) (x : Num) : Nat × BitVec 4 :=
  match x with
  | .nan => (nanBits f, 0)
  | .inf s => if f.inf then (infBits f s, 0) else (nanBits f, flagI)
  | .fin s m e => let p := pow2 e; roundFrac f rm s (m * p.1) p.2

/-! Integers. -/

/-- The whole number that a code of an integer type stands for. -/
def intValue (ty w b : Nat) : Int := if isSigned ty && 2 ^ (w - 1) ≤ b % 2 ^ w then ((b % 2 ^ w : Nat) : Int) - 2 ^ w else ((b % 2 ^ w : Nat) : Int)
/-- The smallest value of an integer type of `w` bits. -/
def intMin (ty w : Nat) : Int := if isSigned ty then -(2 ^ (w - 1)) else 0
/-- The largest value of an integer type of `w` bits. -/
def intMax (ty w : Nat) : Int := if isSigned ty then 2 ^ (w - 1) - 1 else 2 ^ w - 1
/-- A whole number modulo 2^w. -/
def intBits (w : Nat) (x : Int) : Nat := (x % 2 ^ w).toNat
/-- Sat to an integer type, with its flag. -/
def satInt (ty w : Nat) (x : Int) : Nat × BitVec 4 :=
  if x < intMin ty w then (intBits w (intMin ty w), flagS)
  else if intMax ty w < x then (intBits w (intMax ty w), flagS)
  else (intBits w x, 0)

/-- The exact value of a lane of any type. -/
def laneValue (ty b : Nat) : Num :=
  if isInt ty then let v := intValue ty (widthOf ty) b; .fin (decide (v < 0)) v.natAbs 0
  else decodeFloat (fmtOf ty) b

/-- Convert (R100): a lane of type `a` to type `t` in a rounding mode. -/
def convert (a t rm b : Nat) : Nat × BitVec 4 :=
  if isInt t then
    if isInt a then satInt t (widthOf t) (intValue a (widthOf a) b)
    else match decodeFloat (fmtOf a) b with
      | .nan => (0, flagI)
      | .inf s => (intBits (widthOf t) (if s then intMin t (widthOf t) else intMax t (widthOf t)), flagS)
      | .fin s m e =>
        let p := pow2 e
        let k := roundWhole rm s (m * p.1) p.2
        satInt t (widthOf t) (if s then -(k : Int) else k)
  else roundNum (fmtOf t) rm (laneValue a b)

/-! The arithmetic of exact values. -/

/-- The sign flipped. -/
def Num.neg : Num → Num
  | .nan => .nan
  | .inf s => .inf (!s)
  | .fin s m e => .fin (!s) m e

/-- A value as a whole number of units of 2^u. -/
def Num.units (u : Int) : Num → Int
  | .fin s m e => let v : Int := m * 2 ^ (e - u).toNat; if s then -v else v
  | _ => 0

/-- The least exponent of finite values in a list; `z` where there is none. -/
def leastExp (z : Int) (l : List Num) : Int :=
  l.foldl (fun u x => match x with | .fin _ _ e => min u e | _ => u) z

/-- x is a NaN. -/
def Num.isNan : Num → Bool | .nan => true | _ => false
/-- x is an infinity of this sign. -/
def Num.isInf (s : Bool) : Num → Bool | .inf t => s == t | _ => false
/-- x is -0. -/
def Num.isNegZero : Num → Bool | .fin true 0 _ => true | _ => false
/-- x is finite. -/
def Num.finite : Num → Bool | .fin _ _ _ => true | _ => false
/-- x is zero. -/
def Num.isZero : Num → Bool | .fin _ 0 _ => true | _ => false

/-- The exact sum (R99 for a zero sum; R101 for specials): a NaN addend gives a NaN with no flag, opposite infinities
give a NaN and I. -/
def exactSum (rm : Nat) (l : List Num) : Num × BitVec 4 :=
  if l.any Num.isNan then (.nan, 0)
  else if l.any (Num.isInf false) && l.any (Num.isInf true) then (.nan, flagI)
  else if l.any (Num.isInf false) then (.inf false, 0)
  else if l.any (Num.isInf true) then (.inf true, 0)
  else
    let u := leastExp 0 l
    let t := l.foldl (fun t x => t + x.units u) (0 : Int)
    if t = 0 then (.fin (if !l.isEmpty && l.all Num.isNegZero then true else rm = 2) 0 0, 0)
    else (.fin (decide (t < 0)) t.natAbs u, 0)

/-- The exact product; a zero takes the exclusive OR of the signs; 0 × ∞ is invalid (R101). -/
def exactMul (a b : Num) : Num × BitVec 4 :=
  match a, b with
  | .nan, _ => (.nan, 0)
  | _, .nan => (.nan, 0)
  | .inf s, .inf t => (.inf (s != t), 0)
  | .inf s, .fin t m _ => if m = 0 then (.nan, flagI) else (.inf (s != t), 0)
  | .fin t m _, .inf s => if m = 0 then (.nan, flagI) else (.inf (s != t), 0)
  | .fin s m e, .fin t n f => (.fin (s != t) (m * n) (e + f), 0)

/-- x below y; neither is a NaN. -/
def numLt (x y : Num) : Bool :=
  match x, y with
  | .inf s, .inf t => s && !t
  | .inf s, _ => s
  | _, .inf t => !t
  | a, b => let u := leastExp 0 [a, b]; decide (a.units u < b.units u)

/-- x equals y; -0 equals +0; neither is a NaN. -/
def numEq (x y : Num) : Bool := !numLt x y && !numLt y x

/-- x is negative, or -0. -/
def Num.sign : Num → Bool
  | .nan => false | .inf s => s | .fin s _ _ => s

/-- x below y with -0 below +0 (R112, R241). -/
def ordLt (x y : Num) : Bool := numLt x y || (numEq x y && x.sign && !y.sign)

/-! Float operations of one lane (R101, R241, R243). -/

/-- A rounded exact result with its flags. -/
def roundPair (f : Fmt) (rm : Nat) (p : Num × BitVec 4) : Nat × BitVec 4 :=
  let r := roundNum f rm p.1
  match p.1 with
  | .fin _ _ _ => (r.1, p.2 ||| r.2)
  | .nan => (nanBits f, p.2)
  | .inf _ => (r.1, p.2 ||| r.2)

/-- a + b. -/
def fAdd (f : Fmt) (rm a b : Nat) : Nat × BitVec 4 := roundPair f rm (exactSum rm [decodeFloat f a, decodeFloat f b])
/-- a - b. -/
def fSub (f : Fmt) (rm a b : Nat) : Nat × BitVec 4 := roundPair f rm (exactSum rm [decodeFloat f a, (decodeFloat f b).neg])
/-- a × b. -/
def fMul (f : Fmt) (rm a b : Nat) : Nat × BitVec 4 := roundPair f rm (exactMul (decodeFloat f a) (decodeFloat f b))

/-- c + a × b, or c - a × b, rounded once; 0 × ∞ is invalid even where the addend is a NaN (R243). -/
def fMulAdd (f : Fmt) (rm : Nat) (sub : Bool) (c a b : Nat) : Nat × BitVec 4 :=
  let p := exactMul (decodeFloat f a) (decodeFloat f b)
  let q := exactSum rm [decodeFloat f c, if sub then p.1.neg else p.1]
  roundPair f rm (q.1, p.2 ||| q.2)

/-- a / b (R101, R241): 0/0 and ∞/∞ are invalid; a finite non-zero value over zero is an infinity with no flag. -/
def fDiv (f : Fmt) (rm a b : Nat) : Nat × BitVec 4 :=
  match decodeFloat f a, decodeFloat f b with
  | .nan, _ => (nanBits f, 0)
  | _, .nan => (nanBits f, 0)
  | .inf _, .inf _ => (nanBits f, flagI)
  | .inf s, .fin t _ _ => roundNum f rm (.inf (s != t))
  | .fin s _ _, .inf t => (zeroBits f (s != t), 0)
  | .fin s m e, .fin t n g =>
    if n = 0 then (if m = 0 then (nanBits f, flagI) else if f.inf then (infBits f (s != t), 0) else (nanBits f, 0))
    else
      let p := pow2 (e - g)
      roundFrac f rm (s != t) (m * p.1) (n * p.2)

/-- The whole square root, from bit `k` - 1 down. -/
def rootBits (k : Nat) (n r : Nat) : Nat :=
  match k with
  | 0 => r
  | j + 1 => rootBits j n (if (r + 2 ^ j) * (r + 2 ^ j) ≤ n then r + 2 ^ j else r)

/-- √(m × 2^e) as a fraction that rounds as the root does: 40 more bits, and a half where the root is not whole. -/
def rootFrac (m : Nat) (e : Int) : Nat × Nat :=
  let k : Int := 80 + (e % 2)
  let n := m * 2 ^ k.toNat
  let r := rootBits (Nat.log2 n / 2 + 1) n 0
  let p := pow2 ((e - k) / 2)
  if r * r = n then (r * p.1, p.2) else ((2 * r + 1) * p.1, 2 * p.2)

/-- √a. -/
def fSqrt (f : Fmt) (rm a : Nat) : Nat × BitVec 4 :=
  match decodeFloat f a with
  | .nan => (nanBits f, 0)
  | .inf s => if s then (nanBits f, flagI) else (infBits f false, 0)
  | .fin s m e =>
    if m = 0 then (zeroBits f s, 0)
    else if s then (nanBits f, flagI)
    else let p := rootFrac m e; roundFrac f rm false p.1 p.2

/-- The smaller or larger (R241). -/
def fMinMax (f : Fmt) (larger : Bool) (a b : Nat) : Nat :=
  let x := decodeFloat f a
  let y := decodeFloat f b
  if x.isNan || y.isNan then nanBits f else if ordLt x y == larger then b else a

/-- A saturating sum (R241): an overflow gives the largest finite value and S instead. -/
def saturate (f : Fmt) (finite neg : Bool) (r : Nat × BitVec 4) : Nat × BitVec 4 :=
  if finite && r.2 &&& flagO != 0 then (zeroBits f neg + maxMag f, flagS) else r

/-! Q8 blocks (R102, R103, R408). -/

/-- |x| as a fraction. -/
def absFrac (x : Num) : Nat × Nat :=
  match x with
  | .fin _ m e => let p := pow2 e; (m * p.1, p.2)
  | _ => (0, 1)

/-- The larger of two fractions. -/
def maxFrac (a b : Nat × Nat) : Nat × Nat := if a.1 * b.2 < b.1 * a.2 then b else a

/-- Quantise FP32 values into codes and a scale: codes as `i8` bits, d as FP32 bits. -/
def q8Quant (x : List Nat) : List Nat × Nat × BitVec 4 :=
  let v := x.map (decodeFloat fp32)
  if v.any Num.isNan then (x.map (fun _ => 0), nanBits fp32, flagI)
  else if v.any (fun y => !y.finite) then
    (v.map (fun y => if y.isInf false then 127 else if y.isInf true then 129 else 0), infBits fp32 false, flagI)
  else
    let A := v.foldl (fun m y => maxFrac m (absFrac y)) (0, 1)
    let d := roundFrac fp32 0 false A.1 (A.2 * 127)
    let df := absFrac (decodeFloat fp32 d.1)
    if df.1 = 0 then (x.map (fun _ => 0), d.1, d.2)
    else
      let q := v.map (fun y =>
        let a := absFrac y
        let k := roundWhole 0 y.sign (a.1 * df.2) (a.2 * df.1)
        (if 127 < k then 127 else k, y.sign, decide (127 < k)))
      (q.map (fun p => intBits 8 (if p.2.1 then -(p.1 : Int) else p.1)), d.1, d.2 ||| flagIf (q.any (fun p => p.2.2)) flagS)

/-- Dequantise one code (R103). -/
def q8Deq (q d : Nat) : Nat × BitVec 4 :=
  let v := intValue 0 8 q
  roundPair fp32 0 (exactMul (.fin (decide (v < 0)) v.natAbs 0) (decodeFloat fp32 d))

/-! Z4 blocks (R104 to R106, R409). -/

/-- Four times the magnitude of code magnitude k, in eighths, of a code type (R105): the magnitude in eighths. -/
def z4Mag (t k : Nat) : Nat :=
  if t = 1 then [0, 4, 8, 12, 16, 24, 32, 48].getD k 0
  else if t = 2 then [0, 1, 2, 4, 8, 16, 32, 64].getD k 0
  else [0, 8, 16, 24, 32, 48, 64, 96].getD k 0

/-- The value of a code in eighths, with its sign (R105). -/
def z4Code (t c : Nat) : Bool × Nat :=
  if t = 0 then (if 8 ≤ c then (true, 8 * (16 - c)) else (false, 8 * c))
  else (decide (8 ≤ c), z4Mag t (c % 8))

/-- The value of a code under a scale byte (R104). -/
def z4Value (scale : Byte) (c : Nat) : Num :=
  let v := z4Code (scale.toNat / 64) c
  .fin v.1 v.2 ((scale.toNat % 64 : Nat) - 35)

/-- The largest magnitude of a sign, in eighths. -/
def z4Top (t : Nat) (neg : Bool) : Nat :=
  if t = 0 then (if neg then 64 else 56) else z4Mag t 7

/-- The codes of a sign, nearest to zero first: the zero code of the sign leads. -/
def z4Codes (t : Nat) (neg : Bool) : List Nat :=
  if t = 0 then (if neg then [0, 15, 14, 13, 12, 11, 10, 9, 8] else [0, 1, 2, 3, 4, 5, 6, 7])
  else if neg then [8, 9, 10, 11, 12, 13, 14, 15] else [0, 1, 2, 3, 4, 5, 6, 7]

/-- |a - b| of naturals. -/
def absDiff (a b : Nat) : Nat := if a < b then b - a else a - b

/-- The code nearest to |x| = num/den in eighths of the scale: ties to the smaller magnitude (R106). -/
def z4Nearest (t : Nat) (neg : Bool) (num den : Nat) : Nat :=
  let far := fun c => absDiff num ((z4Code t c).2 * den)
  (z4Codes t neg).foldl (fun b c => if far c < far b then c else b) ((z4Codes t neg).headD 0)

/-- ceil(log2(num/den)). -/
def ceilLog2 (num den : Nat) : Int :=
  let k := floorLog2 num den
  let p := pow2 k
  if num * p.2 = den * p.1 then k else k + 1

/-- Quantise FP32 values into codes of a type and EXP (R106, R409). -/
def z4Quant (t : Nat) (x : List Nat) : List Nat × Nat × BitVec 4 :=
  let v := x.map (decodeFloat fp32)
  let A := v.foldl (fun m y => maxFrac m (absFrac y)) (0, 1)
  let M := z4Top t true
  let e : Int := if A.1 = 0 then 0 else ceilLog2 (8 * A.1) (A.2 * M) + 32
  let E := if e < 0 then 0 else if 63 < e then 63 else e.toNat
  let p := pow2 ((E : Int) - 32)
  let q := v.map (fun y =>
    match y with
    | .nan => (0, flagI)
    | .inf s => ((z4Codes t s).getLastD 0, flagI)
    | .fin s _ _ =>
      let a := absFrac y
      let num := 8 * a.1 * p.2
      let den := a.2 * p.1
      if z4Top t s * den < num then ((z4Codes t s).getLastD 0, flagS)
      else (z4Nearest t s num den, 0))
  (q.map (·.1), E, q.foldl (fun f c => f ||| c.2) (flagIf (A.1 != 0 && (e < 0 || 63 < e)) flagS))

end Sys2Proof.Machine
end

