-- ==== Sys2Proof/Machine/Stream.lean ====
section
/-!
DEFINITION. Stream images and the Awl's addressing (R73, R107, R176, R177, R219, R406), and the element groups that
V words read and write through a stream (R174, R258, R259).
-/
namespace Sys2Proof.Machine

/-- `n` bits of an image from bit `lo` of the byte at `off`. -/
def imgBits (i : Image) (off lo n : Nat) : Nat := i.toNat / 2 ^ (8 * off + lo) % 2 ^ n
/-- An image with those bits replaced. -/
def imgSet (i : Image) (off lo n v : Nat) : Image :=
  (i &&& ~~~ (BitVec.ofNat 1024 ((2 ^ n - 1) * 2 ^ (8 * off + lo)))) ||| BitVec.ofNat 1024 (v % 2 ^ n * 2 ^ (8 * off + lo))

/-! Fields (R176). -/

/-- BASE. -/
def sBase (i : Image) : Nat := imgBits i 0 0 64
/-- TSTRIDE. -/
def sTstride (i : Image) : Nat := imgBits i 8 32 32
/-- NTILES. -/
def sNtiles (i : Image) : Nat := imgBits i 8 16 16
/-- HEAD. -/
def sHead (i : Image) : Nat := imgBits i 0x10 48 16
/-- TAIL. -/
def sTail (i : Image) : Nat := imgBits i 0x10 32 16
/-- ROWS. -/
def sRows (i : Image) : Nat := imgBits i 0x10 16 16
/-- COLS. -/
def sCols (i : Image) : Nat := imgBits i 0x10 0 16
/-- EFMT. -/
def sEfmt (i : Image) : Nat := imgBits i 0x18 60 4
/-- BDIM. -/
def sBdim (i : Image) : Nat := imgBits i 0x18 59 1
/-- BLEN. -/
def sBlen (i : Image) : Nat := imgBits i 0x18 40 8
/-- LEVELS. -/
def sLevels (i : Image) : Nat := imgBits i 0x18 32 8
/-- SBASE. -/
def sSbase (i : Image) : Nat := imgBits i 0x20 0 64
/-- SRING. -/
def sSring (i : Image) : Nat := imgBits i 0x28 32 32
/-- SSTRIDE. -/
def sSstride (i : Image) : Nat := imgBits i 0x28 0 32
/-- BOUNDj. -/
def sBound (i : Image) (j : Nat) : Nat := imgBits i (0x30 + 8 * j) 32 32
/-- STRIDEj, signed. -/
def sStride (i : Image) (j : Nat) : Int := (BitVec.ofNat 32 (imgBits i (0x30 + 8 * j) 0 32)).toInt
/-- IDXj. -/
def sIdx (i : Image) (j : Nat) : Nat := imgBits i (0x60 + 4 * j) 0 32
/-- Tiles present: (TAIL - HEAD) mod 2^16. -/
def sCount (i : Image) : Nat := (sTail i + 2 ^ 16 - sHead i) % 2 ^ 16
/-- The image with HEAD replaced. -/
def setHead (i : Image) (h : Nat) : Image := imgSet i 0x10 48 16 h
/-- The image with TAIL replaced. -/
def setTail (i : Image) (h : Nat) : Image := imgSet i 0x10 32 16 h

/-- Elements in a tile. -/
def tileSize (i : Image) : Nat := sRows i * sCols i
/-- Bytes of an element: one or more of a plain format; 0 marks the block formats `z4` and `q8`. -/
def elemBytes (ef : Nat) : Nat := if ef < 11 then (if ef = 0 || ef = 3 || ef = 9 || ef = 10 then 1 else if ef = 1 || ef = 4 || ef = 7 || ef = 8 then 2 else 4) else 0
/-- BLEN of a format. -/
def blenOf (ef : Nat) : Nat := if ef = 11 then 32 else if ef = 12 then 64 else 0

/-- The image is invalid (R406). ROWS or COLS above the 4,096 of R176 does not make it so: R406 does not list it (log 66, DESIGN CHOICE). -/
def invalidImage (i : Image) : Bool :=
  let n := sLevels i
  ([ sNtiles i = 0, sRows i = 0, sCols i = 0, n = 0, 6 < n, 13 ≤ sEfmt i, sBlen i != blenOf (sEfmt i)
  , ((List.range n).map (sBound i)).foldl (· * ·) 1 != tileSize i, sNtiles i < sCount i
  , (List.range 6).any (fun j => if j < n then sBound i j ≤ sIdx i j else sIdx i j != 0)
  , imgBits i 8 0 16 != 0, imgBits i 0x18 48 11 != 0, imgBits i 0x18 0 32 != 0, imgBits i 0x78 0 64 != 0 ] : List Bool).any id

/-- The IDX fields as a position in the tile: level LEVELS - 1 is fastest (R177). -/
def tilePos (i : Image) : Nat := (List.range (min (sLevels i) 6)).foldl (fun p j => p * sBound i j + sIdx i j) 0

/-- The indices of the levels at position `k`, from level `j` - 1 down: (level, index). -/
def levelIdx (i : Image) (j k : Nat) : List (Nat × Nat) :=
  match j with
  | 0 => []
  | l + 1 => let b := max 1 (sBound i l); (l, k % b) :: levelIdx i l (k / b)

/-- The image with its IDX fields at position `k`. -/
def setPos (i : Image) (k : Nat) : Image :=
  (levelIdx i (min (sLevels i) 6) k).foldl (fun t p => imgSet t (0x60 + 4 * p.1) 0 32 p.2) i

/-- The block number and the place in the block of element `k` of a `z4` or `q8` tile (R177). -/
def blockOf (i : Image) (k : Nat) : Nat × Nat :=
  let b := blenOf (sEfmt i)
  let r := k / sCols i
  let c := k % sCols i
  if sBdim i = 0 then (r * ((sCols i + b - 1) / b) + c / b, c % b) else (r / b * sCols i + c, r % b)

/-- NB: the blocks of one tile (R177). -/
def blockCount (i : Image) : Nat :=
  let b := blenOf (sEfmt i)
  if sBdim i = 0 then sRows i * ((sCols i + b - 1) / b) else (sRows i + b - 1) / b * sCols i

/-- The byte offset of element `k` from its tile slot (R177); a `z4` code shares its byte. -/
def elemOffset (i : Image) (k : Nat) : Int :=
  if sEfmt i < 11 then (levelIdx i (min (sLevels i) 6) k).foldl (fun t p => t + p.2 * sStride i p.1) (0 : Int)
  else
    let b := blockOf i k
    if sEfmt i = 11 then (16 * b.1 + b.2 / 2 : Nat) else (68 * b.1 + b.2 : Nat)

/-- The address of element `k` of tile `h`, LO added to BASE (R177, R219). -/
def elemAddr (i : Image) (lo : Word) (h k : Nat) : Word :=
  wd (sBase i) + lo + wd (h % sNtiles i * sTstride i) + BitVec.ofInt 64 (elemOffset i k)

/-- The byte offset of an element in the bank that backs a stream: BASE reads as 0 (R264). -/
def bankAddr (i : Image) (h k : Nat) : Int := (h % sNtiles i * sTstride i : Nat) + elemOffset i k

/-- The address of scale byte `b` of tile `h` (R107). -/
def scaleAddr (i : Image) (h b : Nat) : Word :=
  let off := (h * blockCount i + b) * sSstride i
  wd (sSbase i + (if sSring i = 0 then off else off % sSring i))

/-- Stream register `n` of a cell replaced. -/
def Cell.setStream (x : Cell) (n : Nat) (i : Image) : Cell := { x with s := Tab.set x.s n i }

/-- The bank that backs a stream, if one does (R264). -/
def bankOf (x : Cell) (n : Nat) : Option Nat := (x.lent.find? (fun p => p.2 = n)).map (·.1)

/-! Banks that back a stream (R264): byte k of a bank is byte k mod 256 of v(8b + k/256). -/

/-- A byte of a lent bank. -/
def bankByte (x : Cell) (b k : Nat) : Byte := BitVec.ofNat 8 ((x.vreg (8 * b + k / 256)).toNat / 2 ^ (8 * (k % 256)))

/-- A byte of a lent bank written. -/
def bankPut (x : Cell) (b k : Nat) (v : Byte) : Cell :=
  let r := 8 * b + k / 256
  let o := 8 * (k % 256)
  let y := (x.vreg r &&& ~~~ (BitVec.ofNat 2048 (255 * 2 ^ o))) ||| BitVec.ofNat 2048 (v.toNat * 2 ^ o)
  { x with v := Tab.set x.v r y }

/-- The bytes of an element of a bank-backed stream; none where it would leave the bank. -/
def bankElem (x : Cell) (i : Image) (b h k n : Nat) : Option (List Byte) :=
  let a := bankAddr i h k
  if a < 0 || 2048 < a + n then none else some ((List.range n).map (fun j => bankByte x b (a.toNat + j)))

/-- An element at this position of tile `h` would leave its bank. -/
def bankOut (i : Image) (h n k : Nat) : Bool := let a := bankAddr i h k; decide (a < 0) || decide (2048 < a + n)

/-- The fault of the first of these elements that lies outside its bank (R382 code 0x04); BASE reads as 0 (R264). -/
def bankFlt (i : Image) (h n : Nat) (write : Bool) (l : List Nat) : Option Flt :=
  (l.find? (bankOut i h n)).map (fun k => { cls := 6, code := 4, addr := BitVec.ofInt 64 (bankAddr i h k), aux := accAux write true n })

/-- The bytes of the elements at positions `l` of the head tile of a bank-backed stream. -/
def bankGroup (x : Cell) (i : Image) (b n : Nat) (l : List Nat) : Option (List Byte) :=
  match l with
  | [] => some []
  | k :: r => match bankElem x i b (sHead i) k n, bankGroup x i b n r with
    | some y, some z => some (y ++ z)
    | _, _ => none

/-! Rings: an element lies in the cell store or the cluster scratchpad (R73). -/

/-- The home run of an element lies at a level that a ring may use. -/
def ringLevel (c : Nat) (a : Acc) : Bool :=
  match a.loc with
  | .home x => a.key.isNone && (decide (cellHome c ≤ x) && decide (x + a.len ≤ cellHome c + 2 ^ 21)
      || decide (clusterHome (clusterOf c) ≤ x) && decide (x + a.len ≤ clusterHome (clusterOf c) + 2 ^ 23))
  | _ => false

/-- The check of an access that must lie in the cell store or the cluster scratchpad (R382): the address, then its level (code 0x04);
a paged address lies at no such level, and is not translated. -/
def checkLevel (s : State) (c : Nat) (e : Engine) (a : Word) (n al : Nat) (write elem : Bool) : Res Chkd :=
  let bad := fun code => Res.flt { cls := 6, code := code, addr := a, aux := accAux write elem n }
  if paged a then bad ((formCode a n al).getD 4)
  else match (checkAccess s (.agent c e) e a n al write elem).2 with
    | .flt f => .flt f
    | .ok k => if k.accs.all (ringLevel c) then .ok k else bad 4

/-- Check the elements of a ring access in order. -/
def checkRing (s : State) (c : Nat) (e : Engine) (al n : Nat) (write : Bool) (l : List Word) : Res (List Chkd) :=
  match l with
  | [] => .ok []
  | a :: r =>
    match checkLevel s c e a n al write true with
    | .flt f => .flt f
    | .ok k => match checkRing s c e al n write r with
      | .flt f => .flt f
      | .ok ks => .ok (k :: ks)

/-! Element groups (R258). -/

/-- Tiles of a stream whose stores are all issued and not all applied: TAIL does not count them yet. -/
def fullTails (x : Cell) (n : Nat) : Nat := ((Tab.get [] x.tails n).filter (·.full)).length

/-- The ring has room for another tile at TAIL. -/
def ringRoom (x : Cell) (n : Nat) : Bool := sCount (x.stream n) + fullTails x n < sNtiles (x.stream n)

/-- The faults of a V word that uses a stream (R406 code 0x12; EFMT against ETYPE, code 0x13). -/
def streamFlt (x : Cell) (n ty : Nat) : Option Flt :=
  if invalidImage (x.stream n) then some { cls := 1, code := 0x12, aux2 := wd n }
  else if sEfmt (x.stream n) != ty then some { cls := 1, code := 0x13, aux2 := wd n } else none

/-- The group that the next read takes from the head tile: (first position, count c). -/
def groupOf (i : Image) (len : Nat) : Nat × Nat := (tilePos i, min len (tileSize i - tilePos i))

/-- The image after a group of `c` elements at `p` is read: IDX, and HEAD at the end of a tile. -/
def readStep (i : Image) (p c : Nat) : Image :=
  if p + c = tileSize i then setHead (setPos i 0) (sHead i + 1) else setPos i (p + c)

/-- The image after a group of `c` elements at `p` is stored; TAIL rises once the tile's stores have applied. -/
def writeStep (i : Image) (p c : Nat) : Image := if p + c = tileSize i then setPos i 0 else setPos i (p + c)

/-- TAIL rises for every oldest tile whose stores have all applied (R258). -/
def settleTails (l : List TailTile) (i : Image) : List TailTile × Image :=
  match l with
  | [] => ([], i)
  | t :: r => if t.full && t.stores.isEmpty then settleTails r (setTail i (sTail i + 1)) else (t :: r, i)

/-- Settle the tiles of stream `n`. -/
def Cell.settle (x : Cell) (n : Nat) : Cell :=
  let r := settleTails (Tab.get [] x.tails n) (x.stream n)
  { x with tails := Tab.set x.tails n r.1, s := Tab.set x.s n r.2 }

/-- Store `id` has applied: the tiles that awaited it settle. -/
def tailApplied (x : Cell) (id : Nat) : Cell :=
  let y := { x with tails := x.tails.map (fun p => (p.1, p.2.map (fun t => { t with stores := t.stores.filter (· != id) }))) }
  (x.tails.filter (fun p => p.2.any (fun t => t.stores.contains id))).foldl (fun z p => z.settle p.1) y

/-- A group of `c` elements at `p` of the tile being written, stored by `ids`. -/
def addTail (x : Cell) (n p c : Nat) (ids : List Nat) : Cell :=
  let i := x.stream n
  let l := Tab.get [] x.tails n
  let full := decide (p + c = tileSize i)
  let l1 := match l.getLast? with
    | some t => if t.full then l ++ [⟨ids, full⟩] else l.dropLast ++ [⟨t.stores ++ ids, full⟩]
    | none => [⟨ids, full⟩]
  Cell.settle { x with tails := Tab.set x.tails n l1, s := Tab.set x.s n (writeStep i p c) } n

/-- Elements written into the bank that backs a stream: (position, bytes), checked before. -/
def bankStore (x : Cell) (i : Image) (b h : Nat) (l : List (Nat × List Byte)) : Cell :=
  l.foldl (fun y q => (q.2.zip (List.range q.2.length)).foldl (fun z w => bankPut z b ((bankAddr i h q.1).toNat + w.2) w.1) y) x

/-- The ring index of the tile that the next group goes into: TAIL does not count the tiles whose stores are still to apply. -/
def tailTile (x : Cell) (n : Nat) : Nat := (sTail (x.stream n) + fullTails x n) % 2 ^ 16

/-- The stores of a cell with these numbers that have not applied. -/
def unapplied (x : Cell) (lo hi : Nat) : List Nat :=
  ((x.stores.filter (fun q => decide (lo ≤ q.id) && decide (q.id < hi) && !q.applied)).map (·.id)).eraseDups

/-- Store a group through a stream for the word of engine `e` at `pos` (R258, R259): the addresses are checked before anything is stored; `lanes`
are the active lanes below c with their bytes. The elements are one queue entry, `own` where the word has entered one, and apply one by one. -/
def storeGroup (s : State) (c : Nat) (e : Engine) (pos n : Nat) (own : Option Nat) (lo : Word) (p cnt : Nat) (lanes : List (Nat × List Byte)) (w : Nat) :
    State × Option Flt :=
  let x := s.cell c
  let i := x.stream n
  let h := tailTile x n
  match bankOf x n with
  | some b => match bankFlt i h w true (lanes.map (fun q => p + q.1)) with
    | some f => (s, some f)
    | none =>
      let y := match own with | some id => dropAwaiting x id | none => x
      (drain 288 (s.setCell c (addTail (bankStore y i b h (lanes.map (fun q => (p + q.1, q.2)))) n p cnt [])) c, none)
  | none =>
    match checkRing s c e w w true (lanes.map (fun q => elemAddr i lo h (p + q.1))) with
    | .flt f => (s, some f)
    | .ok ks =>
      let s2 := issueStore s c e pos own ((ks.zip lanes).map (fun q => deal q.1.accs q.2.2))
      let still := match own with
        | some id => unapplied (s2.cell c) id (id + 1)
        | none => unapplied (s2.cell c) x.nextId (s2.cell c).nextId
      (s2.setCell c (addTail (s2.cell c) n p cnt still), none)

end Sys2Proof.Machine
end

