-- ==== Sys2Proof/Machine/Channel.lean ====
section
/-!
DEFINITION. Channels (R173, R174, R210, R227, R330, R384): the binding in force, pops and peeks, reserved slots and
pushes, and the S words that use them.
-/
namespace Sys2Proof.Machine

/-! Shapes (R171, R172). -/

/-- VSHAPE.ETYPE. -/
def etype (sh : Word) : Nat := bits sh 0 4
/-- VSHAPE.LEN. -/
def shapeLen (sh : Word) : Nat := bits sh 9 9
/-- VSHAPE.MSEL. -/
def msel (sh : Word) : Nat := bits sh 19 3
/-- VSHAPE.RM. -/
def shapeRm (sh : Word) : Nat := bits sh 22 2
/-- Lane width of a shape. -/
def laneW (sh : Word) : Nat := widthOf (etype sh)
/-- Lane count of a shape. -/
def laneN (sh : Word) : Nat := lanesOf (etype sh)

/-- Lane `i` is active: below LEN and, for a masked word, its mask bit is 1 (R171). -/
def activeLane (sh : Word) (m : BitVec 64) (masked : Bool) (i : Nat) : Bool :=
  decide (i < shapeLen sh) && (!masked || m.getLsbD (i * 64 / laneN sh))

/-- Lane `i` of width `w`. -/
def laneAt (w : Nat) (v : VReg) (i : Nat) : Nat := v.toNat / 2 ^ (w * i) % 2 ^ w

/-- A register from its lanes of width `w`, lane 0 first. -/
def ofLanes (w : Nat) (l : List Nat) : VReg := BitVec.ofNat 2048 (l.foldr (fun x r => x % 2 ^ w + 2 ^ w * r) 0)

/-! Bindings (R174). -/

/-- The binding in force: one written while the channel holds entries takes effect in the cycle after the last of them leaves. -/
def effBind (h : Chan) : Word := h.act
/-- A written binding is not in force yet. -/
def pendingBind (h : Chan) : Bool := h.pending
/-- A channel whose CHBIND is written: with no entry in it the new binding takes effect at once. A channel that is bound anew keeps its credits, also
for another network port (log 66, DESIGN CHOICE: R330 does not say what they become). -/
def writeBind (h : Chan) (w : Word) : Chan := { h with bind := w, act := if h.q.isEmpty then w else h.act, pending := !h.q.isEmpty }
/-- KIND of a binding. -/
def bKind (b : Word) : Nat := bits b 0 3
/-- WAIT of a binding. -/
def bWait (b : Word) : Bool := bit b 7
/-- PARAM of a binding. -/
def bParam (b : Word) : Nat := bits b 32 32

/-- A class 0x02 fault (R358, R384). -/
def chanFlt (h : Chan) (n code : Nat) : Flt := { cls := 2, code := code, aux := wd (n + 256 * (h.q.filter (fun q => q.val.isSome)).length) }

/-- NETPp of a cell (R330). -/
def netpOf (x : Cell) (p : Nat) : Word := Tab.get 0 x.netp p
/-- NETP.PEER. -/
def netPeer (w : Word) : Nat := bits w 16 9
/-- NETP.PPORT. -/
def netPport (w : Word) : Nat := bits w 8 4
/-- NETP.DIR: receive. -/
def netRecv (w : Word) : Bool := bit w 0

/-- The channel of a cell that is bound to network port `p` in the given direction; of several so bound, the lowest-numbered: the spec
does not say which (log 66, DESIGN CHOICE). -/
def portChan (x : Cell) (p : Nat) (recv : Bool) : Option Nat :=
  (List.range 16).find? (fun n => bKind (effBind (x.chan n)) = 2 && bParam (effBind (x.chan n)) % 16 = p && netRecv (netpOf x p) == recv)

/-- A pop at a receiving channel returns a credit to the sender (R330). -/
def returnCredit (s : State) (c p : Nat) : State :=
  let w := netpOf (s.cell c) p
  let y := s.cell (netPeer w)
  match portChan y (netPport w) false with
  | some n => s.setCell (netPeer w) (y.setChan n { y.chan n with credits := min 4 ((y.chan n).credits + 1) })
  | none => s

/-! Deferral batches (R174, R262). -/

/-- The first `k` entries of one handle. -/
def batch (k : Nat) (h : BitVec 32) (l : List DqEntry) : List DqEntry :=
  match k, l with
  | j + 1, e :: r => if e.handle = h then e :: batch j h r else []
  | _, _ => []

/-- The next batch: the entries of the head's handle, at most LEN of them. -/
def nextBatch (x : Cell) (len : Nat) : List DqEntry :=
  match x.dq with
  | [] => []
  | e :: _ => batch len e.handle x.dq

/-- Value `j` of an entry in a lane of width `w`: its low min(e.w, w) bits. -/
def dqValue (e : DqEntry) (w j : Nat) : Nat := e.vals.getD j 0 % 2 ^ min e.width w

/-- The register whose lanes hold value `j` of a batch. -/
def batchReg (b : List DqEntry) (w j : Nat) : VReg := ofLanes w (b.map (fun e => dqValue e w j))

/-! Pops and peeks. -/

/-- A pop or peek: the value with the load it awaits and the lanes that load fills (KIND 4), a wait, or a fault. -/
inductive PopRes where
  | got (s : State) (v : VReg) (late : Option (Nat × List Nat))
  | wait
  | flt (f : Flt)

/-- What an empty channel does (R173, R384 code 0x01). -/
def emptyRes (h : Chan) (n : Nat) : PopRes := if bWait (effBind h) then .wait else .flt (chanFlt h n 1)

/-- The channel without its head entry; a receiving network channel returns a credit. -/
def popHead (s : State) (c n : Nat) : State :=
  let x := s.cell c
  let h := x.chan n
  let b := effBind h
  let s1 := s.setCell c (x.setChan n { h with q := h.q.tail })
  if bKind b = 2 then returnCredit s1 c (bParam b % 16) else s1

/-- A pop of KIND 0, 1 or 2 (R173, R174): a token reads zero and a peek takes nothing. -/
def popPlain (s : State) (c n : Nat) (peek : Bool) : PopRes :=
  let h := (s.cell c).chan n
  match h.q with
  | ⟨_, some v⟩ :: _ => .got (if peek then s else popHead s c n) (if bKind (effBind h) = 1 then 0 else v) none
  | _ => emptyRes h n

/-- A pop of KIND 3 under a shape (R174). -/
def popBatch (s : State) (c n : Nat) (peek : Bool) (sh : Word) : PopRes :=
  let x := s.cell c
  if x.dq.isEmpty then emptyRes (x.chan n) n
  else
    let b := nextBatch x (shapeLen sh)
    .got (if peek then s else s.setCell c { x with dq := x.dq.drop b.length }) (batchReg b (laneW sh) 0) none

/-- The stream of a KIND 4 binding: the low four bits of PARAM, also where PARAM is above the 15 that R174 gives (log 66, DESIGN CHOICE; the network
port of a KIND 2 binding likewise). -/
def portStream (b : Word) : Nat := bParam b % 16

/-- The elements that a read of a stream delivers: none left, bytes that a bank gives at once, or accesses to load. -/
inductive Group where
  | now (b : List Byte)
  | load (ks : List Chkd)

/-- Check the group that a read of stream `n` delivers: the lanes it reads, below the group's count and active, and
their elements. -/
def readGroup (s : State) (c : Nat) (e : Engine) (n : Nat) (lo : Word) (sh : Word) (act : Nat → Bool) : Res (List Nat × Group) :=
  let x := s.cell c
  let i := x.stream n
  let g := groupOf i (shapeLen sh)
  let w := laneW sh / 8
  let lanes := (List.range g.2).filter act
  match bankOf x n with
  | some b => match bankFlt i (sHead i) w false (lanes.map (fun l => g.1 + l)) with
    | some f => .flt f
    | none => .ok (lanes, .now ((bankGroup x i b w (lanes.map (fun l => g.1 + l))).getD []))
  | none =>
    match checkRing s c e w w false (lanes.map (fun l => elemAddr i lo (sHead i) (g.1 + l))) with
    | .flt f => .flt f
    | .ok ks => .ok (lanes, if lanes.isEmpty then .now [] else .load ks)

/-- Each access of checked elements performs on its own (R256, R258). -/
def oneByOne (ks : List Chkd) : List (List Acc) := ks.map (fun k => k.accs)

/-- The head tile read past a group (R258). -/
def passGroup (s : State) (c n : Nat) (len : Nat) : State :=
  let x := s.cell c
  let i := x.stream n
  let g := groupOf i len
  s.setCell c (x.setStream n (readStep i g.1 g.2))

/-- The lanes of a register as loaded bytes fill them; the others keep `old`. -/
def fillLanes (w : Nat) (lanes : List Nat) (b : List Byte) (old : VReg) : VReg :=
  ofLanes w ((List.range (2048 / w)).map (fun i =>
    match lanes.findIdx? (· == i) with
    | some k => leNat ((b.drop (k * (w / 8))).take (w / 8))
    | none => laneAt w old i))

/-- A pop of KIND 4 by a V word (R174): the elements are read as a load; `k` is the source's place in the word, for the
words that have read and passed its group already. -/
def popPort (s : State) (c n k : Nat) (peek : Bool) (sh : Word) (act : Nat → Bool) : PopRes :=
  let x := s.cell c
  let h := x.chan n
  let st := portStream (effBind h)
  let pass := fun t => if peek then t else passGroup t c st (shapeLen sh)
  match Tab.look x.vpre k with
  | some q => (match q.bytes with
    | some b => .got s (fillLanes (laneW sh) q.lanes b 0) none
    | none => .wait)
  | none =>
    if imageOut x st then .wait
    else match streamFlt x st (etype sh) with
    | some f => .flt f
    | none =>
      if sCount (x.stream st) = 0 then emptyRes h n
      else if !loadRoom x then .wait
      else match readGroup s c .V st (loS (x.agent .V) st) sh act with
        | .flt f => .flt f
        | .ok (l, .now b) => .got (pass s) (fillLanes (laneW sh) l b 0) none
        | .ok (l, .load ks) =>
          let s2 := pass s
          let q := enterLoad (s2.cell c) .V (oneByOne ks) .vec
          .got (s2.setCell c q.1) 0 (some (q.2, l))

/-- A word of V that has read ahead does not issue after all: the groups that it passed are unread, its loads and its store entry leave
their queues (R359). -/
def Cell.undoAhead (x : Cell) : Cell :=
  let back := fun (i : Image) (u : Nat × Nat × Bool) => setPos (if u.2.2 then setHead i (sHead i + 65535) else i) u.2.1
  let y := (x.vpre.filterMap (·.2.undo)).foldr (fun u z => z.setStream u.1 (back (z.stream u.1) u)) x
  let gone := fun (l : Load) => x.vpre.any (fun p => p.2.load = l.id && l.dest = .vec)
  { y with vpre := [], loads := y.loads.filter (fun l => !gone l), returning := y.returning.filter (fun l => !gone l), stores := y.stores.filter (fun q => !q.blind) }

/-- A pop or peek by a V word under its shape; `act` are its active lanes and `j` the source's place in the word. A KIND of 5 to 7 is R384 code 0x03 on a
channel whose WAIT is 1 as well: the first and the last sentence of R384 leave it open (log 66, DESIGN CHOICE; `pushRoom` does the same). -/
def vPop (s : State) (c n j : Nat) (peek : Bool) (sh : Word) (act : Nat → Bool) : PopRes :=
  let h := (s.cell c).chan n
  let k := bKind (effBind h)
  if 5 ≤ k then .flt (chanFlt h n 3)
  else if k = 4 then popPort s c n j peek sh act
  else if k = 3 then popBatch s c n peek sh
  else popPlain s c n peek

/-- A pop or peek of KIND 4 by S (R174): the group is the one that VSHAPE gives at issue, which the pop passes then; the word waits for
the value as for a load. -/
def sPopPort (s : State) (c n : Nat) (peek : Bool) (k : State → VReg → Act) : Act :=
  let x := s.cell c
  let h := x.chan n
  let st := portStream (effBind h)
  match x.sop with
  | some o => match o.bytes with
    | some b => k (setSop s c none) (BitVec.ofNat 2048 (leNat b))
    | none => .wait s .other
  | none =>
    if imageOut x st then .wait s .other
    else match streamFlt x st (etype x.vshape) with
    | some f => .flt s f
    | none =>
      let pass := fun t => if peek then t else passGroup t c st (shapeLen x.vshape)
      if sCount (x.stream st) = 0 then (if bWait (effBind h) then .wait s .other else .flt s (chanFlt h n 1))
      else if !loadRoom x then .wait s .other
      else match readGroup s c .S st (loS (x.agent .S) st) x.vshape (fun _ => true) with
        | .flt f => .flt s f
        | .ok (_, .now b) => k (pass s) (BitVec.ofNat 2048 (leNat b))
        | .ok (_, .load ks) =>
            let s1 := pass s
            let q := enterLoad (s1.cell c) .S (oneByOne ks) .sop
            .wait (s1.setCell c { q.1 with sop := some (SOp.ofLoad q.2) }) .other

/-- A pop or peek by S: `k` takes the entry. -/
def sPop (s : State) (c n : Nat) (peek : Bool) (k : State → VReg → Act) : Act :=
  let x := s.cell c
  if bKind (effBind (x.chan n)) = 4 then sPopPort s c n peek k
  else match vPop s c n 0 peek x.vshape (fun _ => true) with
    | .got s1 v _ => k s1 v
    | .wait => .wait s (.chanPop n)
    | .flt f => .flt s f

/-! Pushes. -/

/-- What a push meets: room, a wait, or a fault. -/
inductive Room where
  | ok
  | wait
  | flt (f : Flt)

/-- What a full channel does (R173, R384 code 0x02). -/
def fullRes (h : Chan) (n : Nat) : Room := if bWait (effBind h) then .wait else .flt (chanFlt h n 2)

/-- Where the next push through a KIND 4 port of stream `n` goes once the pushes in flight have landed: the image with their positions
passed, and the ring index of its tile. -/
def portNext (x : Cell) (n : Nat) : Image × Nat :=
  (x.pend.filter (fun p => p.adv.any (fun a => a.1 = n))).foldl (fun (q : Image × Nat) p =>
    let g := groupOf q.1 (shapeLen p.shape)
    (writeStep q.1 g.1 g.2, if g.1 + g.2 = tileSize q.1 then (q.2 + 1) % 2 ^ 16 else q.2)) (x.stream n, tailTile x n)

/-- A push by an agent of the cell (R173, R174, R384) under a shape: `lo` is the pusher's LO for the stream of a KIND 4 binding and `act` its active
lanes, which alone are stored there, as VSTS does. A push to a pending channel is one to a full channel. -/
def pushRoom (s : State) (c n : Nat) (e : Engine) (lo : Nat → Word) (sh : Word) (act : Nat → Bool) : Room :=
  let x := s.cell c
  let h := x.chan n
  let b := effBind h
  let k := bKind b
  if pendingBind h then fullRes h n
  else if k = 3 || 5 ≤ k || (k = 2 && netRecv (netpOf x (bParam b % 16))) then .flt (chanFlt h n 3)
  else if k = 4 then
    let st := portStream b
    let i := x.stream st
    if imageOut x st then .wait
    else match streamFlt x st (etype sh) with
    | some f => .flt f
    | none =>
      if !ringRoom x st then fullRes h n
      else if !storeRoom x 1 then .wait
      else
        let q := portNext x st
        let g := groupOf q.1 (shapeLen sh)
        let w := laneW sh / 8
        let l := ((List.range g.2).filter act).map (fun l => g.1 + l)
        match (if (bankOf x st).isSome then bankFlt i q.2 w true l
          else (match checkRing s c e w w true (l.map (elemAddr i (lo st) q.2)) with | .flt f => some f | .ok _ => none)) with
        | some f => .flt f
        | none => .ok
  else if k = 2 then (if h.credits = 0 then fullRes h n else .ok)
  else if 4 ≤ h.q.length then fullRes h n
  else .ok

/-- Filled entries at the head of a sending network channel leave as flits (R330). -/
def sendFilled (l : List Slot) (f : VReg → NetFlit) : List Slot × List NetFlit :=
  match l with
  | ⟨_, some v⟩ :: r => let t := sendFilled r f; (t.1, f v :: t.2)
  | l => (l, [])

/-- Entries of a sending network channel that are filled go onto the circuit. -/
def flushNet (s : State) (c n : Nat) : State :=
  let x := s.cell c
  let h := x.chan n
  let b := h.act
  if bKind b = 2 && !netRecv (netpOf x (bParam b % 16)) then
    let w := netpOf x (bParam b % 16)
    let r := sendFilled h.q (fun v => ⟨c, n, netPeer w, netPport w, v⟩)
    { s.setCell c (x.setChan n { h with q := r.1 }) with netq := s.netq ++ r.2 }
  else s

/-- Append a slot to a channel: a sending network channel spends a credit. -/
def addSlot (s : State) (c n : Nat) (q : Slot) : State :=
  let x := s.cell c
  let h := x.chan n
  let b := effBind h
  s.setCell c (x.setChan n { h with q := h.q ++ [q], credits := if bKind b = 2 then h.credits - 1 else h.credits })

/-- Fill the slot that the V word `id` reserved. -/
def fillSlot (s : State) (c n id : Nat) (v : VReg) : State :=
  let x := s.cell c
  let h := x.chan n
  flushNet (s.setCell c (x.setChan n { h with q := h.q.map (fun q => if q.id = id && q.val.isNone then ⟨id, some v⟩ else q) })) c n

/-- The lanes of a group with the bytes that a pushed value gives them. -/
def groupLanes (v : VReg) (w cnt : Nat) (act : Nat → Bool) : List (Nat × List Byte) :=
  ((List.range cnt).filter act).map (fun i => (i, leList (w / 8) (laneAt w v i)))

/-- Push a value of the word of engine `e` at `pos` into a KIND 4 channel under a shape (R174): its active lanes are stored, in the queue entry `own`
where the word has entered one. -/
def pushPort (s : State) (c : Nat) (e : Engine) (pos st : Nat) (own : Option Nat) (lo : Word) (sh : Word) (act : Nat → Bool) (v : VReg) : State × Option Flt :=
  let i := (s.cell c).stream st
  let g := groupOf i (shapeLen sh)
  storeGroup s c e pos st own lo g.1 g.2 (groupLanes v (laneW sh) g.2 act) (laneW sh / 8)

/-- The places that a push in flight through a KIND 4 port goes to as they are known when it issues; none where a bank backs the stream (R264). -/
def portPlan (s : State) (c st : Nat) (lo : Word) (sh : Word) (act : Nat → Bool) : Option (List (List Acc)) :=
  let x := s.cell c
  let q := portNext x st
  let g := groupOf q.1 (shapeLen sh)
  let w := laneW sh / 8
  if (bankOf x st).isSome then none
  else match checkRing s c .V w w true (((List.range g.2).filter act).map (fun l => elemAddr (x.stream st) lo q.2 (g.1 + l))) with
    | .ok ks => if ks.isEmpty then none else some (oneByOne ks)
    | .flt _ => none

/-- A push by S (R173): it waits, faults or is done. -/
def sPush (s : State) (c n : Nat) (v : VReg) : Act :=
  let x := s.cell c
  let a := x.agent .S
  match pushRoom s c n .S (loS a) x.vshape (fun _ => true) with
  | .wait => .wait s (.chanPush n)
  | .flt f => .flt s f
  | .ok =>
    let b := effBind (x.chan n)
    if bKind b = 4 then
      if !storeRoom x 1 then .wait s .other
      else match pushPort s c .S a.dpos (portStream b) none (loS a (portStream b)) x.vshape (fun _ => true) v with
        | (s1, some f) => .flt s1 f
        | (s1, none) => .done s1
    else .done (flushNet (addSlot s c n ⟨x.nextId, some v⟩) c n)

/-! The words of S. -/

/-- R210 CPUSH: g(ga) into bits [63:0] of a new entry. -/
def execCpush (t c : BitVec 4) (a : BitVec 5) (s : State) : Out :=
  cWord s t 1 [a] (fun s1 p => sPush s1 p c.toNat ((gGet s1 a).setWidth 2048))

/-- R210 CPOP: gd := bits [63:0] of the head entry. -/
def execCpop (t : BitVec 4) (d : BitVec 5) (p : BitVec 1) (c : BitVec 4) (s : State) : Out :=
  cWord s t 1 [d] (fun s1 q => sPop s1 q c.toNat (p == 1) (fun s2 v => .done (gSet s2 d (v.setWidth 64))))

/-- k register `n` of a cell written. -/
def Cell.setK (x : Cell) (n : Nat) (v : BitVec 32) : Cell := { x with k := Tab.set x.k n v }

/-- R227 KPUSH: a handle into bits [31:0] of an entry. -/
def execKpush (t c k : BitVec 4) (s : State) : Out :=
  cWord s t 1 [] (fun s1 p => sPush s1 p c.toNat (((s1.cell p).kreg k.toNat).setWidth 2048))

/-- R227 KPOP: kd := bits [31:0] of the head entry. -/
def execKpop (t k c : BitVec 4) (s : State) : Out :=
  cWord s t 1 [] (fun s1 p => sPop s1 p c.toNat false (fun s2 v => .done (s2.setCell p ((s2.cell p).setK k.toNat (v.setWidth 32)))))

/-- R174 CHANNEL_REBIND: a pending binding takes effect in the cycle after the last entry has left the channel. -/
def execChannelRebind (c n : Nat) (s : State) : Out :=
  let x := s.cell c
  let h := x.chan n
  if c < 512 && n < 16 && h.q.isEmpty && h.pending then .next (s.setCell c (x.setChan n { h with act := h.bind, pending := false })) else .next s

/-- A router of a die carries the circuit from input `i` to output `o` in the slot of network cycle `t`: the selector of its table for that output
names that input (R329). -/
def routerOpen (s : State) (d t : Nat) (h : Hop) : Bool :=
  let e := (Tab.get 0 (s.die d).slots (256 * (h.router % 40) + t % 256)).toNat
  e / 2 ^ (4 * (h.output % 6)) % 16 = h.input % 6

/-- The hops of a circuit, of the 40 routers of a die at most, each with its distance from the end: a flit takes one network cycle a hop (log 67, DESIGN
CHOICE). -/
def hops (f : NetFlit) : List (Hop × Nat) := let l := (Config.circuit f.peer f.port).take 40; l.zip (List.range l.length)

/-- Every router on the way of a circuit has carried it in its slot, so that its flit arrives in this network cycle, and no other flit has come on
it in this slot (R329, log 67). -/
def circuitOpen (s : State) (f : NetFlit) : Bool :=
  (hops f).all (fun h => routerOpen s (dieOf s f.peer) (s.now / 2 + 256 - h.2) h.1) && Tab.look (s.cell f.peer).netAt f.port != some (s.now / 2)

/-- R330 NETWORK_FLIT_ARRIVE: the oldest flit that channel `n` of cell `c` sent enters the peer's receiving channel, in
push order, in a slot that carries its circuit (R329). A PEER on another die, against R330's words, is reached in the same way (log 66, DESIGN
CHOICE). -/
def execNetworkFlitArrive (c n : Nat) (s : State) : Out :=
  match s.netq.find? (fun f => f.cell = c && f.chan = n) with
  | none => .next s
  | some f =>
    let x := s.cell f.peer
    match portChan x f.port true with
    | none => .next s
    | some m =>
      if 4 ≤ (x.chan m).q.length || !circuitOpen s f then .next s
      else .next { s.setCell f.peer { x.setChan m { x.chan m with q := (x.chan m).q ++ [⟨x.nextId, some f.val⟩] } with netAt := Tab.set x.netAt f.port (s.now / 2) } with
        netq := s.netq.erase f }

end Sys2Proof.Machine
end

