-- ==== Sys2Proof/Machine/Closure.lean ====
section
/-!
DEFINITION. Closures and frames: the Guestbook and its requests (R221 to R228, R232, R392, R393) and the frame area
(R229 to R231).
-/
namespace Sys2Proof.Machine

/-! Handles (R175). -/

/-- HOME of a handle. -/
def hHome (h : BitVec 32) : Nat := h.toNat / 2 ^ 23
/-- ENV of a handle. -/
def hEnv (h : BitVec 32) : Nat := h.toNat / 2 ^ 13 % 2 ^ 10
/-- GEN of a handle. -/
def hGen (h : BitVec 32) : Nat := h.toNat % 2 ^ 13
/-- The null handle: GEN = 0. -/
def isNull (h : BitVec 32) : Bool := hGen h == 0
/-- A generation advanced: 8,191 wraps to 1. -/
def nextGen (g : Nat) : Nat := if g = 8191 then 1 else g + 1

/-- A Guestbook entry replaced. -/
def Cell.setGb (x : Cell) (n : Nat) (e : GbEntry) : Cell := { x with gb := Tab.set x.gb n e }

/-- A class 0x08 fault about a handle. -/
def closFlt (code : Nat) (h : BitVec 32) (addr aux2 : Word) : Flt := { cls := 8, code := code, addr := addr, aux := h.setWidth 64, aux2 := aux2 }

/-! The home (R224). -/

/-- GEN in the header of a frame of a cell (R229). -/
def frameGen (s : State) (c off : Nat) : Nat := leNat ((rd s (cellHome c + off) 8).drop 4 |>.take 2)

/-- The window through which a cell reaches the store of a home cell (R228). -/
def homeWindow (c home : Nat) : Word :=
  if c = home then 0xFF00000000000000 else 0xFF00000100000000 + wd (0x200000 * home)

/-- The first reference of an entry whose generation is not its frame header's: (j, its offset, its generation, the
header's). -/
def dangling (l : List (Nat × Nat)) (gen : Nat → Nat) (j : Nat) : Option (Nat × Nat × Nat × Nat) :=
  match l with
  | [] => none
  | r :: t => if gen r.1 != r.2 then some (j, r.1, r.2, gen r.1) else dangling t gen (j + 1)

/-- AUX2 of class 0x08 code 0x04. -/
def dangleAux (rg hg j : Nat) : Word := wd (rg + 2 ^ 16 * hg + 2 ^ 32 * j)

/-- One request taken at its home (R224, R225, R228, R392): the entry as it was read, or a fault; counts and generations
change only without a fault. `gen` reads a frame header's GEN. -/
def gbTake (x : Cell) (op : GbOp) (h : BitVec 32) (win : Word) (gen : Nat → Nat) : Cell × GbAck :=
  let e := x.gbEntry (hEnv h)
  let stale : GbAck := ⟨1, wd (e.gen + 2 ^ 16 * e.count), 0, e⟩
  if e.count = 0 || e.gen != hGen h then (x, stale)
  else match op with
    | .inc => if e.count = 65535 then (x, ⟨2, 65535, 0, e⟩) else (x.setGb (hEnv h) { e with count := e.count + 1 }, ⟨0, 0, 0, e⟩)
    | .dec =>
      if e.count = 1 then (x.setGb (hEnv h) { e with count := 0, gen := nextGen e.gen }, ⟨0, 0, 0, e⟩)
      else (x.setGb (hEnv h) { e with count := e.count - 1 }, ⟨0, 0, 0, e⟩)
    | .read => match dangling (e.refs.take e.nref) gen 0 with
      | some d => (x, ⟨4, dangleAux d.2.2.1 d.2.2.2 d.1, win + wd d.2.1, e⟩)
      | none => (x, ⟨0, 0, 0, e⟩)

/-- The request of another cell that a home takes next: the earliest arrival, ties in ascending agent number. -/
def nextReq (l : List GbReq) : Option GbReq :=
  l.foldl (fun b q => match b with
    | none => some q
    | some p => if q.at_ < p.at_ || (q.at_ = p.at_ && q.cell < p.cell) then some q else some p) none

/-- Take one waiting request at home `c`; its answer goes back to the asking cell. -/
def serveOne (s : State) (c : Nat) : State :=
  match nextReq (s.cell c).gbq with
  | none => s
  | some q =>
    let x := s.cell c
    let r := gbTake x q.op q.handle (homeWindow q.cell c) (frameGen s c)
    let s1 := s.setCell c { r.1 with gbq := x.gbq.erase q }
    let y := s1.cell q.cell
    s1.setCell q.cell { y with gbacks := y.gbacks ++ [r.2] }

/-- Take the requests that arrived before the present cycle, at most `n`. -/
def serveEarlier (n : Nat) (s : State) (c : Nat) : State :=
  match n with
  | 0 => s
  | k + 1 => match nextReq (s.cell c).gbq with
    | some q => if q.at_ < s.now then serveEarlier k (serveOne s c) c else s
    | none => s

/-- R224 GUESTBOOK_REQUEST: home `c` takes one request. -/
def execGuestbookRequest (c : Nat) (s : State) : Out := if c < 512 then .next (serveOne s c) else .next s

/-- R224 GUESTBOOK_ACK: the acknowledgement returns to cell `c`, whose S word awaits it. -/
def execGuestbookAck (c : Nat) (s : State) : Out :=
  let x := s.cell c
  match x.gbacks with
  | [] => .next s
  | a :: r => .next (s.setCell c { x with gbacks := r, sop := x.sop.map (fun o => if o.asked then { o with ack := some a } else o) })

/-- The cell's earlier stores on the path to a home cell's store have applied: a request travels that path (R143,
R224). -/
def pathClear (x : Cell) (home : Nat) : Bool := !x.stores.any (fun q => q.path = 2 + homeUnit (cellHome home) && !q.applied)

/-- A header's GEN as the home's own S word sees it, its own stores forwarded (R145). -/
def ownFrameGen (s : State) (c off : Nat) : Nat :=
  leNat (((loadBytes s c (s.cell c).nextId (cellHome c + off) 8 none).drop 4).take 2)

/-- A request of cell `c` at the home of `h` (R224): at once at its own Guestbook, else asked and answered; `k` goes on
with the entry. Nothing has changed where it faults (R393). -/
def gbAsk (s : State) (c : Nat) (op : GbOp) (h : BitVec 32) (k : State → GbEntry → Act) : Act :=
  let home := hHome h
  let finish := fun (s1 : State) (a : GbAck) => if a.code = 0 then k s1 a.ent else Act.flt (setSop s1 c none) (closFlt a.code h a.addr a.aux2)
  if cellCount s ≤ home then .flt (setSop s c none) (closFlt 5 h 0 0)
  else if home = c then
    let s1 := serveEarlier (s.cell c).gbq.length s c
    let r := gbTake (s1.cell c) op h (homeWindow c c) (ownFrameGen s1 c)
    finish (s1.setCell c r.1) r.2
  else
    let o := ((s.cell c).sop).getD SOp.idle
    match o.ack with
    | some a => finish s a
    | none =>
      if o.asked || !pathClear (s.cell c) home then .wait s .other
      else
        let y := s.cell home
        let s1 := s.setCell home { y with gbq := y.gbq ++ [⟨c, op, h, s.now⟩] }
        .wait (setSop s1 c (some { o with asked := true })) .other

/-- A closure word of a cell (R237: not on the Innkeeper). -/
def kWord (s : State) (t : BitVec 4) (n : Nat) (rs : List (BitVec 5)) (k : State → Nat → Act) : Out := cWord s t n rs k

/-- R225 KDUP. -/
def execKdup (t d k : BitVec 4) (s : State) : Out :=
  kWord s t 1 [] (fun s1 c =>
    let h := (s1.cell c).kreg k.toNat
    let put := fun (s2 : State) => Act.done ((setSop s2 c none).setCell c (((setSop s2 c none).cell c).setK d.toNat h))
    if isNull h then put s1 else gbAsk s1 c .inc h (fun s2 _ => put s2))

/-- R225 KDROP: of the null handle it changes nothing. -/
def execKdrop (t k : BitVec 4) (s : State) : Out :=
  kWord s t 1 [] (fun s1 c =>
    let h := (s1.cell c).kreg k.toNat
    if isNull h then .done s1 else gbAsk s1 c .dec h (fun s2 _ => .done (setSop s2 c none)))

/-- KST (R226, R393): the store is checked, once (R426), the count rises, then the store enters the queue. -/
def kst (s : State) (t : BitVec 4) (n : Nat) (k : BitVec 4) (a : BitVec 5) (i : Word) : Out :=
  kWord s t n [a] (fun s1 c =>
    let h := (s1.cell c).kreg k.toNat
    let x := s1.cell c
    let put := fun (q : List Acc × Option Nat) (s2 : State) => storeChecked (setSop s2 c none) c .S q.1 q.2 (leList 4 h.toNat)
    let ask := fun (q : List Acc × Option Nat) (s2 : State) =>
      if isMcast q.1 && !mcastClear s2 c (s2.cell c).nextId q.1 then .wait s2 .other
      else if isNull h then put q s2 else gbAsk s2 c .inc h (fun s3 _ => put q s3)
    if !storeRoom x 1 then .wait s1 .other
    else match x.sop.bind (fun o => o.chk) with
      | some q => ask q s1
      | none => match checkAccess s1 s1.cur .S (addrOf s1 a i) 4 4 true false with
        | (s2, .flt f) => .flt s2 f
        | (s2, .ok q) =>
          let p := (q.accs, q.leaf)
          if isNull h || hHome h = c then ask p s2 else ask p (setSop s2 c (some { SOp.idle with chk := some p })))

/-- R226 KST. -/
def execKst (t k : BitVec 4) (a : BitVec 5) (i : BitVec 8) (s : State) : Out := kst s t 1 k a (imm8 i)
/-- R226 KST, with the extension word. -/
def execKstExt (t k : BitVec 4) (a : BitVec 5) (x : BitVec 32) (s : State) : Out := kst s t 2 k a (imm32 x)

/-- KLD (R226, R393): the load, then the count of the handle it read; a fault leaves kd. -/
def kld (s : State) (t : BitVec 4) (n : Nat) (k : BitVec 4) (a : BitVec 5) (i : Word) : Out :=
  kWord s t n [a] (fun s1 c => selfLoad s1 (addrOf s1 a i) 4 4 (fun s2 b =>
    let h := BitVec.ofNat 32 (leNat b)
    let put := fun (s3 : State) => Act.done ((setSop s3 c none).setCell c (((setSop s3 c none).cell c).setK k.toNat h))
    if isNull h then put s2 else gbAsk s2 c .inc h (fun s3 _ => put s3)))

/-- R226 KLD. -/
def execKld (t k : BitVec 4) (a : BitVec 5) (i : BitVec 8) (s : State) : Out := kld s t 1 k a (imm8 i)
/-- R226 KLD, with the extension word. -/
def execKldExt (t k : BitVec 4) (a : BitVec 5) (x : BitVec 32) (s : State) : Out := kld s t 2 k a (imm32 x)

/-! CAPTURE (R222, R223, R392, R393). -/

/-- ROFFj and RGENj of an image. -/
def imgRef (b : List Byte) (j : Nat) : Nat × Nat := (bits (wordAt b (0x50 + 8 * j)) 0 21, bits (wordAt b (0x50 + 8 * j)) 48 16)

/-- The image breaks a limit of R392 code 0x08. -/
def badImage (b : List Byte) : Bool :=
  let q := wordAt b 8
  ([ 8 < bits q 0 4, 4 < bits q 4 3, bits q 7 57 != 0, bits (wordAt b 0) 0 2 != 0, wordAt b 0x70 != 0, wordAt b 0x78 != 0
  , (List.range 4).any (fun j => bits (wordAt b (0x50 + 8 * j)) 21 27 != 0
      || (decide (j < bits q 4 3) && (let o := (imgRef b j).1; o < 0x180000 || 0x1FFFC0 < o || o % 64 != 0))) ] : List Bool).any id

/-- The references of an image, RGEN 0 replaced by the frame's generation. -/
def takeRefs (b : List Byte) (gen : Nat → Nat) (n : Nat) : List (Nat × Nat) :=
  (List.range n).map (fun j => let r := imgRef b j; (r.1, if r.2 = 0 then gen r.1 else r.2))

/-- The lowest-numbered free entry. -/
def freeEntry (x : Cell) : Option Nat := (List.range 1024).find? (fun n => (x.gbEntry n).count = 0)

/-- A handle from its fields. -/
def mkHandle (home env gen : Nat) : BitVec 32 := BitVec.ofNat 32 (home * 2 ^ 23 + env * 2 ^ 13 + gen)

/-- R223 CAPTURE. -/
def execCapture (t k : BitVec 4) (a : BitVec 5) (s : State) : Out :=
  kWord s t 1 [a] (fun s1 c =>
    let va := addrOf s1 a 0
    selfLoad s1 va 128 128 (fun s2 b =>
      let s3 := setSop s2 c none
      let gen := ownFrameGen s3 c
      let nv := bits (wordAt b 8) 0 4
      let nr := bits (wordAt b 8) 4 3
      if badImage b then .flt s3 (closFlt 8 0 0 va)
      else match (List.range nr).find? (fun j => (imgRef b j).2 = 0 && gen (imgRef b j).1 = 0) with
        | some j => .flt s3 (closFlt 4 0 (homeWindow c c + wd (imgRef b j).1) (dangleAux 0 0 j))
        | none =>
          let s4 := serveEarlier (s3.cell c).gbq.length s3 c
          match freeEntry (s4.cell c) with
          | none => .flt s4 (closFlt 3 0 0 1024)
          | some e =>
            let x := s4.cell c
            let g := (x.gbEntry e).gen
            let ent : GbEntry := ⟨wordAt b 0, nv, nr, (List.range 8).map (fun i => if i < nv then wordAt b (0x10 + 8 * i) else 0), takeRefs b gen nr, 1, g⟩
            .done (s4.setCell c ((x.setGb e ent).setK k.toNat (mkHandle c e g)))))

/-! APPLY (R228). -/

/-- g18 to g31 as a body finds its captures. -/
def applyRegs (c : Nat) (h : BitVec 32) (e : GbEntry) (next : Word) : List (Nat × Word) :=
  let w := homeWindow c (hHome h)
  [(18, h.setWidth 64)]
    ++ (List.range 4).map (fun j => (19 + j, if j < e.nref then w + wd (e.refs.getD j (0, 0)).1 else 0))
    ++ [(23, next)] ++ (List.range 8).map (fun i => (24 + i, e.vals.getD i 0))

/-- The registers that APPLY writes. -/
def applyDst : List (BitVec 5) := [18, 19, 20, 21, 22, 23, 24, 25, 26, 27, 28, 29, 30, 31]

/-- R228 APPLY: an all-agent word; the null handle faults (R392 code 0x09). -/
def execApply (t k : BitVec 4) (s : State) : Out :=
  match s.cur with
  | .ik d => .next (ikBad s d 1)
  | .agent c _ => bWord s t 1 applyDst (fun s1 =>
    let h := (s1.cell c).kreg k.toNat
    if isNull h then .flt s1 (closFlt 9 h 0 0)
    else gbAsk s1 c .read h (fun s2 e =>
      let s3 := setSop s2 c none
      let x := (applyRegs c h e (pcOf s3 + 4)).foldl (fun y r => y.setG r.1 r.2) (s3.cell c)
      .jump (s3.setCell c x) e.entry))

/-! Frames (R229 to R231). -/

/-- The 64 bytes of a frame header. -/
def frameHeader (size gen : Nat) : List Byte := wordBytes (wd (size % 2 ^ 32 + gen * 2 ^ 32)) ++ List.replicate 56 0

/-- FGEN advanced. -/
def nextFgen (g : Nat) : Nat := if g = 65535 then 1 else g + 1

/-- R230 FRAME; the frame area exhausted is R392 code 0x06. -/
def execFrame (t : BitVec 4) (d a : BitVec 5) (s : State) : Out :=
  kWord s t 1 [d, a] (fun s1 c =>
    let x := s1.cell c
    let size := 64 + 64 * (((gGet s1 a).toNat + 63) / 64)
    if x.ftop < 0x180000 + size then .flt s1 (closFlt 6 0 0 (wd size))
    else
      let top := x.ftop - size
      let g := nextFgen x.fgen
      match storeAct s1 (homeWindow c c + wd top) (frameHeader size g) 64 with
      | .done s2 => .done (gSet (s2.setCell c { s2.cell c with ftop := top, fgen := g }) d (homeWindow c c + wd top))
      | r => r)

/-- The address reaches the base of the newest frame of the cell, by any window (R231, R392). -/
def isNewest (s : State) (c : Nat) (va : Word) : Bool :=
  let x := s.cell c
  x.ftop != 0x200000 && canonical va && !paged va && (match window s (.agent c .S) (winOff va) 8 with
    | .ok l _ => (reach s c ⟨l, 8, none, 4, va⟩).contains (cellHome c + x.ftop)
    | .bad _ => false)

/-- R231 FRPOP; an address that is not the newest frame's is R392 code 0x07. -/
def execFrpop (t : BitVec 4) (a : BitVec 5) (s : State) : Out :=
  kWord s t 1 [a] (fun s1 c =>
    let va := gGet s1 a
    if !isNewest s1 c va then .flt s1 (closFlt 7 0 va (wd (s1.cell c).ftop))
    else if !storeRoom (s1.cell c) 1 then .wait s1 .other
    else selfLoad s1 va 8 8 (fun s2 b =>
      let size := leNat (b.take 4)
      match storeAct (setSop s2 c none) va (wordBytes (wd size)) 8 with
      | .done s3 => .done (s3.setCell c { s3.cell c with ftop := (s3.cell c).ftop + size })
      | .wait _ w => .wait s2 w
      | r => r))

end Sys2Proof.Machine
end

