-- ==== Sys2Proof/Machine/System.lean ====
section
/-!
DEFINITION. Control registers: numbers, access and fields (R8, R179 to R181, R345, R453), the words SYSRD, SYSWR, TRAP and
ERET (R233 to R235, R237), and the events of register writes, FNQ and the Innkeeper's entry (R368, R371).
-/
namespace Sys2Proof.Machine

/-! Numbers (R179, R180, R345, R453). -/

/-- A number in the run of `k` from `a`. -/
def inRun (n a k : Nat) : Bool := decide (a ≤ n) && decide (n < a + k)

/-- The number is assigned. -/
def regKnown (n : Nat) : Bool :=
  [ (0, 9), (0x10, 6), (0x18, 0x48), (0x100, 4), (0x200, 0x13), (0x400, 0x140), (0x1000, 2), (0x1008, 9), (0x1100, 14), (0x1120, 18)
  , (0x1140, 18), (0x1160, 18), (0x1180, 18), (0x1200, 64), (0x1300, 12) ].any (fun r => inRun n r.1 r.2)

/-- A tile program may reach it. -/
def regProgram (n : Nat) : Bool :=
  [ (0, 8), (9, 0xF7), (0x102, 1), (0x480, 0x80), (0x1100, 1), (0x1200, 64), (0x1300, 1), (0x1304, 1), (0x1308, 4) ].any
    (fun r => inRun n r.1 r.2)

/-- RW bits (R8). -/
def rwMask (n : Nat) : Nat :=
  let m := fun hi lo => 2 ^ (hi + 1) - 2 ^ lo
  if n = 0 then m 10 0
  else if n = 1 then m 23 19 + m 17 9 + m 3 0
  else if n = 3 then m 3 0
  else if n = 5 then m 31 0
  else if n = 8 then m 55 32
  else if inRun n 0x18 36 then m 63 32 + m 9 8 + m 4 0
  else if inRun n 0x40 16 then m 63 32 + m 7 7 + m 2 0
  else if inRun n 0x50 16 then m 24 16 + m 11 8 + m 0 0
  else if n = 0x100 then m 22 9
  else if n = 0x101 then m 22 18
  else if n = 0x103 then m 47 21
  else if n = 0x200 then m 15 0
  else if n = 0x201 then m 47 24
  else if n = 0x202 || n = 0x203 || n = 0x20E then m 11 0
  else if n = 0x204 || n = 0x208 || n = 0x1104 then m 47 19
  else if n = 0x205 then m 47 16
  else if n = 0x206 || n = 0x1101 then m 0 0
  else if n = 0x209 || n = 0x20A then m 63 2
  else if n = 0x20F then m 6 0
  else if n = 0x210 then m 31 0
  else if n = 0x212 || inRun n 0x1008 8 then m 63 0
  else if inRun n 0x400 64 then m 63 7
  else if inRun n 0x440 64 then m 15 12 + m 8 7 + m 2 0
  else if inRun n 0x4C0 64 then m 15 0
  else if inRun n 0x500 64 then m 25 16 + m 9 0
  else if n = 0x1000 then m 47 13
  else if n = 0x1001 then m 63 16 + m 1 0
  else if n = 0x1010 then m 15 15 + m 9 0
  else if n = 0x1102 then m 63 32 + m 15 0
  else if n = 0x1103 then m 41 32 + m 15 0
  else if n = 0x1105 then m 47 26
  else if n = 0x1106 then m 47 14
  else if n = 0x1107 then m 47 25
  else if inRun n 0x1108 4 then m 63 63 + m 11 0
  else if n = 0x110C then m 23 16 + m 15 0
  else if n = 0x110D then m 47 40 + m 31 0
  else if inRun n 0x1120 18 then m 63 63 + m 1 0
  else if inRun n 0x1140 18 then m 63 47 + m 39 0
  else if n = 0x1301 then m 47 44 + m 11 0
  else if n = 0x1303 then m 63 63 + m 6 0
  else if n = 0x1304 then m 63 8
  else if n = 0x1305 then m 15 0
  else if n = 0x1306 then m 63 63 + m 29 0
  else 0

/-- W1C bits (R8). -/
def w1cMask (n : Nat) : Nat :=
  if n = 2 then 7 else if n = 8 then 2 ^ 56 else if n = 0x1307 then 2 ^ 63 + 2 ^ 62 else 0

/-- SLIPWIN.WIN and a stage's SLIP take effect as Sat(value, 8, 1,024) (R385). -/
def slipSat (v : Nat) : Nat := max 8 (min 1024 v)

/-- SIZE 0 to 3 stores 4 (R55). -/
def qcfgFix (v : Word) : Word := if bits v 12 4 < 4 then setBits v 12 4 4 else v

/-- A register's new value when `v` is written over `old` (R8), with the value rules of R55 and R385. -/
def fieldWrite (n : Nat) (old v : Word) : Word :=
  let rw := wd (rwMask n)
  let new := ((old &&& ~~~ rw) &&& ~~~ (v &&& wd (w1cMask n))) ||| (v &&& rw)
  if n = 0 then wd (slipSat (bits new 0 11))
  else if inRun n 0x440 64 then qcfgFix new
  else new

/-! The unit whose register a number names (R179, R367). -/

/-- The cell of a mover; on the Innkeeper the one that CLSEL selects, if the die has it. -/
def regCell (s : State) : Option Nat :=
  match s.cur with
  | .agent c _ => some c
  | .ik d =>
    let w := dreg s d 0x20F
    let p := bits w 2 5
    if p < dieClusters s d then some (4 * (firstCluster s d + p) + bits w 0 2) else none

/-- The unit number of a register for the mover: cell, cluster, die or the module. -/
def regUnit (s : State) (n : Nat) : Option Nat :=
  if n < 0x100 then regCell s
  else if n < 0x200 then (regCell s).map clusterOf
  else if n < 0x1000 then some (s.cur.die s)
  else some 0

/-! Reading. -/

/-- LOOPnCOUNT (R220): TRIP and ITER of S's level `n`, outermost 0. -/
def loopCount (x : Cell) (n : Nat) : Word :=
  match (x.agent .S).levels.reverse[n]? with
  | some l => wd (l.trip * 2 ^ 32 + l.iter)
  | none => 0

/-- The save area of cell index `i`, as an offset of the cluster scratchpad (R64). -/
def saveArea (l : Cluster) (i : Nat) : Nat := (bits l.accsave 18 5 * 2 ^ 18 + 2 ^ 18 * i) % 2 ^ 23
/-- The flag block of cell index `i` (R64). -/
def flagBlock (l : Cluster) (i : Nat) : Nat := (bits l.accsave 18 5 * 2 ^ 18 + 2 ^ 20 + 64 * i) % 2 ^ 23

/-- The flag code of tile `n` in the flag block of cell index `i` of cluster `l`. -/
def savedCode (s : State) (l i n : Nat) : BitVec 4 :=
  (memGet s.mem (clusterHome l + (flagBlock (s.cluster l) i + 8 * n) % 2 ^ 23)).setWidth 4

/-- The flag code of tile `n` as cell `c` owns it (R114, R115): in the array, else in its flag block; 0 before the first
grant of its tile (log 17). -/
def tileCode (s : State) (c n : Nat) : BitVec 4 :=
  let l := s.cluster (clusterOf c)
  if !(s.cell c).granted then 0
  else if l.owner = some (c % 4) then Tab.get 0 l.codes n
  else savedCode s (clusterOf c) (c % 4) n

/-- ACCSTAT (R114). -/
def accstat (s : State) (c : Nat) : Word := wd (((List.range 4).map (fun n => (tileCode s c n).toNat * 2 ^ (8 * n))).foldl (· + ·) 0)

/-- A cell-scope register. -/
def readCell (s : State) (c n : Nat) : Word :=
  let x := s.cell c
  if n = 0 then x.slipwin else if n = 1 then x.vshape else if n = 2 then x.vstat else if n = 3 then x.arithctl
  else if n = 4 then accstat s c else if n = 5 then x.wallow else if n = 6 then s.podtime else if n = 7 then wd c
  else if n = 8 then x.faultrec
  else if n < 0x18 then loopCount x (n - 0x10)
  else if n < 0x3C then Tab.get 0 x.lstride (n - 0x18)
  else if n < 0x40 then 0
  else if n < 0x50 then (x.chan (n - 0x40)).bind
  else Tab.get 0 x.netp (n - 0x50)

/-- GBD of a delay (R352): mV. -/
def gbdOf (delay : Nat) : Nat := 20 + (delay + 499) / 500

/-- CLWEAR (R352). A demand above 255 mV does not fit GBD: its low eight bits stand there (log 66, DESIGN CHOICE: R352 does not say what the field shows). -/
def clwear (x : Cluster) : Word := wd (gbdOf x.delay % 256 * 2 ^ 24 + x.delay % 2 ^ 20)

/-- A cluster-scope register. -/
def readCluster (x : Cluster) (n : Nat) : Word :=
  if n = 0x100 then x.sktab else if n = 0x101 then x.accsave else if n = 0x102 then clwear x else x.rplbase

/-- QCFGn as it is held: SIZE 4 at reset (R55). -/
def qcfgOf (x : Die) (n : Nat) : Word := Tab.get 0x4000 x.qcfg n
/-- 2^SIZE of a queue. -/
def qsize (x : Die) (n : Nat) : Nat := 2 ^ bits (qcfgOf x n) 12 4

/-- A die-scope register; FNQ shows its oldest entry (R368). -/
def readDie (s : State) (d n : Nat) : Word :=
  let x := s.die d
  if n = 0x20D then (x.fnq.head?.map (·.1)).getD 0
  else if n < 0x400 then dreg s d n
  else if n < 0x440 then Tab.get 0 x.qbase (n - 0x400)
  else if n < 0x480 then qcfgOf x (n - 0x440)
  else if n < 0x4C0 then Tab.get 0 x.qhead (n - 0x480)
  else if n < 0x500 then Tab.get 0 x.qtail (n - 0x4C0)
  else Tab.get 0 x.qkey (n - 0x500)

/-- The capability list (R344): entries 1 to 4 in CAP0 to CAP3 (log 18). Entry 0x04 reports all three optional features: the spec does not
say which of them this part has (log 18, DESIGN CHOICE). -/
def capWord (s : State) (i : Nat) : Word :=
  if i = 0 then wd (1 * 2 ^ 56 + 1 * 2 ^ 48 + 0x0740 * 2 ^ 32 + 0xB1 * 2 ^ 8 + 1)
  else if i = 1 then
    wd (2 * 2 ^ 56 + 2 * 2 ^ 48 + clusterCount s % 256 * 2 ^ 24
      + ([0, 1, 2, 3].map (fun d => dieClusters s d % 32 % 64 * 2 ^ (6 * d))).foldl (· + ·) 0)
  else if i = 2 then wd (3 * 2 ^ 56 + 3 * 2 ^ 48 + s.flash.maxNode % 2 ^ 12 * 2 ^ 18 + s.flash.fitted.toNat)
  else if i = 3 then wd (4 * 2 ^ 56 + 7)
  else 0

/-- LKSTATp (R342). -/
def lkstat (x : Port) : Word :=
  let k := (Tab.get LinkKey.reset x.keys x.txs).tx
  wd (b2n (x.near || bits x.lkctl 0 40 ≤ k) * 2 ^ 63 + x.txs % 2 * 2 ^ 62 + k % 2 ^ 40)
/-- PORTSTATp (R453). -/
def portstat (x : Port) : Word :=
  wd (x.state % 4 * 2 ^ 62 + x.width % 4 * 2 ^ 60 + x.authf % 2 ^ 16 * 2 ^ 32 + x.narrow % 2 ^ 16 * 2 ^ 16 + x.resend % 2 ^ 16)

/-- HLTSTAT (R376): TRIP from the dies. -/
def hltstat (s : State) : Word :=
  mreg s 0x1307 ||| wd (([0, 1, 2, 3].map (fun d => b2n (s.die d).tripped * 2 ^ (52 + d))).foldl (· + ·) 0)

/-- A module register. -/
def readModule (s : State) (n : Nat) : Word :=
  if n = 0x1001 then mreg s n ||| wd (4 * b2n s.tlbinvBusy.isSome)
  else if inRun n 0x1008 8 then 0
  else if n = 0x1100 then s.flash.node.setWidth 64
  else if n = 0x1101 then mreg s n ||| wd (2 * b2n s.locked)
  else if inRun n 0x1120 18 then (s.port (n - 0x1120)).ctl
  else if inRun n 0x1140 18 then (s.port (n - 0x1140)).lkctl
  else if inRun n 0x1160 18 then lkstat (s.port (n - 0x1160))
  else if inRun n 0x1180 18 then portstat (s.port (n - 0x1180))
  else if inRun n 0x1200 64 then capWord s (n - 0x1200)
  else if n = 0x1300 then wd (b2n s.booted * 2 ^ 63 + s.fuses.leaf % 2 ^ 21 * 2 ^ 32 + s.flash.fw.version.toNat)
  else if n = 0x1305 then mreg s n ||| wd (b2n (131072 ≤ s.flash.log.length) * 2 ^ 63)
  else if n = 0x1307 then hltstat s
  else if inRun n 0x1308 4 then wd (s.meas.toNat / 2 ^ (64 * (n - 0x1308)))
  else mreg s n

/-- Register `n` of a unit. -/
def readReg (s : State) (n u : Nat) : Word :=
  if n < 0x100 then readCell s u n
  else if n < 0x200 then readCluster (s.cluster u) n
  else if n < 0x1000 then readDie s u n
  else readModule s n

/-! Writing. -/

/-- A cell register takes a value. The new binding of a channel waits while it holds entries (R174). -/
def writeCell (s : State) (c n : Nat) (v : Word) : State :=
  let x := s.cell c
  let w := fieldWrite n (readCell s c n) v
  if n = 0 then s.setCell c { x with slipwin := w }
  else if n = 1 then s.setCell c { x with vshape := w }
  else if n = 2 then s.setCell c { x with vstat := w }
  else if n = 3 then s.setCell c { x with arithctl := w }
  else if n = 5 then s.setCell c { x with wallow := w }
  else if n = 8 then s.setCell c { x with faultrec := w }
  else if inRun n 0x18 36 then s.setCell c { x with lstride := Tab.set x.lstride (n - 0x18) w }
  else if inRun n 0x40 16 then s.setCell c (x.setChan (n - 0x40) (writeBind (x.chan (n - 0x40)) w))
  else if inRun n 0x50 16 then s.setCell c { x with netp := Tab.set x.netp (n - 0x50) w }
  else s

/-- The W1C counters of PORTSTAT clear as whole fields (R453). -/
def clearPortstat (x : Port) (v : Word) : Port :=
  { x with authf := if bits v 32 16 != 0 then 0 else x.authf, narrow := if bits v 16 16 != 0 then 0 else x.narrow
           resend := if bits v 0 16 != 0 then 0 else x.resend }

/-- A cluster, die or module register without a rule of its own takes a value (R8). -/
def writeShared (s : State) (n u : Nat) (v : Word) : State :=
  let w := fieldWrite n (readReg s n u) v
  if n < 0x200 then
    let x := s.cluster u
    if n = 0x100 then s.setCluster u { x with sktab := w }
    else if n = 0x101 then s.setCluster u { x with accsave := w }
    else if n = 0x103 then s.setCluster u { x with rplbase := w }
    else s
  else if n < 0x1000 then
    let x := s.die u
    if inRun n 0x400 64 then s.setDie u { x with qbase := Tab.set x.qbase (n - 0x400) w }
    else if inRun n 0x440 64 then
      s.setDie u { x with qcfg := Tab.set x.qcfg (n - 0x440) w, prio := Tab.set x.prio (n - 0x440) (bits w 0 3) }
    else if inRun n 0x500 64 then s.setDie u { x with qkey := Tab.set x.qkey (n - 0x500) w }
    else if rwMask n = 0 then s
    else setDreg s u n w
  else if inRun n 0x1140 18 then let p := s.port (n - 0x1140); s.setPort (n - 0x1140) { p with lkctl := w }
  else if inRun n 0x1120 18 then let p := s.port (n - 0x1120); s.setPort (n - 0x1120) { p with ctl := w }
  else if inRun n 0x1180 18 then s.setPort (n - 0x1180) (clearPortstat (s.port (n - 0x1180)) v)
  else if inRun n 0x1008 8 then setMreg s n v
  else if n = 0x1303 then setMreg s n (v &&& wd (rwMask n))
  else if n = 0x1304 then setMreg s n (v &&& wd (rwMask n))
  else if n = 0x1307 then setMreg s n (fieldWrite n (mreg s n) v)
  else if rwMask n = 0 then s
  else setMreg s n (fieldWrite n (mreg s n) v)

/-- A pending write is taken by an event of its own, not by REGISTER_WRITE. -/
def ownEvent (s : State) (w : RegWrite) : Bool :=
  let n := w.reg
  n = 0x202 || n = 0x203 || n = 0x20E || inRun n 0x4C0 64
    || (n = 0x206 && bit w.val 0)
    || (n = 0x1001 && bits w.val 0 2 != 0)
    || (n = 0x1010 && bit w.val 15)
    || (n = 0x1101 && bit w.val 0 && !bit (mreg s n) 0)
    || (inRun n 0x1120 18 && (bit w.val 63 != bit (s.port (n - 0x1120)).ctl 63))
    || (n = 0x1301 && bits w.val 44 4 &&& (15 - bits (mreg s n) 44 4) != 0)
    || (n = 0x1303 && bit w.val 63)

/-- A pending write that its owner may take now: TLBINV waits while BUSY, ATTCMD while a report is pending (R85, R357). -/
def mayTake (s : State) (w : RegWrite) : Bool :=
  !w.taken && !(w.reg = 0x1001 && s.tlbinvBusy.isSome) && !(w.reg = 0x1304 && s.report.isSome)

/-- The list with the first write that satisfies `p` marked as taken. -/
def markTaken (l : List RegWrite) (p : RegWrite → Bool) : List RegWrite :=
  match l with
  | [] => []
  | w :: r => if p w then { w with taken := true } :: r else w :: markTaken r p

/-- Take the first pending write that satisfies `p`, that issued earliest. R233 leaves the time of an owner's acknowledgement open; that writes of registers
without an event of their own reach their owners in the order of their issue, whatever the writer and the register, is a DESIGN CHOICE (log 66). -/
def takeWrite (s : State) (p : RegWrite → Bool) : Option (State × RegWrite) :=
  let q := fun w => mayTake s w && p w
  (s.writes.find? q).map (fun w => ({ s with writes := markTaken s.writes q }, w))

/-- The agent number of a writer; the Innkeeper of die d counts as 2,048 + d. -/
def Actor.num : Actor → Nat
  | .agent c e => agentNo c e
  | .ik d => 2048 + d

/-- The list without the first taken write of a writer. -/
def dropTaken (l : List RegWrite) (a : Nat) : List RegWrite :=
  match l with
  | [] => []
  | w :: r => if w.taken && w.by_.num = a then r else w :: dropTaken r a

/-- R233 SYSWR_ACK: the owner's acknowledgement reaches the writer, and its SYSWR completes. -/
def execSyswrAck (a : Nat) (s : State) : Out := .next { s with writes := dropTaken s.writes a }

/-! The words. -/

/-- The fault of a register number for the mover (R378 codes 0x05 and 0x06). -/
def regFlt (s : State) (n : Nat) : Option Flt :=
  if !regKnown n then some { cls := 1, code := 5 }
  else match s.cur with
    | .agent _ _ => if regProgram n then none else some { cls := 1, code := 6 }
    | .ik _ => none

/-- FNQ of a die without its oldest entry (R368). -/
def popFnq (s : State) (d : Nat) : State := let x := s.die d; s.setDie d { x with fnq := x.fnq.tail }

/-- What SYSRD does: it waits for the mover's own writes of the register (R167), and a read of FNQ pops it (R368). A unit that
CLSEL names and the die does not have reads a free value (log 19). -/
def sysrdAct (s : State) (g : BitVec 5) (n : Nat) : Act :=
  match regFlt s n with
  | some f => .flt s f
  | none =>
    match regUnit s n with
    | none => .done (gSet { s with ticks := s.ticks + 1 } g ((Config.freeVec s.ticks).setWidth 64))
    | some u =>
      if s.writes.any (fun w => w.by_ = s.cur && w.reg = n && w.unit = u) then .wait s .other
      else
        let v := readReg s n u
        .done (gSet (if n = 0x20D then popFnq s u else s) g v)

/-- R233 SYSRD. -/
def execSysrd (t : BitVec 4) (g : BitVec 5) (c : BitVec 13) (s : State) : Out := sWord s t 1 [g] (fun s1 => sysrdAct s1 g c.toNat)

/-- The position of the word that the mover stands at. -/
def curPos (s : State) : Nat :=
  match s.cur with
  | .agent c e => ((s.cell c).agent e).dpos
  | .ik _ => 0

/-- What SYSWR does: a cell register takes the value, any other waits for its owner (R233). -/
def syswrAct (s : State) (n : Nat) (v : Word) : Act :=
  match regFlt s n with
  | some f => .flt s f
  | none =>
    match regUnit s n with
    | none => .done s
    | some u => .done (if n < 0x100 then writeCell s u n v else { s with writes := s.writes ++ [⟨s.cur, n, u, v, false, curPos s⟩] })

/-- R233 SYSWR. -/
def execSyswr (t : BitVec 4) (g : BitVec 5) (c : BitVec 13) (s : State) : Out := sWord s t 1 [g] (fun s1 => syswrAct s1 c.toNat (gGet s1 g))

/-- R234, R371 TRAP: a cell's gang halts after it with a record of class 0x00; the Innkeeper enters its exception entry, to go on at
the next word. -/
def execTrap (t : BitVec 4) (n : BitVec 8) (s : State) : Out :=
  match s.cur with
  | .ik d => .next (ikEnter s d 0 n.toNat 0 (pcOf s + 4))
  | .agent _ _ => sWord s t 1 [] (fun s1 => .done (match s1.cur with
    | .agent c _ => fault s1 c .S { cls := 0, code := n.toNat, dlv := 1 }
    | .ik _ => s1))

/-- R235, R371 ERET: on a cell it is R378 code 0x06; the Innkeeper returns once its own register writes are acknowledged. -/
def execEret (t : BitVec 4) (s : State) : Out :=
  match s.cur with
  | .ik d => if s.writes.any (fun w => w.by_ = .ik d) then .next s else .next (ikReturn s d)
  | .agent _ _ => sWord s t 1 [] (fun s1 => .flt s1 { cls := 1, code := 6 })

/-! FNQ and the Innkeeper's entry. -/

/-- The Innkeeper's entry for FNQ is due (R371): it stands between two words, none of them in progress. -/
def fnqDue (s : State) (d : Nat) : Bool := (s.die d).ik.running && (s.die d).ik.sop.isNone && !ikActive s d && !(s.die d).fnq.isEmpty

/-- R371 INNKEEPER_EXCEPTION_ENTRY: at an instruction boundary, with ACT 0 and FNQ not empty, CLASS 0xFE. -/
def execInnkeeperExceptionEntry (d : Nat) (s : State) : Out :=
  if fnqDue s d then .next (ikEnter s d 0xFE 0 0 (s.die d).ik.pc) else .next s

/-- The word of text at an Innkeeper's PC. -/
def ikWord (s : State) (d : Nat) : Option Instr :=
  match fetchWord s (.ik d) (s.die d).ik.pc false with
  | (_, .ok w) => if wordTag w != 0 || eBit w then none else match decode w 0 with
    | .instr i => some i
    | .bad _ => none
  | _ => none

/-- R368 FNQ_READ: the Innkeeper of die `d` stands at a SYSRD of FNQ into g`r`, and that read pops the oldest entry. -/
def execFnqRead (d r : Nat) (s : State) : Out :=
  let s1 := { s with cur := Actor.ik d }
  match ikWord s1 d with
  | some (.sysrd _ g n) =>
    if n.toNat = 0x20D && g.toNat = r && (s.die d).ik.running && !fnqDue s d then .next (ikFinish d 1 (sysrdAct s1 g 0x20D)) else .next s
  | _ => .next s

end Sys2Proof.Machine
end

