-- ==== Sys2Proof/Machine/Tiles.lean ====
section
/-!
DEFINITION. Operand tiles as the matrix array and the Sketch Unit read them: checks (R73, R383, R431), element values
(R104, R177, R264), scale bytes (R107), the dot product of R109 and the skipping of R111.
-/
namespace Sys2Proof.Machine

/-! Addresses of M words. -/

/-- The home byte of a window address that a cell's M word uses; its checks have passed. -/
def mHome (s : State) (c : Nat) (va : Word) : Nat :=
  match window s (.agent c .M) (winOff va) 1 with
  | .ok (.home a) _ => a
  | _ => 0

/-- The checks of an address of an M word that must lie in the cell store or the cluster scratchpad (R382 codes 0x01 to 0x04). -/
def checkNear (s : State) (c : Nat) (va : Word) (n al : Nat) (write : Bool) : Option Flt :=
  match checkLevel s c .M va n al write false with
  | .flt f => some f
  | .ok _ => none

/-- The home runs of `n` bytes of the paged half from `va`, page by page as they are translated; an address that has no translation has
no home and faults as it is checked. `k` bounds the pages. -/
def pageRanges (s : State) (c k va n : Nat) : List Range :=
  match k with
  | 0 => []
  | j + 1 =>
    if n = 0 then []
    else match (translate s (.agent c .X) .X va).2 with
      | .ok t =>
        let m := min n (t.base + t.size - va)
        ⟨t.pa + (va - t.base), m⟩ :: pageRanges s c j (va + m) (n - m)
      | _ => let m := min n (2 ^ 16 - va % 2 ^ 16); pageRanges s c j (va + m) (n - m)

/-- The ranges that footprints are compared in (R163, R164): the homes of the bytes, by whichever address they are reached. -/
def fpRanges (s : State) (c : Nat) (va : Word) (n : Nat) : List Range :=
  if !canonical va then []
  else if paged va then pageRanges s c (n / 2 ^ 16 + 2) va.toNat n
  else match window s (.agent c .X) (winOff va) 1 with
    | .ok loc cls => (reach s c ⟨loc, n, none, cls, va⟩).map (fun a => ⟨a, n⟩)
    | .bad _ => []

/-- The home ranges of declared footprints. -/
def homes (s : State) (c : Nat) (l : List Range) : List Range := l.flatMap (fun r => fpRanges s c (wd r.base) r.len)

/-- The home footprints of a command (reads, writes). -/
def jobFp (s : State) (c : Nat) (j : Job) : List Range × List Range := (homes s c j.rd, homes s c j.wr)

/-- Two lists of ranges share a byte. -/
def rangesMeet (a b : List Range) : Bool := a.any (fun p => b.any (fun q => overlap p.base p.len q.base q.len))

/-- The footprints (reads, writes) of two commands conflict (R164). -/
def conflict (a b : List Range × List Range) : Bool := rangesMeet a.1 b.2 || rangesMeet a.2 b.1 || rangesMeet a.2 b.2

/-- The fault of the first run that meets a poisoned unit (R431 code 0x01): (address, bytes) in the window that the word uses. -/
def poisonRuns (s : State) (c : Nat) (l : List (Word × Nat)) : State × Option Flt :=
  match l with
  | [] => (s, none)
  | p :: r =>
    let a := mHome s c p.1
    if poisoned s a p.2 then (expose s a p.2, some (poisonFlt s a p.2 p.1 true)) else poisonRuns (expose s a p.2) c r

/-! Granules (R141). -/

/-- The offset of a list that comes next. -/
def pickOf (k : Nat) (l : List Nat) : Nat :=
  match l with
  | [a] => a
  | l => l.getD (Config.granule k % l.length) 0

/-- The aligned 64-byte granules of ranges. -/
def granulesOf (l : List Range) : List Nat :=
  (l.flatMap (fun r => (List.range ((r.base % 64 + r.len + 63) / 64)).map (fun i => r.base / 64 * 64 + 64 * i))).eraseDups

/-! Elements. -/

/-- The bytes that the Awl reads for one element; a `z4` code takes its byte. -/
def awlWidth (i : Image) : Nat := if sEfmt i < 11 then elemBytes (sEfmt i) else 1

/-- The addresses of a tile's elements in the order of R177. -/
def tileAddrs (i : Image) (lo : Word) (h : Nat) : List Word := (List.range (tileSize i)).map (fun k => elemAddr i lo h k)

/-- The checks of a whole operand tile (R383): level and range of every element, or the bank it lies in. -/
def checkTile (s : State) (c n : Nat) (i : Image) (lo : Word) (h : Nat) : Option Flt :=
  let w := awlWidth i
  match bankOf (s.cell c) n with
  | some _ => bankFlt i h w false (List.range (tileSize i))
  | none => match checkRing s c .M 1 w false (tileAddrs i lo h) with
    | .ok _ => none
    | .flt f => some f

/-- The bytes of element `k` of tile `h` of stream `n`. -/
def elemAt (s : State) (c n : Nat) (i : Image) (lo : Word) (h k : Nat) : Nat :=
  let w := awlWidth i
  match bankOf (s.cell c) n with
  | some b => leNat ((bankElem (s.cell c) i b h k w).getD [])
  | none => leNat (rd s (mHome s c (elemAddr i lo h k)) w)

/-- The value of element `k` of a tile, its scales given in block order (R104, R107). -/
def elemNum (s : State) (c n : Nat) (i : Image) (lo : Word) (h : Nat) (sc : List Byte) (k : Nat) : Num :=
  let v := elemAt s c n i lo h k
  if sEfmt i = 11 then
    let b := blockOf i k
    z4Value (byteAt sc b.1) (if b.2 % 2 = 0 then v % 16 else v / 16)
  else laneValue (sEfmt i) v

/-! Scales (R107). -/

/-- The addresses of the scale bytes of tile `h`. -/
def scaleAddrs (i : Image) (h : Nat) : List Word := (List.range (blockCount i)).map (fun b => scaleAddr i h b)

/-- A checked scale byte with its home and key; a scale ring in no memory of the module is at a level that the word does not
accept (log 21). -/
def scaleHome (a : Word) (k : Chkd) : Res (Word × Nat × Option Nat) :=
  match k.accs with
  | [⟨.home h, _, key, _, _⟩] => .ok (a, h, key)
  | _ => .flt { cls := 6, code := 4, addr := a, aux := accAux false true 1 }

/-- The homes of checked scale bytes, or the fault that R361 names first. -/
def scaleHomes (l : List (Word × Chkd)) : Res (List (Word × Nat × Option Nat)) :=
  match l with
  | [] => .ok []
  | p :: r => joinRes (fun k ks => k :: ks) (scaleHome p.1 p.2) (scaleHomes r)

/-- The bytes at homes that an operand port reads, up to the first poisoned one (R431). -/
def homeBytes (s : State) (c : Nat) (l : List (Word × Nat × Option Nat)) : State × Res (List Byte) :=
  match l with
  | [] => (s, .ok [])
  | p :: r =>
    if poisoned s p.2.1 1 then (expose s p.2.1 1, .flt (poisonFlt s p.2.1 1 p.1 true))
    else match homeBytes (expose s p.2.1 1) c r with
      | (s1, .ok b) => (s1, .ok (cellBytes s c p.2.1 1 p.2.2 ++ b))
      | q => q

/-- Read scale bytes: every one is checked as an element of a stream before any is read (R383). -/
def readScales (s : State) (c : Nat) (l : List Word) : State × Res (List Byte) :=
  match checkMany s (.agent c .M) .M 1 false true (l.map (fun a => (a, 1))) with
  | (s1, .flt f) => (s1, .flt f)
  | (s1, .ok ks) => match scaleHomes (l.zip ks) with
    | .flt f => (s1, .flt f)
    | .ok h => homeBytes s1 c h

/-! The dot product (R109, R111). -/

/-- One accumulator element: `old` its value before, `acc` whether the step accumulates, `l` the participating operand pairs. -/
def dotElem (old : Nat) (acc : Bool) (l : List (Num × Num)) : Nat × BitVec 4 :=
  let c := decodeFloat fp32 old
  let p := l.map (fun q => (exactMul q.1 q.2).1)
  let all := if acc then p ++ [c] else p
  let nanIn := l.any (fun q => q.1.isNan || q.2.isNan) || (acc && c.isNan)
  if all.any Num.isNan || (all.any (Num.isInf false) && all.any (Num.isInf true)) then (nanBits fp32, flagIf (!nanIn) flagI)
  else if all.any (Num.isInf false) then (infBits fp32 false, 0)
  else if all.any (Num.isInf true) then (infBits fp32 true, 0)
  else roundNum fp32 0 (exactSum 0 all).1

/-- The sign flipped where a negate bit is set. -/
def negIf (b : Bool) (x : Num) : Num := if b then x.neg else x

/-- A tile: element (i, j) at 128i + j. -/
abbrev Tile := Tab (BitVec 32)

/-- Element `k` of a tile as a number. -/
def Tile.at (t : Tile) (k : Nat) : Nat := (Tab.get 0 t k).toNat

/-- The rows `m` and columns `n` of a tile after a step; `el i j` are the participating pairs of element (i, j), `skip i j`
whether a skipped position meets a value that is not finite. -/
def stepTile (t : Tile) (m n : Nat) (acc : Bool) (el : Nat → Nat → List (Num × Num)) (skip : Nat → Nat → Bool) : Tile × BitVec 4 :=
  (List.range (m * n)).foldl (fun r k =>
    let i := k / n
    let j := k % n
    let e := dotElem (Tile.at t (128 * i + j)) acc (el i j)
    (Tab.set r.1 (128 * i + j) (BitVec.ofNat 32 e.1), r.2 ||| e.2 ||| flagIf (skip i j) flagN)) (t, 0)

end Sys2Proof.Machine
end

