-- ==== Sys2Proof/Machine/Sketch.lean ====
section
/-!
DEFINITION. The Sketch Unit (R119 to R138, R416 to R421): slots, headers, the units of a shrink and of a merge, panels, and
the images.
-/
namespace Sys2Proof.Machine

/-! The slot table and the header (R119 to R122). -/

/-- The home byte of offset `o` of a cluster's scratchpad. -/
def skHome (l o : Nat) : Nat := clusterHome l + o % 2 ^ 23
/-- The offset of entry `n` of the slot table. -/
def slotEntry (x : Cluster) (n : Nat) : Nat := bits x.sktab 9 14 * 512 + 8 * n
/-- The entry of slot `n`. -/
def slotWord (s : State) (l n : Nat) : Word := wordAt (rd s (skHome l (slotEntry (s.cluster l) n)) 8) 0
/-- V of an entry. -/
def slotValid (w : Word) : Bool := bit w 0
/-- The base of a slot in the cluster scratchpad. -/
def slotBase (w : Word) : Nat := bits w 8 15 * 256

/-- Header word `i` (offset 8i) of the slot at `b`. -/
def hdrWord (s : State) (l b i : Nat) : Word := wordAt (rd s (skHome l (b + 8 * i)) 8) 0
/-- A header word written. -/
def hdrPut (s : State) (l b i : Nat) (v : Word) : State := writeHome s (skHome l (b + 8 * i)) (wordBytes v) none

/-- A header as it stands: the fields of R121. -/
structure Hdr where
  flags : Nat
  bank : Nat
  c : Nat
  r : Nat
  n : Nat
  m : Nat
  dnb : Nat
  de : Nat
  unit : Nat
  mj : Nat
  op : Nat
  nfold : Word
  msrc : Word
  deriving DecidableEq, Repr

/-- The header in five words. -/
def hdrOf (w : Nat → Word) : Hdr :=
  { flags := bits (w 0) 48 4, bank := bits (w 0) 47 1, c := bits (w 0) 40 7, r := bits (w 0) 32 6, n := bits (w 0) 16 16
    m := bits (w 0) 0 16, dnb := bits (w 1) 32 32, de := bits (w 1) 0 32, unit := bits (w 2) 32 32, mj := bits (w 2) 8 7
    op := bits (w 2) 0 2, nfold := w 3, msrc := w 4 }

/-- The header of the slot at `b`. -/
def readHdr (s : State) (l b : Nat) : Hdr := hdrOf (hdrWord s l b)

/-- The five words of a header. -/
def Hdr.words (h : Hdr) : List Word :=
  [wd (h.flags * 2 ^ 48 + h.bank * 2 ^ 47 + h.c * 2 ^ 40 + h.r * 2 ^ 32 + h.n * 2 ^ 16 + h.m), wd (h.dnb * 2 ^ 32 + h.de)
   , wd (h.unit * 2 ^ 32 + h.mj * 2 ^ 8 + h.op), h.nfold, h.msrc]

/-- The 64 bytes of a header. -/
def Hdr.bytes (h : Hdr) : List Byte := (h.words.map wordBytes).flatten ++ List.replicate 24 0

/-- Write a header whole. -/
def writeHdr (s : State) (l b : Nat) (h : Hdr) : State := writeHome s (skHome l b) h.bytes none

/-- MP of R120: rows rounded up to 32; NP likewise. -/
def pad32 (m : Nat) : Nat := 32 * ((m + 31) / 32)
/-- CAP of a slot (R120). -/
def Hdr.cap (h : Hdr) : Nat := 2 * h.r
/-- FB of a slot (R120). -/
def Hdr.fb (h : Hdr) : Nat := 8 * h.r * (pad32 h.m + pad32 h.n)
/-- The bytes of the extent (R120). -/
def Hdr.extent (h : Hdr) : Nat := 0x10200 + 2 * h.fb
/-- The length of a column of P (`q` false) or Q. -/
def Hdr.len (h : Hdr) (q : Bool) : Nat := if q then h.n else h.m

/-- The offset from the slot base of row `k` of column `j` of P or Q in a bank. -/
def Hdr.col (h : Hdr) (q : Bool) (bank j k : Nat) : Nat :=
  0x10200 + bank * h.fb + (if q then 8 * h.r * pad32 h.m + 4 * pad32 h.n * j else 4 * pad32 h.m * j) + 4 * k

/-! Floating-point values in the extent. -/

/-- An FP32 value at an offset of the cluster scratchpad. -/
def skGet (s : State) (l o : Nat) : Nat := leNat (rd s (skHome l o) 4)
/-- An FP32 value written. -/
def skPut (s : State) (l o v : Nat) : State := writeHome s (skHome l o) (leList 4 v) none

/-- Fma of R124, in the FP32 mode of the array (R110), with its flags added: a NaN addend gives the NaN and no flag (R109). -/
def skFma (a b : Nat) (c : Nat × BitVec 4) : Nat × BitVec 4 :=
  if (decodeFloat fp32 c.1).isNan then (nanBits fp32, c.2)
  else let r := fMulAdd fp32 0 false c.1 a b; (r.1, c.2 ||| r.2)
/-- The sign bit flipped. -/
def neg32 (a : Nat) : Nat := if a < 2 ^ 31 then a + 2 ^ 31 else a - 2 ^ 31
/-- Dot of R124. -/
def skDot (f g : Nat → Nat) (n : Nat) : Nat × BitVec 4 := (List.range n).foldl (fun r k => skFma (f k) (g k) r) (0, 0)

/-- Element (i, j) of the work area at `o` (R120). -/
def work (b o i j : Nat) : Nat := b + o + 4 * (64 * j + i)
/-- The work area of the triangular factor of P or Q. -/
def triArea (q : Bool) : Nat := if q then 0x4100 else 0x100
/-- SIG[j]. -/
def sigAt (b j : Nat) : Nat := b + 0x10100 + 4 * j

/-- A column replaced row by row; the flags gathered. -/
def mapRows (s : State) (n : Nat) (f : State → Nat → Nat × Nat × BitVec 4) (l : Nat) : State × BitVec 4 :=
  (List.range n).foldl (fun r k => let p := f r.1 k; (skPut r.1 l p.1 p.2.1, r.2 ||| p.2.2)) (s, 0)

/-! Units of a shrink (R131). -/

/-- A unit: `q` says whether it works on Q. -/
inductive SkUnit where
  | header
  | n0 (q : Bool) (j : Nat) | proj (q : Bool) (i j : Nat) | update (q : Bool) (i j : Nat) | nj (q : Bool) (j : Nat) | scale (q : Bool) (j : Nat)
  | core (i j : Nat) | pair (i j : Nat) | sig (j : Nat) | sort
  | out (q : Bool) (l i : Nat)
  | energy
  deriving DecidableEq, Repr

/-- The passes over column `j` (R125). -/
def colUnits (q : Bool) (j : Nat) : List SkUnit :=
  .n0 q j :: (List.range j).flatMap (fun i => [.proj q i j, .update q i j]) ++ [.nj q j, .scale q j]

/-- The pairs of one sweep (R127). -/
def sweepUnits (c : Nat) : List SkUnit :=
  (List.range (c - 1)).flatMap (fun i => (List.range (c - 1 - i)).map (fun d => SkUnit.pair i (i + 1 + d)))

/-- The units of a shrink of `c` columns to `rn`, in order. -/
def shrinkUnits (c rn : Nat) : List SkUnit :=
  .header :: (List.range c).flatMap (colUnits false) ++ (List.range c).flatMap (colUnits true)
    ++ (List.range c).flatMap (fun i => (List.range c).map (fun j => SkUnit.core i j))
    ++ (List.replicate 8 (sweepUnits c)).flatten ++ (List.range c).map SkUnit.sig ++ [.sort]
    ++ [false, true].flatMap (fun q => (List.range rn).flatMap (fun l => (List.range c).map (fun i => SkUnit.out q l i)))
    ++ [.energy]

/-- The cycles of a pass over a column. -/
def passCost (h : Hdr) (q : Bool) : Nat := (h.len q + 511) / 512

/-- The cycles of a unit (R131). -/
def unitCost (h : Hdr) (u : SkUnit) : Nat :=
  match u with
  | .header => 24
  | .n0 q _ => passCost h q
  | .proj q _ _ => passCost h q
  | .update q _ _ => passCost h q
  | .nj q _ => passCost h q
  | .scale q _ => passCost h q
  | .core _ _ => 1
  | .pair _ _ => 2
  | .sig _ => 1
  | .sort => h.c
  | .out q _ _ => passCost h q
  | .energy => 16

/-! What the units do. -/

/-- The zeroing test of R125: nj ≤ 2^-46 × n0, compared exactly; false where either is not finite (R417). -/
def negligible (nj n0 : Nat) : Bool :=
  match decodeFloat fp32 nj, decodeFloat fp32 n0 with
  | .fin s m e, .fin t n f => !numLt (.fin t n (f - 46)) (.fin s m e)
  | _, _ => false

/-- Column `j` of an area as a function of the row. -/
def areaCol (s : State) (l b o j : Nat) (k : Nat) : Nat := skGet s l (work b o k j)
/-- Column `j` of a live factor as a function of the row. -/
def factCol (s : State) (l b : Nat) (h : Hdr) (q : Bool) (j k : Nat) : Nat := skGet s l (b + h.col q h.bank j k)

/-- The scale pass of column `j` (R125). -/
def runScale (s : State) (l b : Nat) (h : Hdr) (q : Bool) (j : Nat) : State × BitVec 4 :=
  let n0 := skGet s l (sigAt b j)
  let nj := skGet s l (work b (triArea q) j j)
  if negligible nj n0 then
    mapRows (skPut s l (work b (triArea q) j j) 0) (h.len q) (fun _ k => (b + h.col q h.bank j k, 0, 0)) l
  else
    let rho := fSqrt fp32 0 nj
    let r := mapRows (skPut s l (work b (triArea q) j j) rho.1) (h.len q) (fun t k =>
      let d := fDiv fp32 0 (factCol t l b h q j k) rho.1
      (b + h.col q h.bank j k, d.1, d.2)) l
    (r.1, r.2 ||| rho.2)

/-- The coefficients of a rotation (R127): cs and sn. -/
def rotation (alpha beta gamma : Nat) : Nat × Nat × BitVec 4 :=
  let one := 0x3F800000
  let a := fSub fp32 0 beta alpha
  let g := fMul fp32 0 0x40000000 gamma
  let z := fDiv fp32 0 a.1 g.1
  let q := fMulAdd fp32 0 false one z.1 z.1
  let r := fSqrt fp32 0 q.1
  let den := fAdd fp32 0 (z.1 % 2 ^ 31) r.1
  let zn := decodeFloat fp32 z.1
  let t := fDiv fp32 0 (if !zn.isNan && numLt zn (.fin false 0 0) then neg32 one else one) den.1
  let q2 := fMulAdd fp32 0 false one t.1 t.1
  let r2 := fSqrt fp32 0 q2.1
  let cs := fDiv fp32 0 one r2.1
  let sn := fMul fp32 0 cs.1 t.1
  (cs.1, sn.1, a.2 ||| g.2 ||| z.2 ||| q.2 ||| r.2 ||| den.2 ||| t.2 ||| q2.2 ||| r2.2 ||| cs.2 ||| sn.2)

/-- Row `k` of columns `i` and `j` of an area rotated (R127). -/
def rotateRow (s : State) (l b o i j cs sn k : Nat) : State × BitVec 4 :=
  let x := skGet s l (work b o k i)
  let y := skGet s l (work b o k j)
  let p := fMul fp32 0 sn y
  let q := fMul fp32 0 sn x
  let u := skFma cs x (neg32 p.1, p.2)
  let v := skFma cs y q
  (skPut (skPut s l (work b o k i) u.1) l (work b o k j) v.1, u.2 ||| v.2)

/-- A Jacobi pair (R127). -/
def runPair (s : State) (l b c i j : Nat) : State × BitVec 4 :=
  let f := areaCol s l b 0x8100
  let al := skDot (f i) (f i) c
  let be := skDot (f j) (f j) c
  let ga := skDot (f i) (f j) c
  let fl := al.2 ||| be.2 ||| ga.2
  if ga.1 % 2 ^ 31 = 0 then (s, fl)
  else
    let w := rotation al.1 be.1 ga.1
    (List.range c).foldl (fun r k =>
      let p := rotateRow r.1 l b 0x8100 i j w.1 w.2.1 k
      let q := rotateRow p.1 l b 0xC100 i j w.1 w.2.1 k
      (q.1, r.2 ||| p.2 ||| q.2)) (s, fl ||| w.2.2)

/-- x ranks before y in the sort of R128 (R417: a NaN above every number). -/
def ranksBefore (x y : Nat) : Bool :=
  let a := decodeFloat fp32 x
  let b := decodeFloat fp32 y
  if a.isNan then !b.isNan else !b.isNan && numLt b a

/-- Insert an index into a list sorted by descending key; an equal key goes after. -/
def insertRank (key : Nat → Nat) (x : Nat) (l : List Nat) : List Nat :=
  match l with
  | [] => [x]
  | y :: r => if ranksBefore (key x) (key y) then x :: y :: r else y :: insertRank key x r

/-- pi of R128. -/
def ranks (key : Nat → Nat) (c : Nat) : List Nat := (List.range c).foldl (fun l i => insertRank key i l) []

/-- pi(l) of a slot, from SIG. -/
def piAt (s : State) (l b c n : Nat) : Nat := (ranks (fun j => skGet s l (sigAt b j)) c).getD n 0

/-- One term of an output column (R128). -/
def runOut (s : State) (l b : Nat) (h : Hdr) (q : Bool) (n i : Nat) : State × BitVec 4 :=
  let w := skGet s l (work b (if q then 0xC100 else 0x8100) i (piAt s l b h.c n))
  let nb := 1 - h.bank
  mapRows s (h.len q) (fun t k =>
    let r := skFma (factCol t l b h q i k) w (if i = 0 then 0 else skGet t l (b + h.col q nb n k), 0)
    (b + h.col q nb n k, r.1, r.2)) l

/-- The c × c elements of a work area set to +0, and to `d` on the diagonal. -/
def clearArea (s : State) (l b c o d : Nat) : State :=
  (List.range (c * c)).foldl (fun t k => skPut t l (work b o (k / c) (k % c)) (if k / c = k % c then d else 0)) s

/-- What a unit other than the last does to the extent, with its flags: Tp and Tq are zeroed as the run over P and the run over Q start,
Z becomes the identity once B is complete (R125 to R127, log 57). -/
def runUnit (s : State) (l b : Nat) (h : Hdr) (u : SkUnit) : State × BitVec 4 :=
  let put := fun (o : Nat) (p : Nat × BitVec 4) => (skPut s l o p.1, p.2)
  let f := factCol s l b h
  match u with
  | .header => (clearArea s l b h.c 0x100 0, 0)
  | .n0 q j =>
    let s1 := if q && j = 0 then clearArea s l b h.c 0x4100 0 else s
    let p := skDot (f q j) (f q j) (h.len q)
    (skPut s1 l (sigAt b j) p.1, p.2)
  | .proj q i j => put (work b (triArea q) i j) (skDot (f q i) (f q j) (h.len q))
  | .update q i j =>
    let nh := neg32 (skGet s l (work b (triArea q) i j))
    mapRows s (h.len q) (fun t k =>
      let r := skFma nh (factCol t l b h q i k) (factCol t l b h q j k, 0)
      (b + h.col q h.bank j k, r.1, r.2)) l
  | .nj q j => put (work b (triArea q) j j) (skDot (f q j) (f q j) (h.len q))
  | .scale q j => runScale s l b h q j
  | .core i j =>
    let p := skDot (fun k => skGet s l (work b 0x100 i k)) (fun k => skGet s l (work b 0x4100 j k)) h.c
    let s1 := skPut s l (work b 0x8100 i j) p.1
    (if i + 1 = h.c && j + 1 = h.c then clearArea s1 l b h.c 0xC100 0x3F800000 else s1, p.2)
  | .pair i j => runPair s l b h.c i j
  | .sig j => put (sigAt b j) (skDot (areaCol s l b 0x8100 j) (areaCol s l b 0x8100 j) h.c)
  | .sort => (s, 0)
  | .out q n i => runOut s l b h q n i
  | .energy => (s, 0)

/-- Header and flags after the last unit of a shrink (R129, R420); a shrink inside a merge keeps OP 2. -/
def endShrink (s : State) (l b : Nat) (h : Hdr) : Hdr × BitVec 4 :=
  let rn := min h.r h.c
  let p := ranks (fun j => skGet s l (sigAt b j)) h.c
  let inc := (p.drop rn).foldl (fun r j => let a := fAdd fp32 0 r.1 (skGet s l (sigAt b j)); (a.1, r.2 ||| a.2)) ((0, 0) : Nat × BitVec 4)
  let de := fAdd fp32 0 h.de inc.1
  let q := fSqrt fp32 3 inc.1
  let dnb := fAdd fp32 3 h.dnb q.1
  ({ h with de := de.1, dnb := dnb.1, c := rn, bank := 1 - h.bank, unit := 0, op := if h.op = 2 then 2 else 0 }
   , inc.2 ||| de.2 ||| q.2 ||| dnb.2)

/-! The work of a shrink or merge, unit by unit. -/

/-- The next piece of work (R131, R136). -/
inductive SkWork where
  | finished
  | additions
  | append (t : Nat)
  | unit (u : SkUnit)
  deriving DecidableEq, Repr

/-- The image of a merge: its address and its C. -/
structure SkImg where
  src : Word
  c : Nat
  deriving DecidableEq, Repr

/-- The unit that a shrink under a header goes on at: UNIT where one is under way, else the first (R133, R283). -/
def Hdr.at (h : Hdr) : Nat := if h.op = 1 || h.op = 2 then h.unit else 0

/-- What comes next under a header: a shrink of its own where there is no image. `ended` says that its last unit is done. -/
def nextWork (h : Hdr) (im : Option SkImg) (ended : Bool) : SkWork :=
  let shrink := SkWork.unit (((shrinkUnits h.c (min h.r h.c))[h.at]?).getD .energy)
  match im with
  | none => if ended then .finished else shrink
  | some i =>
    if h.op != 2 then .additions
    else if h.unit != 0 then shrink
    else if i.c ≤ h.mj then .finished
    else if h.c = h.cap then shrink
    else .append (min (i.c - h.mj) (h.cap - h.c))

/-- The cycles of a piece of work. -/
def workCost (h : Hdr) (w : SkWork) : Nat :=
  match w with
  | .finished => 0
  | .additions => 16
  | .append t => (t * (h.m + h.n) + 2047) / 2048
  | .unit u => unitCost h u

/-- The header after a piece of work, as far as its data play no part: cursors and C. -/
def planWork (h : Hdr) (src : Word) (w : SkWork) : Hdr :=
  match w with
  | .finished => h
  | .additions => { h with op := 2, mj := 0, unit := 0, msrc := src }
  | .append t => { h with c := h.c + t, mj := h.mj + t }
  | .unit .energy => { h with c := min h.r h.c, bank := 1 - h.bank, unit := 0, op := if h.op = 2 then 2 else 0 }
  | .unit _ => { h with unit := h.at + 1, op := if h.op = 2 then 2 else 1 }

/-- The last piece of a shrink of its own. -/
def endsWork (im : Option SkImg) (w : SkWork) : Bool := im.isNone && w == .unit .energy

/-- A panel (R132): pieces in order as many as fit within 160 cycles, at least one: their number, their cycles, and whether
the word ends with them. `n` bounds their number, `cost` is what has been taken. -/
def planPanel (n : Nat) (h : Hdr) (im : Option SkImg) (ended : Bool) (k cost : Nat) : Nat × Nat × Bool :=
  match n with
  | 0 => (k, cost, false)
  | j + 1 =>
    let w := nextWork h im ended
    if w = .finished then (k, cost, true)
    else
      let d := workCost h w
      if k != 0 && 160 < cost + d then (k, cost, false)
      else planPanel j (planWork h ((im.map (·.src)).getD 0) w) im (endsWork im w) (k + 1) (cost + d)

/-- The panel that comes next for a header. A panel never holds more than 2,048 pieces where a column has an element. -/
def panelOf (h : Hdr) (im : Option SkImg) : Nat × Nat × Bool := planPanel 2048 h im false 0 0

/-! Images (R135, R136). -/

/-- The home byte of offset `o` of an image. -/
def imgHome (s : State) (c : Nat) (src : Word) (o : Nat) : Nat := mHome s c (src + wd o)
/-- The header of an image. -/
def imgHdr (s : State) (c : Nat) (src : Word) : Hdr := hdrOf (fun i => wordAt (rd s (imgHome s c src (8 * i)) 8) 0)
/-- Row `k` of column `j` of P or Q in an image of `cc` columns. -/
def imgCol (h : Hdr) (cc : Nat) (q : Bool) (j k : Nat) : Nat :=
  0x40 + (if q then 4 * pad32 h.m * cc + 4 * pad32 h.n * j else 4 * pad32 h.m * j) + 4 * k

/-- The four additions of a merge (R136, R418). -/
def mergeHead (h g : Hdr) (src : Word) : Hdr × BitVec 4 :=
  let de := fAdd fp32 0 h.de g.de
  let dnb := fAdd fp32 3 h.dnb g.dnb
  ({ h with flags := (BitVec.ofNat 4 h.flags ||| BitVec.ofNat 4 g.flags).toNat, de := de.1, dnb := dnb.1, nfold := h.nfold + g.nfold
            op := 2, mj := 0, unit := 0, msrc := src }, de.2 ||| dnb.2)

/-- Append `t` column pairs of the image from column `h.mj`. -/
def appendCols (s : State) (l b c : Nat) (h : Hdr) (im : SkImg) (t : Nat) : State :=
  [false, true].foldl (fun s1 q => (List.range t).foldl (fun s2 d => (List.range (h.len q)).foldl (fun s3 k =>
    skPut s3 l (b + h.col q h.bank (h.c + d) k) (leNat (rd s (imgHome s c im.src (imgCol h im.c q (h.mj + d) k)) 4))) s2) s1) s

/-- The flags added to a header. -/
def Hdr.flag (h : Hdr) (f : BitVec 4) : Hdr := { h with flags := (BitVec.ofNat 4 h.flags ||| f).toNat }

/-- One piece of work done: the extent, the header and the flags of its events. -/
def runWork (s : State) (l b c : Nat) (im : Option SkImg) (w : SkWork) : State × BitVec 4 :=
  let h := readHdr s l b
  let src := (im.map (·.src)).getD 0
  match w with
  | .finished => (s, 0)
  | .additions =>
    let r := mergeHead h (imgHdr s c src) src
    (writeHdr s l b (r.1.flag r.2), r.2)
  | .append t =>
    let s1 := match im with
      | some i => appendCols s l b c h i t
      | none => s
    (writeHdr s1 l b (planWork h src w), 0)
  | .unit .energy =>
    let r := endShrink s l b h
    (writeHdr s l b (r.1.flag r.2), r.2)
  | .unit u =>
    let r := runUnit s l b h u
    (writeHdr r.1 l b ((planWork h src w).flag r.2), r.2)

/-- A panel of `n` pieces done (R132, R420), with its flags. -/
def runPanel (n : Nat) (s : State) (l b c : Nat) (im : Option SkImg) (ended : Bool) (f : BitVec 4) : State × BitVec 4 :=
  match n with
  | 0 => (s, f)
  | k + 1 =>
    let w := nextWork (readHdr s l b) im ended
    let r := runWork s l b c im w
    runPanel k r.1 l b c im (endsWork im w) (f ||| r.2)

/-- The end of a merge: the cursor is cleared (R121). -/
def endMerge (s : State) (l b : Nat) : State := writeHdr s l b { readHdr s l b with op := 0, mj := 0, unit := 0, msrc := 0 }

/-! SKCFG, SKFOLD, SKEMIT. -/

/-- The fields of SKCFG's g value (R281) as a fresh header, with OFF. -/
def cfgHdr (v : Word) : Hdr × Nat :=
  ({ flags := 0, bank := 0, c := 0, r := bits v 48 6, n := bits v 32 12, m := bits v 16 12, dnb := 0, de := 0, unit := 0, mj := 0, op := 0
     nfold := 0, msrc := 0 }, bits v 0 15)

/-- Two runs of the cluster scratchpad that wrap modulo 8 MiB share a byte. -/
def wrapOverlap (a n b m : Nat) : Bool := overlap a n b m || overlap a n (b + 2 ^ 23) m || overlap (a + 2 ^ 23) n b m

/-- SKCFG's limits hold (R397). -/
def cfgOk (x : Cluster) (v : Word) : Bool :=
  let h := cfgHdr v
  let b := h.2 * 256
  ([ bits v 54 10 = 0, bits v 44 4 = 0, bits v 28 4 = 0, bits v 15 1 = 0
  , 1 ≤ h.1.m, h.1.m ≤ 2048, 1 ≤ h.1.n, h.1.n ≤ 2048, 1 ≤ h.1.r, h.1.r ≤ 32, b + h.1.extent ≤ 2 ^ 23
  , !wrapOverlap b h.1.extent (bits x.sktab 9 14 * 512) 512
  , !wrapOverlap b h.1.extent (bits x.accsave 18 5 * 2 ^ 18) (2 ^ 20 + 256) ] : List Bool).all id

/-- SKCFG (R122): the header, then the slot-table entry. -/
def runCfg (s : State) (l n : Nat) (v : Word) : State :=
  let h := cfgHdr v
  let s1 := writeHdr s l (h.2 * 256) h.1
  writeHome s1 (skHome l (slotEntry (s.cluster l) n)) (wordBytes (wd (h.2 * 256 + 1))) none

/-- SKFOLD (R123, R416): `u q j k` is element k of pair j; the flags hold I where an element is not finite. -/
def runFold (s : State) (l b k : Nat) (u : Bool → Nat → Nat → Num) : State × BitVec 4 :=
  let h := readHdr s l b
  let s1 := [false, true].foldl (fun t q => (List.range k).foldl (fun t1 j => (List.range (h.len q)).foldl (fun t2 i =>
    skPut t2 l (b + h.col q h.bank (h.c + j) i) (roundNum fp32 0 (u q j i)).1) t1) t) s
  let f := flagIf ([false, true].any (fun q => (List.range k).any (fun j => (List.range (h.len q)).any (fun i => !(u q j i).finite)))) flagI
  (writeHdr s1 l b ({ h with c := h.c + k, nfold := h.nfold + wd k }.flag f), f)

/-- The bytes of one column of the live factors, its padding rows left out. -/
def colBytes (s : State) (l b : Nat) (h : Hdr) (q : Bool) (j : Nat) : List Byte := rd s (skHome l (b + h.col q h.bank j 0)) (4 * h.len q)

/-- SKEMIT (R135): the header and the live columns, written at `dst`; the rows of a column beyond the sketch are +0 (R320). -/
def runEmit (s : State) (l b c : Nat) (dst : Word) : State :=
  let h := readHdr s l b
  let s1 := writeHome s (mHome s c dst) { h with bank := 0, op := 0, unit := 0, mj := 0, msrc := 0 }.bytes none
  [false, true].foldl (fun t q => (List.range h.c).foldl (fun t1 j =>
    writeHome t1 (imgHome s c dst (imgCol h h.c q j 0)) (colBytes s l b h q j ++ List.replicate (4 * (pad32 (h.len q) - h.len q)) 0) none) t) s1

end Sys2Proof.Machine
end

