-- ==== Sys2Proof/Machine/Lanes.lean ====
section
/-!
DEFINITION. What a V word computes (R171, R241 to R253, R112): its destination register, mask and g value from the
operands, the shape and the mask that it read at issue.
-/
namespace Sys2Proof.Machine

/-! One lane. -/

/-- The lane operation on bits of type `ty` in a rounding mode: `a`, `b` the sources, `c` the old destination
(R241 to R243). -/
def laneOp (op : VOp) (ty rm a b c : Nat) : Nat × BitVec 4 :=
  let w := widthOf ty
  let f := fmtOf ty
  let x := intValue ty w a
  let y := intValue ty w b
  let i := isInt ty
  match op with
  | .add => if i then ((a + b) % 2 ^ w, 0) else fAdd f rm a b
  | .sub => if i then (intBits w (x - y), 0) else fSub f rm a b
  | .mul => if i then (a * b % 2 ^ w, 0) else fMul f rm a b
  | .fma => if i then ((c + a * b) % 2 ^ w, 0) else fMulAdd f rm false c a b
  | .fms => if i then (intBits w ((c : Int) - (a * b : Nat)), 0) else fMulAdd f rm true c a b
  | .div =>
    if i then
      if b = 0 then (2 ^ w - 1, 0)
      else if isSigned ty && x = -(2 ^ (w - 1)) && y = -1 then (a, 0)
      else (intBits w (Int.tdiv x y), 0)
    else fDiv f rm a b
  | .sqrt => fSqrt f rm a
  | .min => if i then (if y < x then b else a, 0) else (fMinMax f false a b, 0)
  | .max => if i then (if x < y then b else a, 0) else (fMinMax f true a b, 0)
  | .abs => if i then (intBits w (if x < 0 then -x else x), 0)
    else ((if (decodeFloat f a).isNan then nanBits f else a % 2 ^ (w - 1)), 0)
  | .neg => if i then (intBits w (-x), 0)
    else ((if (decodeFloat f a).isNan then nanBits f else (a + 2 ^ (w - 1)) % 2 ^ w), 0)
  | .adds => if i then satInt ty w (x + y)
    else
      let u := decodeFloat f a
      let v := decodeFloat f b
      saturate f (u.finite && v.finite) (exactSum rm [u, v]).1.sign (fAdd f rm a b)
  | .subs => if i then satInt ty w (x - y)
    else
      let u := decodeFloat f a
      let v := (decodeFloat f b).neg
      saturate f (u.finite && v.finite) (exactSum rm [u, v]).1.sign (fSub f rm a b)
  | .and => (Nat.land a b, 0)
  | .or => (Nat.lor a b, 0)
  | .xor => (Nat.xor a b, 0)
  | .shl => (if w ≤ b then 0 else a * 2 ^ b % 2 ^ w, 0)
  | .shr => (if w ≤ b then 0 else a / 2 ^ b, 0)
  | .sar =>
    let v := intValue 0 w a
    (if w ≤ b then (if v < 0 then 2 ^ w - 1 else 0) else intBits w (v / 2 ^ b), 0)
  | .mulh => (intBits w (x * y / 2 ^ w), 0)
  | _ => (a, 0)

/-- A compare of one lane (R244): a NaN makes it false. -/
def laneTest (op : VOp) (ty a b : Nat) : Bool :=
  if isInt ty then
    let x := intValue ty (widthOf ty) a
    let y := intValue ty (widthOf ty) b
    match op with
    | .cmpeq => x == y | .cmplt => decide (x < y) | .cmple => decide (x ≤ y) | _ => false
  else
    let x := decodeFloat (fmtOf ty) a
    let y := decodeFloat (fmtOf ty) b
    if x.isNan || y.isNan then false
    else match op with
      | .cmpeq => numEq x y | .cmplt => numLt x y | .cmple => !numLt y x | _ => false

/-! Whole registers. -/

/-- The operand at a place in the list; 0 where there is none. -/
def srcAt (l : List VReg) (k : Nat) : VReg := l.getD k 0

/-- Lanes of width `w` computed where `act` holds and kept elsewhere, with the flags of the computed ones. -/
def overLanes (w n : Nat) (act : Nat → Bool) (old : VReg) (f : Nat → Nat × BitVec 4) : VReg × BitVec 4 :=
  let l := (List.range n).map (fun i => if act i then f i else (laneAt w old i, 0))
  (ofLanes w (l.map (·.1)), l.foldl (fun t p => t ||| p.2) 0)

/-- VQ8Q (R249): the whole register; an inactive lane counts as +0 (R408). -/
def q8Register (act : Nat → Bool) (a : VReg) : VReg × BitVec 4 :=
  let r := q8Quant ((List.range 64).map (fun i => if act i then laneAt 32 a i else 0))
  (ofLanes 8 (r.1 ++ (List.range 4).map (fun j => r.2.1 / 2 ^ (8 * j) % 256)), r.2.2)

/-- Bytes of one Z4 block: codes 2i and 2i + 1 in byte i (R104). -/
def z4Bytes (l : List Nat) : List Nat := (List.range 16).map (fun i => l.getD (2 * i) 0 + 16 * l.getD (2 * i + 1) 0)

/-- VZ4Q (R250): two blocks in a register. -/
def z4Register (t : Nat) (act : Nat → Bool) (a : VReg) : VReg × BitVec 4 :=
  let q := fun b => z4Quant t ((List.range 32).map (fun k => if act (32 * b + k) then laneAt 32 a (32 * b + k) else 0))
  let p := q 0
  let r := q 1
  (ofLanes 8 (z4Bytes p.1 ++ z4Bytes r.1 ++ [64 * t + p.2.1, 64 * t + r.2.1]), p.2.2 ||| r.2.2)

/-- The FP32 bits of code `i` of a register that holds two Z4 blocks (R250). -/
def z4Lane (a : VReg) (i : Nat) : Nat :=
  let c := laneAt 8 a (i / 2) / (if i % 2 = 0 then 1 else 16) % 16
  (roundNum fp32 0 (z4Value (BitVec.ofNat 8 (laneAt 8 a (32 + i / 32))) c)).1

/-- The destination register of a word; `old` is what it held (R171). -/
def vecResult (op : VOp) (sh : Word) (msk : BitVec 64) (masked : Bool) (src : List VReg) (old : VReg) : VReg × BitVec 4 :=
  let ty := etype sh
  let w := laneW sh
  let n := laneN sh
  let act := activeLane sh msk masked
  let a := srcAt src 0
  let b := srcAt src 1
  let each := fun f => overLanes w n act old (fun i => (f i, 0))
  match op with
  | .cvt rm t =>
    let k := min n (lanesOf t)
    overLanes (widthOf t) (lanesOf t) (fun i => decide (i < k) && act i) old (fun i => convert ty t rm (laneAt w a i))
  | .q8q => q8Register act a
  | .q8d => overLanes 32 64 act old (fun i => q8Deq (laneAt 8 a i) (a.toNat / 2 ^ 512 % 2 ^ 32))
  | .z4q t => z4Register t act a
  | .z4d => overLanes 32 64 act old (fun i => (z4Lane a i, 0))
  | .sel => overLanes w n (fun i => decide (i < shapeLen sh)) old (fun i => (if msk.getLsbD (i * 64 / n) then laneAt w a i else laneAt w b i, 0))
  | .perm => each (fun i => let k := laneAt w b i; if k < n then laneAt w a k else 0)
  | .slide => each (fun i => let k := i + laneAt w b 0; if k < n then laneAt w a k else 0)
  | .zip => each (fun i => if i % 2 = 0 then laneAt w a (i / 2) else laneAt w b (i / 2))
  | .unzip => each (fun i => if i < n / 2 then laneAt w a (2 * i) else laneAt w a (2 * (i - n / 2) + 1))
  | .bcast => each (fun _ => laneAt w a 0)
  | .iota => each (fun i => i % 2 ^ w)
  | .load lanes => overLanes w n (fun i => lanes.contains i) old (fun i => (laneAt w a i, 0))
  | .table => (a, 0)
  | .drain k => overLanes w n (fun i => decide (i < k)) old (fun i => (laneAt w a i, 0))
  | _ => overLanes w n act old (fun i => laneOp op ty (shapeRm sh) (laneAt w a i) (laneAt w b i) (laneAt w (srcAt src 2) i))

/-! Masks (R244, R245, R262). -/

/-- The lanes that mask bit `j` governs. -/
def govern (n j : Nat) : List Nat := (List.range n).filter (fun i => i * 64 / n = j)

/-- A mask from its 64 bits. -/
def ofBits (f : Nat → Bool) : BitVec 64 := BitVec.ofNat 64 ((List.range 64).foldr (fun j r => b2n (f j) + 2 * r) 0)

/-- The mask that a compare writes: a bit with no active lane keeps its value. -/
def cmpMask (op : VOp) (sh : Word) (msk : BitVec 64) (masked : Bool) (src : List VReg) (old : BitVec 64) : BitVec 64 :=
  let w := laneW sh
  let n := laneN sh
  ofBits (fun j =>
    let l := (govern n j).filter (activeLane sh msk masked)
    if l.isEmpty then old.getLsbD j
    else l.all (fun i => laneTest op (etype sh) (laneAt w (srcAt src 0) i) (laneAt w (srcAt src 1) i)))

/-- The mask register that a word writes. -/
def maskResult (op : VOp) (sh : Word) (msk : BitVec 64) (masked : Bool) (src : List VReg) (old : BitVec 64) : BitVec 64 :=
  let a := (srcAt src 0).setWidth 64
  let b := (srcAt src 1).setWidth 64
  match op with
  | .mand => a &&& b
  | .mor => a ||| b
  | .mxor => a ^^^ b
  | .mnot => ~~~ a
  | .drain k => ofBits (fun j => decide (j * laneN sh / 64 < k))
  | _ => cmpMask op sh msk masked src old

/-! Reductions (R112, R251). -/

/-- One level of the pairwise tree. -/
def pairUp {α : Type} (f : α → α → α) (l : List α) : List α :=
  match l with
  | a :: b :: r => f a b :: pairUp f r
  | l => l

/-- `k` levels of the tree. -/
def tree {α : Type} (f : α → α → α) (k : Nat) (l : List α) : List α :=
  match k with
  | 0 => l
  | j + 1 => tree f j (pairUp f l)

/-- A pair of FP32 values with flags combined. -/
def redPair (op : VOp) (rm : Nat) (x y : Nat × BitVec 4) : Nat × BitVec 4 :=
  match op with
  | .rmin => (fMinMax fp32 false x.1 y.1, 0)
  | .rmax => (fMinMax fp32 true x.1 y.1, 0)
  | _ => let r := fAdd fp32 rm x.1 y.1; (r.1, x.2 ||| y.2 ||| r.2)

/-- The identity of a float reduction: -0, +∞, -∞. -/
def redIdent (op : VOp) : Nat :=
  match op with
  | .rmin => infBits fp32 false
  | .rmax => infBits fp32 true
  | _ => zeroBits fp32 true

/-- The g value of a reduction. -/
def reduce (op : VOp) (sh : Word) (msk : BitVec 64) (masked : Bool) (a : VReg) : Word × BitVec 4 :=
  let ty := etype sh
  let w := laneW sh
  let n := laneN sh
  let act := activeLane sh msk masked
  if isInt ty then
    let v := ((List.range n).filter act).map (fun i => intValue ty w (laneAt w a i))
    match op with
    | .rmin => (BitVec.ofInt 64 (v.foldl min (intMax ty w)), 0)
    | .rmax => (BitVec.ofInt 64 (v.foldl max (intMin ty w)), 0)
    | _ => (BitVec.ofInt 64 (v.foldl (· + ·) 0), 0)
  else
    let l := (List.range n).map (fun i => if act i then convert ty 6 0 (laneAt w a i) else (redIdent op, (0 : BitVec 4)))
    let r := (tree (redPair op (shapeRm sh)) 8 l).headD (0, 0)
    (wd r.1, r.2)

/-- The number of 1 bits among the low `n`. -/
def onesBelow (n : Nat) (m : BitVec 64) : Nat := ((List.range n).filter (fun j => m.getLsbD j)).length

/-- The g register that a word writes. -/
def gResult (op : VOp) (sh : Word) (msk : BitVec 64) (masked : Bool) (src : List VReg) : Word × BitVec 4 :=
  match op with
  | .mvg => ((srcAt src 0).setWidth 64, 0)
  | .mpop => (wd (onesBelow ((shapeLen sh * 64 + laneN sh - 1) / laneN sh) ((srcAt src 0).setWidth 64)), 0)
  | _ => reduce op sh msk masked (srcAt src 0)

end Sys2Proof.Machine
end

