-- ==== Sys2Proof/Machine/Vector.lean ====
section
/-!
DEFINITION. The issue of V words (R238, R239, R255, R378 codes 0x08 and 0x0A, R412), their landing (R170, R117, R410)
and the V words themselves (R240 to R265).
-/
namespace Sys2Proof.Machine

/-! Operand fields (R185, R239). -/

/-- The field names a channel. -/
def isChan (f : BitVec 6) : Bool := f.getLsbD 5
/-- The channel or register that a field names. -/
def chanNo (f : BitVec 6) : Nat := f.toNat % 16
/-- The v register that a field names. -/
def regNo (f : BitVec 6) : Nat := f.toNat % 32
/-- The field peeks. -/
def isPeek (f : BitVec 6) : Bool := f.getLsbD 4

/-- What a V word names and accepts: sources in order, destination, further v registers, masks read and written, g registers, whether
it reads lanes or LEN, the streams it uses, whether it needs its sources' values to form its accesses, whether it stores, and its types (R238). -/
structure VNeed where
  srcs : List (BitVec 6) := []
  dst : Option (BitVec 6) := none
  regs : List Nat := []
  masks : List Nat := []
  mdst : List Nat := []
  gs : List Nat := []
  shaped : Bool := true
  streams : List Nat := []
  ahead : Bool := false
  stores : Bool := false
  accept : Nat → Bool := fun ty => decide (ty < 11)

/-- The v registers that a word names. -/
def VNeed.vregs (n : VNeed) : List Nat :=
  ((n.srcs ++ n.dst.toList).filter (fun f => !isChan f)).map regNo ++ n.regs

/-- A V word in flight holds a load lock on the register (R255). -/
def locked (x : Cell) (r : Nat) : Bool := x.pend.any (fun p => p.lock && p.vd.contains r)

/-- A V word in flight holds a load lock on the mask register (R174). -/
def lockedMask (x : Cell) (r : Nat) : Bool := x.pend.any (fun p => p.lock && p.md = some r)

/-- S has passed the position of an agent's word, and the g registers hold every earlier result (R167, R267, R287). A V word that only
writes a g register waits likewise, so that S's earlier reads and writes of it are over (log 25, DESIGN CHOICE). -/
def gReady (x : Cell) (e : Engine) (rs : List Nat) : Bool :=
  rs.all (fun r => r = 0 || (decide ((x.agent e).dpos < (x.agent .S).dpos) && (wroteSince x (x.agent e).dpos r || !gBusy x r)))

/-- The first of the v registers that lies in a lent bank. -/
def lentReg (x : Cell) (rs : List Nat) : Option Nat := rs.find? (fun r => (Tab.look x.lent (r / 8)).isSome)

/-- The class 0x01 fault that a V word's state at issue raises (R378 codes 0x08, 0x0A, 0x12 and 0x13). -/
def vFlt (x : Cell) (sh : Word) (need : VNeed) : Option Flt :=
  if need.shaped && (11 ≤ etype sh || !need.accept (etype sh) || laneN sh < shapeLen sh) then some { cls := 1, code := 8, aux2 := sh }
  else match lentReg x need.vregs with
    | some r => some { cls := 1, code := 0xA, aux2 := wd r }
    | none => need.streams.findSome? (fun n => streamFlt x n (etype sh))

/-- What a V word holds when it issues: the state with its pops made, its operands, the loads they await, the shape and
the mask that MSEL names. -/
structure VIn where
  s : State
  c : Nat
  src : List VReg
  late : List Late
  sh : Word
  msk : BitVec 64

/-- The lanes that the word works on. -/
def VIn.act (i : VIn) (masked : Bool) : Nat → Bool := activeLane i.sh i.msk masked

/-- Sources read in order, pops made (R173): a wait or a fault undoes them (R359); of the faults of several sources the first in the order of R361
stands. -/
def readSrcs (s : State) (c : Nat) (sh : Word) (act : Nat → Bool) (k : Nat) (l : List (BitVec 6)) : State × Res (Option (List VReg × List Late) × Wait) :=
  match l with
  | [] => (s, .ok (some ([], []), .none))
  | f :: r =>
    let rest := fun s1 v (late : List Late) =>
      match readSrcs s1 c sh act (k + 1) r with
      | (s2, .ok (some q, w)) => (s2, Res.ok (some (v :: q.1, late ++ q.2), w))
      | p => p
    if isChan f then
      match vPop s c (chanNo f) k (isPeek f) sh act with
      | .wait => (s, .ok (none, .chanPop (chanNo f)))
      | .flt e => (match readSrcs s c sh act (k + 1) r with
        | (_, .ok (none, w)) => (s, .ok (none, w))
        | (_, .flt f) => (s, .flt (firstFlt e f))
        | _ => (s, .flt e))
      | .got s1 v none => rest s1 v []
      | .got s1 v (some q) => rest s1 v [⟨q.1, k, q.2⟩]
    else rest s ((s.cell c).vreg (regNo f)) []

/-- A peek and a pop of one channel in one word both read the head, and the pop then removes it (R173): a peek of
source 2 after a pop of source 1 is read first. -/
def peekAfterPop (l : List (BitVec 6)) : Bool :=
  match l with
  | [a, b] => isChan a && isChan b && chanNo a = chanNo b && !isPeek a && isPeek b
  | _ => false

/-- The sources of a word in the order that R173 gives. -/
def vSources (s : State) (c : Nat) (sh : Word) (act : Nat → Bool) (l : List (BitVec 6)) : State × Res (Option (List VReg × List Late) × Wait) :=
  if peekAfterPop l then
    match readSrcs s c sh act 0 l.reverse with
    | (s1, .ok (some q, w)) => (s1, .ok (some (q.1.reverse, q.2.map (fun (x : Late) => { x with src := 1 - x.src })), w))
    | p => p
  else readSrcs s c sh act 0 l

/-- The destination channel of a word has room. -/
def dstRoom (s : State) (c : Nat) (sh : Word) (act : Nat → Bool) (d : Option (BitVec 6)) : Room :=
  match d with
  | none => .ok
  | some f => if isChan f then pushRoom s c (chanNo f) .V (loS ((s.cell c).agent .V)) sh act else .ok

/-- The channels of a word: its operands, with its pops made; a wait; or the fault that R361 names first. -/
def vChannels (s : State) (c : Nat) (sh : Word) (act : Nat → Bool) (need : VNeed) : State × Res (Option (List VReg × List Late) × Wait) :=
  let r := vSources s c sh act need.srcs
  match dstRoom s c sh act need.dst, r.2 with
  | .wait, _ => (s, .ok (none, .chanPush ((need.dst.map chanNo).getD 0)))
  | _, .ok (none, w) => (s, .ok (none, w))
  | .flt f, .flt g => (s, .flt (firstFlt f g))
  | .flt f, .ok _ => (s, .flt f)
  | .ok, _ => r

/-- Read ahead through KIND 4 channels for a word that needs its source values to form its accesses (a store, a gather; R174): each such source
enters its load and passes its group, in the order in which the sources are read. -/
def readAhead (s : State) (c : Nat) (sh : Word) (msk : BitVec 64) (act : Nat → Bool) (k : Nat) (l : List (BitVec 6)) : State :=
  match l with
  | [] => s
  | f :: r =>
    let x := s.cell c
    let b := effBind (x.chan (chanNo f))
    let i := x.stream (portStream b)
    let g := groupOf i (shapeLen sh)
    let undo := if isPeek f then none else some (portStream b, g.1, decide (g.1 + g.2 = tileSize i))
    let keep := fun (t : State) q => t.setCell c { t.cell c with vpre := Tab.set (t.cell c).vpre k q }
    if !isChan f || bKind b != 4 then readAhead s c sh msk act (k + 1) r
    else match popPort s c (chanNo f) k (isPeek f) sh act with
      | .got s1 _ (some q) => readAhead (keep s1 ⟨q.1, q.2, none, sh, msk, undo⟩) c sh msk act (k + 1) r
      | .got s1 v none => readAhead (keep s1 ⟨0, List.range (laneN sh), some (leList 256 v.toNat), sh, msk, undo⟩) c sh msk act (k + 1) r
      | _ => readAhead s c sh msk act (k + 1) r

/-- What a word that has read ahead leaves: its loads, and the store queue entry of a word that stores, which it enters as it issues (R142). -/
def goAhead (s : State) (c : Nat) (sh : Word) (msk : BitVec 64) (act : Nat → Bool) (need : VNeed) : State :=
  let s1 := readAhead s c sh msk act 0 (if peekAfterPop need.srcs then need.srcs.reverse else need.srcs)
  let x := s1.cell c
  if need.stores then s1.setCell c { enterAwaiting x x.nextId (x.agent .V).dpos [] with nextId := x.nextId + 1 } else s1

/-- The word has issued: what was read ahead is used up. -/
def clearAhead (s : State) (c : Nat) : State := s.setCell c { s.cell c with vpre := [] }

/-- VSHAPE and the mask that a V word works under: as they stand, or as they stood when the word first read through a KIND 4 channel,
which is its issue (R174). -/
def issueShape (x : Cell) : Word × BitVec 64 :=
  match x.vpre with
  | (_, q) :: _ => (q.shape, q.msk)
  | [] => (x.vshape, x.mreg (msel x.vshape))

/-- What a V word does once it may issue. -/
inductive VAct where
  | done (s : State)
  | wait (w : Wait)
  | flt (f : Flt)

/-- A V word faults before it has any effect (R359). -/
def vFault (s : State) (c : Nat) (f : Flt) : State := fault (s.setCell c (s.cell c).undoAhead) c .V f

/-- V passes a word; after a push that it issues again it goes on where it stood as the push was refused (R359, log 68). -/
def vRetire (s : State) (c : Nat) (t : BitVec 4) (n : Nat) : State :=
  let s1 := retire s c .V t n
  let x := s1.cell c
  match x.vahead with
  | [] => s1
  | a :: r => s1.setCell c { x.setAgent .V a with vahead := r }

/-- A V word of `n` words with token bits `t` (R238): the interlocks, the checks of R378, the channels, then `k`. -/
def vWord (s : State) (t : BitVec 4) (n : Nat) (masked : Bool) (need : VNeed) (k : VIn → VAct) : Out :=
  match s.cur with
  | .ik d => .next (ikBad s d 1)
  | .agent c .V =>
    let s1 := flushSig s c .V
    let x := s1.cell c
    let sh := (issueShape x).1
    let ms := need.masks ++ (if masked then [msel sh] else [])
    match blocked s1 c .V t n with
    | some w => .next (waits s1 c .V w)
    | none =>
      if ms.any (mBusy x) || !gReady x .V need.gs || need.vregs.any (locked x) || need.mdst.any (lockedMask x) || (bits x.arithctl 0 3 != 0 && !x.pend.isEmpty) || need.streams.any (imageOut x) then
        .next (waits s1 c .V .other)
      else
        let msk := (issueShape x).2
        let act := activeLane sh msk masked
        match vFlt x sh need, vChannels s1 c sh act need with
        | some f, (_, .flt g) => .next (vFault s1 c (firstFlt f g))
        | some f, _ => .next (vFault s1 c f)
        | none, (_, .flt g) => .next (vFault s1 c g)
        | none, (_, .ok (none, w)) => .next (waits s1 c .V w)
        | none, (s2, .ok (some q, _)) =>
          if need.ahead && !q.2.isEmpty then
            .next (waits (if need.stores && (!storeRoom x 1 || need.streams.any (fun n => !ringRoom x n)) then s1 else goAhead s1 c sh msk act need) c .V .other)
          else match k ⟨s2, c, q.1, q.2, sh, msk⟩ with
            | .done s3 => .next (vRetire (clearAhead s3 c) c t n)
            | .wait w => .next (waits s1 c .V w)
            | .flt f => .next (vFault s1 c f)
  | .agent c e => .next (skipWords s c e n)

/-! Words in flight. -/

/-- The destinations of a V word. -/
structure VDst where
  dst : Option (BitVec 6) := none
  vd : List Nat := []
  md : Option Nat := none
  gd : Option Nat := none

/-- Put a V word in flight (R170): a channel destination reserves its slot, a push to a KIND 4 port its place in the store queue (R142), an operand
that awaits a load holds the destinations under the load lock. -/
def emit (i : VIn) (op : VOp) (lat : Nat) (masked : Bool) (d : VDst) (src : List VReg) (late : List Late) : State :=
  let x := i.s.cell i.c
  let a := x.agent .V
  let ch := d.dst.bind (fun f => if isChan f then some (chanNo f) else none)
  let vr := (d.dst.bind (fun f => if isChan f then none else some (regNo f))).toList ++ d.vd
  let port := ch.bind (fun n => let b := effBind (x.chan n); if bKind b = 4 then some (portStream b, loS a (portStream b)) else none)
  let p : VPend := ⟨x.nextId, a.pc, a.dpos, op, i.sh, i.msk, masked, x.arithctl.setWidth 4, src, late, lat,
    if late.isEmpty then some (i.s.now + lat) else none, !late.isEmpty, vr, d.md, d.gd, ch, port, if port.isSome then some a else none⟩
  let y := { x with pend := x.pend ++ [p], nextId := x.nextId + 1 }
  let s1 := i.s.setCell i.c (match port.bind (fun q => portPlan i.s i.c q.1 q.2 i.sh (i.act masked)) with
    | some l => enterAwaiting y p.id a.dpos l
    | none => y)
  match ch with
  | some n => if port.isSome then s1 else addSlot s1 i.c n ⟨p.id, none⟩
  | none => s1

/-- Flags set in VSTAT at a landing (R117). -/
def setVstat (x : Cell) (f : BitVec 4) : Cell := { x with vstat := x.vstat ||| ((f &&& 7).setWidth 64) }

/-- The results of a landing word written to its registers: v, mask and g destinations, with the flags it raises. -/
def landRegs (x : Cell) (p : VPend) : Cell × BitVec 4 :=
  let vs := p.vd.zip (List.range p.vd.length)
  let r := vs.foldl (fun (q : Cell × BitVec 4) d =>
    let src := match p.op with | .drain _ => p.src.drop d.2 | _ => p.src
    let y := vecResult p.op p.shape p.msk p.masked src (q.1.vreg d.1)
    ({ q.1 with v := Tab.set q.1.v d.1 y.1 }, q.2 ||| y.2)) (x, 0)
  let x1 := match p.md with
    | some m => { r.1 with m := Tab.set r.1.m m (maskResult p.op p.shape p.msk p.masked p.src (x.mreg m)) }
    | none => r.1
  match p.gd with
  | some g => let y := gResult p.op p.shape p.msk p.masked p.src; (x1.landG p.dpos g y.1, r.2 ||| y.2)
  | none => (x1, r.2)

/-- A word in flight pushes through the KIND 4 port of stream `n`. -/
def pushesTo (n : Nat) (p : VPend) : Bool := p.adv.any (fun a => a.1 = n)

/-- How a landing into a channel ends: done with its flags, held back, or refused by a fault. -/
inductive Landed where
  | ok (s : State) (f : BitVec 4)
  | wait (s : State)
  | flt (s : State) (f : Flt)

/-- A landing into a channel (R173, R174): lanes that no active lane wrote are free (log 2). A push through a KIND 4 port lands after
those issued before it, and waits for room in the ring; its values go into its entry of the store queue. -/
def landChan (s : State) (c : Nat) (p : VPend) : Landed :=
  match p.ch with
  | none => .ok s 0
  | some n =>
    let y := vecResult p.op p.shape p.msk p.masked p.src (Config.freeVec s.ticks)
    let s1 := { s with ticks := s.ticks + 1 }
    match p.adv with
    | none => .ok (fillSlot s1 c n p.id y.1) y.2
    | some st =>
      let x := s1.cell c
      if !ringRoom x st.1 || imageOut x st.1 || x.pend.any (fun q => q.id < p.id && pushesTo st.1 q) then .wait s
      else
        let own := if x.stores.any (fun q => q.id = p.id && q.awaits) then some p.id else none
        match pushPort s1 c .V p.dpos st.1 own st.2 p.shape (activeLane p.shape p.msk p.masked) y.1 with
        | (s2, some f) => .flt s2 f
        | (s2, none) => .ok s2 y.2

/-- Drop a word from those in flight. -/
def endPend (x : Cell) (id : Nat) : Cell := { x with pend := x.pend.filter (fun p => p.id != id) }

/-- A push in flight is given back: the word lands nothing and sets no flag, and V stands at it again, its tokens taken; from there it goes on
where it stood, so that no later word issues twice (R359, log 68). -/
def givenBack (y : Cell) (p : VPend) : Cell :=
  let x := endPend (dropAwaiting y p.id) p.id
  match p.back with
  | none => x
  | some b =>
    let a := { b with taken := b.dpos :: b.taken }
    if a.dpos < (x.agent .V).dpos then { x.setAgent .V a with vahead := x.agent .V :: x.vahead }
    else { x with vahead := x.vahead.filter (fun q => decide (q.dpos < a.dpos)) ++ a :: x.vahead.filter (fun q => decide (a.dpos < q.dpos)) }

/-- A push that is refused at its landing (R174): it is given back and reported with DLV 0 (R359, R389, log 68). -/
def returnPush (s : State) (c : Nat) (p : VPend) (f : Flt) : State :=
  raise (s.setCell c (givenBack (s.cell c) p)) c .V f p.pc p.dpos

/-- A push whose landing waits for room in its ring keeps no deadline; where its gang halts, so that nobody makes room, it is given back (log 68). -/
def pushWaits (s : State) (c : Nat) (p : VPend) : State :=
  let x := s.cell c
  let stops := match gangOf s c with | some g => g.run == GangRun.halting | none => false
  s.setCell c (if stops then givenBack x p else { x with pend := x.pend.map (fun q => if q.id = p.id then { q with due := none } else q) })

/-- One word lands: its writes, its flags, its trap (R170, R117, R410, R411). A landing that waits for a ring's room
keeps no deadline. -/
def landOne (s : State) (c : Nat) (p : VPend) : State :=
  match landChan s c p with
  | .wait s1 => pushWaits s1 c p
  | .flt s1 f => returnPush s1 c p f
  | .ok s1 f0 =>
    let r := landRegs (s1.cell c) p
    let f := r.2 ||| f0
    let s2 := s1.setCell c (endPend (setVstat r.1 f) p.id)
    if f &&& p.traps &&& 7 = 0 then s2
    else raise s2 c .V { cls := 0xA, code := 1, aux := (p.traps ++ f).setWidth 64, dlv := 1 } p.pc p.dpos

/-- Two words in flight write a common destination. -/
def sameDst (p q : VPend) : Bool := p.vd.any (fun r => q.vd.contains r) || (p.md.isSome && p.md == q.md) || (p.gd.isSome && p.gd == q.gd) || p.adv.any (fun a => pushesTo a.1 q)

/-- A word may land: its operands are all there, and the cycle is one from the next after its issue, or after its last operand's return,
to the last of its latency (R170, R255). -/
def landable (now : Nat) (p : VPend) : Bool := p.late.isEmpty && (match p.due with | some d => decide (d < now + p.lat) | none => true)

/-- The words of `l`, in issue order, that land before `p` does: those issued before it that share a destination with it, or with one of these
(R170). -/
def landFirst (now : Nat) (p : VPend) (l : List VPend) : List VPend :=
  l.foldr (fun q r => if decide (q.id < p.id) && (p :: r).any (sameDst q) && landable now q then q :: r else r) []

/-- Land the word `id`, earlier-issued words of a common destination first, so that the later-issued value stays
(R170). -/
def landWord (s : State) (c id : Nat) : State :=
  match (s.cell c).pend.find? (fun p => p.id = id) with
  | none => s
  | some p =>
    if !landable s.now p then s
    else landOne ((landFirst s.now p (s.cell c).pend).foldl (fun t q => landOne t c q) s) c p

/-- R170 V_WRITE_LANDING: word `i` of cell `c` lands. -/
def execVWriteLanding (c i : Nat) (s : State) : Out := if c < 512 then .next (landWord s c i) else .next s

/-- Bytes given to the word that awaits load `id`; a word whose operands are all there lands in the next cycles: a
vector load at once, others within L (R174, R255). -/
def giveBytes (now : Nat) (id : Nat) (b : List Byte) (p : VPend) : VPend :=
  match p.late.find? (fun q => q.load = id) with
  | none => p
  | some q =>
    let rest := p.late.filter (fun r => r.load != id)
    let v := fillLanes (laneW p.shape) q.lanes b (srcAt p.src q.src)
    { p with src := p.src.set q.src v, late := rest, due := if rest.isEmpty then some (now + p.lat) else none }

/-- R255 VECTOR_LOAD_LANDING: the bytes of the returned load `i` reach the V word of cell `c` that awaits them. -/
def execVectorLoadLanding (c i : Nat) (s : State) : Out :=
  let x := s.cell c
  match x.returning.find? (fun l => l.id = i && l.dest = .vec) with
  | none => .next s
  | some l =>
    if 512 ≤ c then .next s
    else .next (s.setCell c { x with
      returning := x.returning.filter (fun q => q.id != i), pend := x.pend.map (giveBytes s.now i l.got)
      vpre := x.vpre.map (fun p => (p.1, if p.2.load = i then { p.2 with bytes := some l.got } else p.2)) })

/-! Plain words. -/

/-- Types F. -/
def tyF (ty : Nat) : Bool := isFloat ty
/-- Types I. -/
def tyI (ty : Nat) : Bool := isInt ty
/-- `f32` only. -/
def tyF32 (ty : Nat) : Bool := ty == 6
/-- MK as a Bool. -/
def mk (m : BitVec 1) : Bool := m == 1

/-- A word from sources to a v register or channel with latency `lat` of the type. -/
def vPlain (s : State) (t : BitVec 4) (n : Nat) (masked : Bool) (op : VOp) (srcs : List (BitVec 6)) (d : BitVec 6)
    (lat : Nat → Nat) (accept : Nat → Bool) : Out :=
  vWord s t n masked { srcs := srcs, dst := some d, accept := accept }
    (fun i => .done (emit i op (lat (etype i.sh)) masked { dst := some d } i.src i.late))

/-- Latency 2 for I, 4 for F. -/
def lat24 (ty : Nat) : Nat := if isInt ty then 2 else 4

/-- The latest L of a plain word that is 4 for both. -/
def vBin (s : State) (t : BitVec 4) (d a b : BitVec 6) (m : BitVec 1) (op : VOp) (lat : Nat → Nat) (accept : Nat → Bool) : Out :=
  vPlain s t 1 (mk m) op [a, b] d lat accept

/-- A one-source word. -/
def vUn (s : State) (t : BitVec 4) (d a : BitVec 6) (m : BitVec 1) (op : VOp) (lat : Nat → Nat) (accept : Nat → Bool) : Out :=
  vPlain s t 1 (mk m) op [a] d lat accept

/-- F and I together. -/
def tyFI (ty : Nat) : Bool := ty < 11

/-- R241 VADD. -/
def execVadd (t : BitVec 4) (d a b : BitVec 6) (m : BitVec 1) (s : State) : Out := vBin s t d a b m .add lat24 tyFI
/-- R241 VSUB. -/
def execVsub (t : BitVec 4) (d a b : BitVec 6) (m : BitVec 1) (s : State) : Out := vBin s t d a b m .sub lat24 tyFI
/-- R241 VMUL. -/
def execVmul (t : BitVec 4) (d a b : BitVec 6) (m : BitVec 1) (s : State) : Out := vBin s t d a b m .mul (fun _ => 4) tyFI
/-- R241, R242 VDIV. -/
def execVdiv (t : BitVec 4) (d a b : BitVec 6) (m : BitVec 1) (s : State) : Out := vBin s t d a b m .div (fun _ => 12) tyFI
/-- R241 VSQRT. -/
def execVsqrt (t : BitVec 4) (d a : BitVec 6) (m : BitVec 1) (s : State) : Out := vUn s t d a m .sqrt (fun _ => 12) tyF
/-- R241 VMIN. -/
def execVmin (t : BitVec 4) (d a b : BitVec 6) (m : BitVec 1) (s : State) : Out := vBin s t d a b m .min lat24 tyFI
/-- R241 VMAX. -/
def execVmax (t : BitVec 4) (d a b : BitVec 6) (m : BitVec 1) (s : State) : Out := vBin s t d a b m .max lat24 tyFI
/-- R241 VABS. -/
def execVabs (t : BitVec 4) (d a : BitVec 6) (m : BitVec 1) (s : State) : Out := vUn s t d a m .abs lat24 tyFI
/-- R241 VNEG. -/
def execVneg (t : BitVec 4) (d a : BitVec 6) (m : BitVec 1) (s : State) : Out := vUn s t d a m .neg lat24 tyFI
/-- R241 VADDS. -/
def execVadds (t : BitVec 4) (d a b : BitVec 6) (m : BitVec 1) (s : State) : Out := vBin s t d a b m .adds lat24 tyFI
/-- R241 VSUBS. -/
def execVsubs (t : BitVec 4) (d a b : BitVec 6) (m : BitVec 1) (s : State) : Out := vBin s t d a b m .subs lat24 tyFI
/-- R241 VAND. -/
def execVand (t : BitVec 4) (d a b : BitVec 6) (m : BitVec 1) (s : State) : Out := vBin s t d a b m .and (fun _ => 2) tyFI
/-- R241 VOR. -/
def execVor (t : BitVec 4) (d a b : BitVec 6) (m : BitVec 1) (s : State) : Out := vBin s t d a b m .or (fun _ => 2) tyFI
/-- R241 VXOR. -/
def execVxor (t : BitVec 4) (d a b : BitVec 6) (m : BitVec 1) (s : State) : Out := vBin s t d a b m .xor (fun _ => 2) tyFI
/-- R242 VSHL. -/
def execVshl (t : BitVec 4) (d a b : BitVec 6) (m : BitVec 1) (s : State) : Out := vBin s t d a b m .shl (fun _ => 2) tyI
/-- R242 VSHR. -/
def execVshr (t : BitVec 4) (d a b : BitVec 6) (m : BitVec 1) (s : State) : Out := vBin s t d a b m .shr (fun _ => 2) tyI
/-- R242 VSAR. -/
def execVsar (t : BitVec 4) (d a b : BitVec 6) (m : BitVec 1) (s : State) : Out := vBin s t d a b m .sar (fun _ => 2) tyI
/-- R242 VMULH. -/
def execVmulh (t : BitVec 4) (d a b : BitVec 6) (m : BitVec 1) (s : State) : Out := vBin s t d a b m .mulh (fun _ => 4) tyI
/-- The mask register that MSEL names for the V word of whoever moves. -/
def curMask (s : State) : List Nat := match s.cur with | .agent c _ => [msel (issueShape (s.cell c)).1] | .ik _ => []

/-- R246 VSEL: the mask that MSEL names selects, although MK is 0. -/
def execVsel (t : BitVec 4) (d a b : BitVec 6) (s : State) : Out :=
  vWord s t 1 false { srcs := [a, b], dst := some d, masks := curMask s }
    (fun i => .done (emit i .sel 2 false { dst := some d } i.src i.late))
/-- R252 VPERM. -/
def execVperm (t : BitVec 4) (d a b : BitVec 6) (m : BitVec 1) (s : State) : Out := vBin s t d a b m .perm (fun _ => 3) tyFI
/-- R252 VSLIDE. -/
def execVslide (t : BitVec 4) (d a b : BitVec 6) (m : BitVec 1) (s : State) : Out := vBin s t d a b m .slide (fun _ => 3) tyFI
/-- R252 VZIP. -/
def execVzip (t : BitVec 4) (d a b : BitVec 6) (m : BitVec 1) (s : State) : Out := vBin s t d a b m .zip (fun _ => 3) tyFI
/-- R252 VUNZIP. -/
def execVunzip (t : BitVec 4) (d a : BitVec 6) (m : BitVec 1) (s : State) : Out := vUn s t d a m .unzip (fun _ => 3) tyFI

/-- VFMA and VFMS: the old value of vd, a v register, is the addend (R243). -/
def vMulAdd (s : State) (t : BitVec 4) (d : BitVec 5) (a b : BitVec 6) (m : BitVec 1) (op : VOp) : Out :=
  vWord s t 1 (mk m) { srcs := [a, b], regs := [d.toNat] }
    (fun i => .done (emit i op 4 (mk m) { vd := [d.toNat] } (i.src ++ [(i.s.cell i.c).vreg d.toNat]) i.late))

/-- R243 VFMA. -/
def execVfma (t : BitVec 4) (d : BitVec 5) (a b : BitVec 6) (m : BitVec 1) (s : State) : Out := vMulAdd s t d a b m .fma
/-- R243 VFMS. -/
def execVfms (t : BitVec 4) (d : BitVec 5) (a b : BitVec 6) (m : BitVec 1) (s : State) : Out := vMulAdd s t d a b m .fms

/-! Shape, compares and masks. -/

/-- R240 VSHAPE: the extension becomes VSHAPE for the V words issued after this one; ETYPE 0xB to 0xF or LEN above N is out of
range (R378 code 0x05), and so is a bit that R240 sets to 0 (code 0x02). -/
def execVshape (t : BitVec 4) (x : BitVec 32) (s : State) : Out :=
  vWord s t 2 false { shaped := false } (fun i =>
    let v := x.setWidth 64
    if bits v 24 8 != 0 || bits v 18 1 != 0 || bits v 4 5 != 0 then .flt { cls := 1, code := 2 }
    else if 11 ≤ etype v || laneN v < shapeLen v then .flt { cls := 1, code := 5 }
    else .done (i.s.setCell i.c { i.s.cell i.c with vshape := v }))

/-- A compare (R244). -/
def vCmp (s : State) (t : BitVec 4) (d : BitVec 3) (a b : BitVec 6) (m : BitVec 1) (op : VOp) : Out :=
  vWord s t 1 (mk m) { srcs := [a, b], mdst := [d.toNat] }
    (fun i => .done (emit i op 2 (mk m) { md := some d.toNat } i.src i.late))

/-- R244 VCMPEQ. -/
def execVcmpeq (t : BitVec 4) (d : BitVec 3) (a b : BitVec 6) (m : BitVec 1) (s : State) : Out := vCmp s t d a b m .cmpeq
/-- R244 VCMPLT. -/
def execVcmplt (t : BitVec 4) (d : BitVec 3) (a b : BitVec 6) (m : BitVec 1) (s : State) : Out := vCmp s t d a b m .cmplt
/-- R244 VCMPLE. -/
def execVcmple (t : BitVec 4) (d : BitVec 3) (a b : BitVec 6) (m : BitVec 1) (s : State) : Out := vCmp s t d a b m .cmple

/-- Mask logic on all 64 bits (R245). -/
def vMask (s : State) (t : BitVec 4) (d : BitVec 3) (l : List (BitVec 3)) (op : VOp) : Out :=
  vWord s t 1 false { masks := l.map (·.toNat), mdst := [d.toNat], shaped := false }
    (fun i => .done (emit i op 1 false { md := some d.toNat } (l.map (fun a => ((i.s.cell i.c).mreg a.toNat).setWidth 2048)) []))

/-- R245 VMAND. -/
def execVmand (t : BitVec 4) (d a b : BitVec 3) (s : State) : Out := vMask s t d [a, b] .mand
/-- R245 VMOR. -/
def execVmor (t : BitVec 4) (d a b : BitVec 3) (s : State) : Out := vMask s t d [a, b] .mor
/-- R245 VMXOR. -/
def execVmxor (t : BitVec 4) (d a b : BitVec 3) (s : State) : Out := vMask s t d [a, b] .mxor
/-- R245 VMNOT. -/
def execVmnot (t : BitVec 4) (d a : BitVec 3) (s : State) : Out := vMask s t d [a] .mnot

/-- R247 VMPOP. -/
def execVmpop (t : BitVec 4) (a : BitVec 3) (g : BitVec 5) (s : State) : Out :=
  vWord s t 2 false { masks := [a.toNat], gs := [g.toNat] }
    (fun i => .done (emit i .mpop 2 false { gd := some g.toNat } [((i.s.cell i.c).mreg a.toNat).setWidth 2048] []))

/-! Conversions (R248 to R250). -/

/-- A conversion with a VT extension: `ok` says that the extension is the one its entry gives (R378 code 0x05). -/
def vConv (s : State) (t : BitVec 4) (d a : BitVec 6) (m : BitVec 1) (ok : Bool) (op : VOp) (lat : Nat) (accept : Nat → Bool) : Out :=
  if ok then vPlain s t 2 (mk m) op [a] d (fun _ => lat) accept
  else vWord s t 2 false { shaped := false } (fun _ => .flt { cls := 1, code := 5 })

/-- R248 VCVT. -/
def execVcvt (t : BitVec 4) (d a : BitVec 6) (m : BitVec 1) (q : BitVec 2) (y : BitVec 4) (s : State) : Out :=
  vConv s t d a m (decide (y.toNat < 11)) (.cvt q.toNat y.toNat) 3 tyFI
/-- R249, R408 VQ8Q. -/
def execVq8q (t : BitVec 4) (d a : BitVec 6) (m : BitVec 1) (q : BitVec 2) (y : BitVec 4) (s : State) : Out :=
  vConv s t d a m (q == 0 && y == 0xC) .q8q 8 tyF32
/-- R249 VQ8D. -/
def execVq8d (t : BitVec 4) (d a : BitVec 6) (m : BitVec 1) (q : BitVec 2) (y : BitVec 4) (s : State) : Out :=
  vConv s t d a m (q == 0 && y == 6) .q8d 4 tyF32
/-- R250, R409 VZ4Q. -/
def execVz4q (t : BitVec 4) (d a : BitVec 6) (m : BitVec 1) (q : BitVec 2) (y : BitVec 4) (s : State) : Out :=
  vConv s t d a m (y == 0xB) (.z4q q.toNat) 8 tyF32
/-- R250 VZ4D. -/
def execVz4d (t : BitVec 4) (d a : BitVec 6) (m : BitVec 1) (q : BitVec 2) (y : BitVec 4) (s : State) : Out :=
  vConv s t d a m (q == 0 && y == 6) .z4d 3 tyF32

/-! Reductions and moves to and from g (R251, R253). -/

/-- A reduction into a g register (R251). -/
def vReduce (s : State) (t : BitVec 4) (a : BitVec 6) (m : BitVec 1) (g : BitVec 5) (op : VOp) : Out :=
  vWord s t 2 (mk m) { srcs := [a], gs := [g.toNat] }
    (fun i => .done (emit i op 8 (mk m) { gd := some g.toNat } i.src i.late))

/-- R251 VRSUM. -/
def execVrsum (t : BitVec 4) (a : BitVec 6) (m : BitVec 1) (g : BitVec 5) (s : State) : Out := vReduce s t a m g .rsum
/-- R251 VRMIN. -/
def execVrmin (t : BitVec 4) (a : BitVec 6) (m : BitVec 1) (g : BitVec 5) (s : State) : Out := vReduce s t a m g .rmin
/-- R251 VRMAX. -/
def execVrmax (t : BitVec 4) (a : BitVec 6) (m : BitVec 1) (g : BitVec 5) (s : State) : Out := vReduce s t a m g .rmax

/-- R253 VBCAST. -/
def execVbcast (t : BitVec 4) (d : BitVec 6) (m : BitVec 1) (g : BitVec 5) (s : State) : Out :=
  vWord s t 2 (mk m) { dst := some d, gs := [g.toNat] }
    (fun i => .done (emit i .bcast 2 (mk m) { dst := some d } [((i.s.cell i.c).gAt .V g.toNat).setWidth 2048] []))
/-- R253 VIOTA. -/
def execViota (t : BitVec 4) (d : BitVec 6) (m : BitVec 1) (s : State) : Out :=
  vWord s t 1 (mk m) { dst := some d } (fun i => .done (emit i .iota 2 (mk m) { dst := some d } [] []))
/-- R253 VMVG: bits [63:0], whatever the shape. -/
def execVmvg (t : BitVec 4) (a : BitVec 6) (g : BitVec 5) (s : State) : Out :=
  vWord s t 2 false { srcs := [a], gs := [g.toNat], shaped := false }
    (fun i => .done (emit i .mvg 2 false { gd := some g.toNat } i.src i.late))

/-! Loads and stores (R254 to R257). -/

/-- A of R254: g(ga) + imm + LO. -/
def vAddr (i : VIn) (g : BitVec 5) (x : BitVec 27) : Word :=
  (i.s.cell i.c).gAt .V g.toNat + imm27 x + loG ((i.s.cell i.c).agent .V) g.toNat

/-- The addresses of lanes, `w` bytes each. -/
def laneAddrs (w : Nat) (l : List Nat) (f : Nat → Word) : List (Word × Nat) := l.map (fun i => (f i, w))

/-- A vector load of the lanes `l` from the addresses that `f` gives; `group` says whether neighbouring lanes perform
together. -/
def vLoad (i : VIn) (d : BitVec 6) (masked : Bool) (f : Nat → Word) (group : Bool) : VAct :=
  let w := laneW i.sh / 8
  let l := (List.range (laneN i.sh)).filter (i.act masked)
  if !loadRoom (i.s.cell i.c) then .wait .other
  else match checkMany i.s (.agent i.c .V) .V w false false (laneAddrs w l f) with
    | (_, .flt e) => .flt e
    | (s1, .ok ks) =>
      if l.isEmpty then .done (emit { i with s := s1 } (.load []) 1 masked { dst := some d } [0] i.late)
      else
        let q := enterLoad (s1.cell i.c) .V (if group then loadGroups ks else oneByOne ks) .vec
        .done (emit { i with s := s1.setCell i.c q.1 } (.load l) 1 masked { dst := some d } [0] (⟨q.2, 0, l⟩ :: i.late.map (fun (x : Late) => { x with src := x.src + 1 })))

/-- A vector store of the lanes `l` of `v` to the addresses that `f` gives (R257). -/
def vStore (i : VIn) (masked : Bool) (v : VReg) (f : Nat → Word) (group : Bool) : VAct :=
  let w := laneW i.sh / 8
  let l := (List.range (laneN i.sh)).filter (i.act masked)
  let own := blindEntry (i.s.cell i.c)
  if own.isNone && !storeRoom (i.s.cell i.c) 1 then .wait .other
  else match checkMany i.s (.agent i.c .V) .V w true false (laneAddrs w l f) with
    | (_, .flt e) => .flt e
    | (s1, .ok ks) =>
      let accs := ks.flatMap (fun k => k.accs)
      if isMcast accs && !mcastClear s1 i.c (own.getD (s1.cell i.c).nextId) accs then .wait .other
      else
        let parts := (ks.zip l).map (fun q => deal q.1.accs (leList w (laneAt (8 * w) v q.2)))
        .done (issueStore (markAll s1 ks) i.c .V ((s1.cell i.c).agent .V).dpos own (if group then groupAccs parts.flatten else parts))

/-- R254 VLD. -/
def execVld (t : BitVec 4) (d : BitVec 6) (m : BitVec 1) (g : BitVec 5) (x : BitVec 27) (s : State) : Out :=
  vWord s t 2 (mk m) { dst := some d, gs := [g.toNat] }
    (fun i => vLoad i d (mk m) (fun k => vAddr i g x + wd (k * (laneW i.sh / 8))) true)

/-- R254 VST. -/
def execVst (t : BitVec 4) (a : BitVec 6) (m : BitVec 1) (g : BitVec 5) (x : BitVec 27) (s : State) : Out :=
  vWord s t 2 (mk m) { srcs := [a], gs := [g.toNat], ahead := true, stores := true }
    (fun i => vStore i (mk m) (srcAt i.src 0) (fun k => vAddr i g x + wd (k * (laneW i.sh / 8))) true)

/-- R256 VGATH. -/
def execVgath (t : BitVec 4) (d b : BitVec 6) (m : BitVec 1) (g : BitVec 5) (x : BitVec 27) (s : State) : Out :=
  vWord s t 2 (mk m) { srcs := [b], dst := some d, gs := [g.toNat], ahead := true }
    (fun i => (vLoad i d (mk m) (fun k => vAddr i g x + wd (laneAt (laneW i.sh) (srcAt i.src 0) k * (laneW i.sh / 8))) false))

/-- R256 VSCAT. -/
def execVscat (t : BitVec 4) (a b : BitVec 6) (m : BitVec 1) (g : BitVec 5) (x : BitVec 27) (s : State) : Out :=
  vWord s t 2 (mk m) { srcs := [a, b], gs := [g.toNat], ahead := true, stores := true }
    (fun i => (vStore i (mk m) (srcAt i.src 0) (fun k => vAddr i g x + wd (laneAt (laneW i.sh) (srcAt i.src 1) k * (laneW i.sh / 8))) false))

/-! Stream ports (R258). -/

/-- R258 VLDS: the next group of the head tile. -/
def execVlds (t : BitVec 4) (d : BitVec 6) (r : BitVec 4) (m : BitVec 1) (s : State) : Out :=
  vWord s t 1 (mk m) { dst := some d, streams := [r.toNat] }
    (fun i =>
      let x := i.s.cell i.c
      let n := r.toNat
      if sCount (x.stream n) = 0 || !loadRoom x then .wait .other
      else match readGroup i.s i.c .V n (loS (x.agent .V) n) i.sh (i.act (mk m)) with
          | .flt f => .flt f
          | .ok (q, .now b) =>
            .done (emit { i with s := passGroup i.s i.c n (shapeLen i.sh) } (.load q) 1 (mk m) { dst := some d } [fillLanes (laneW i.sh) q b 0] [])
          | .ok (q, .load ks) =>
            let s2 := passGroup i.s i.c n (shapeLen i.sh)
            let l := enterLoad (s2.cell i.c) .V (oneByOne ks) .vec
            .done (emit { i with s := s2.setCell i.c l.1 } (.load q) 1 (mk m) { dst := some d } [0] [⟨l.2, 0, q⟩]))

/-- R258 VSTS: the next group of the tile at TAIL. -/
def execVsts (t : BitVec 4) (a : BitVec 6) (r : BitVec 4) (m : BitVec 1) (s : State) : Out :=
  vWord s t 1 (mk m) { srcs := [a], streams := [r.toNat], ahead := true, stores := true }
    (fun i => (
      let x := i.s.cell i.c
      let n := r.toNat
      let own := blindEntry x
      if !ringRoom x n || (own.isNone && !storeRoom x 1) then .wait .other
      else
          let p := groupOf (x.stream n) (shapeLen i.sh)
          match storeGroup i.s i.c .V (x.agent .V).dpos n own (loS (x.agent .V) n) p.1 p.2 (groupLanes (srcAt i.src 0) (laneW i.sh) p.2 (i.act (mk m))) (laneW i.sh / 8) with
          | (_, some f) => .flt f
          | (s1, none) => .done s1))

/-! The deferral queue (R260 to R263, R391). -/

/-- A run of `n` registers from `r` passes v31 (R378 code 0x05). -/
def passesV31 (r n : Nat) : Bool := 32 < r + n

/-- A word whose register range passes v31 is not an instruction. -/
def vRange (s : State) (t : BitVec 4) (bad : Bool) (k : Out) : Out :=
  if bad then vWord s t 1 false { shaped := false } (fun _ => .flt { cls := 1, code := 5 }) else k

/-- Entries appended to the deferral queue, unless it would pass 4,096 (R391). -/
def appendDq (i : VIn) (l : List DqEntry) (k : State → State) : VAct :=
  let x := i.s.cell i.c
  if 4096 < x.dq.length + l.length then .flt { cls := 0xF, code := 1, aux := wd x.dq.length }
  else .done (k (i.s.setCell i.c { x with dq := x.dq ++ l }))

/-- The values of lane `i` of `n` registers from `r`. -/
def laneVals (x : Cell) (w r n i : Nat) : List Nat := (List.range n).map (fun j => laneAt w (x.vreg (r + j)) i)

/-- R261 DEFER: the word's n - 1 field gives 1 to 8 registers. -/
def execDefer (t : BitVec 4) (a : BitVec 5) (n : BitVec 3) (m : BitVec 1) (s : State) : Out :=
  let k := n.toNat + 1
  vRange s t (passesV31 a.toNat k) (vWord s t 1 (mk m) { regs := (List.range k).map (fun j => a.toNat + j) }
    (fun i => appendDq i (((List.range (laneN i.sh)).filter (i.act (mk m))).map (fun l =>
      ⟨0, laneW i.sh, laneVals (i.s.cell i.c) (laneW i.sh) a.toNat k l⟩)) id))

/-- R262 VDRAIN: the next batch, popped at issue. -/
def execVdrain (t : BitVec 4) (d : BitVec 5) (n : BitVec 3) (s : State) : Out :=
  let k := n.toNat + 1
  vRange s t (passesV31 d.toNat k) (vWord s t 1 false { regs := (List.range k).map (fun j => d.toNat + j), mdst := curMask s }
    (fun i =>
      let x := i.s.cell i.c
      let b := nextBatch x (shapeLen i.sh)
      let s1 := i.s.setCell i.c { x with dq := x.dq.drop b.length }
      .done (emit { i with s := s1 } (.drain b.length) 4 false
        { vd := (List.range k).map (fun j => d.toNat + j), md := some (msel i.sh) }
        ((List.range k).map (fun j => batchReg b (laneW i.sh) j)) [])))

/-- A value put into a rising list without repeats. -/
def insertUp (x : Nat) (l : List Nat) : List Nat :=
  match l with
  | [] => [x]
  | y :: r => if x < y then x :: y :: r else if x = y then y :: r else y :: insertUp x r

/-- R263 VAPPLY: lanes grouped by handle in ascending order; vd is the group table. -/
def execVapply (t : BitVec 4) (d : BitVec 5) (a : BitVec 5) (n : BitVec 3) (m : BitVec 1) (s : State) : Out :=
  let k := n.toNat
  vRange s t (passesV31 a.toNat (k + 1)) (vWord s t 1 (mk m)
    { regs := d.toNat :: (List.range (k + 1)).map (fun j => a.toNat + j), accept := fun ty => ty == 2 || ty == 5 }
    (fun i =>
      let x := i.s.cell i.c
      let h := fun l => laneAt 32 (x.vreg a.toNat) l
      let live := (List.range 64).filter (fun l => i.act (mk m) l && h l != 0)
      let tab := live.foldl (fun r l => insertUp (h l) r) []
      let entries := tab.flatMap (fun g => (live.filter (fun l => h l = g)).map (fun l =>
        (⟨BitVec.ofNat 32 g, 32, laneVals x 32 (a.toNat + 1) k l⟩ : DqEntry)))
      appendDq i entries (fun s1 => emit { i with s := s1 } .table 6 false { vd := [d.toNat] } [ofLanes 32 tab] [])))

/-! Bank lending (R264, R265, R390). -/

/-- A stream of T tiles whose elements would leave the 2,048 bytes of a bank (R390). -/
def bankTooSmall (i : Image) (tiles : Nat) : Bool :=
  (List.range (min tiles (sNtiles i))).any (fun h => (List.range (tileSize i)).any (fun k =>
    let a := bankAddr i h k
    decide (a < 0) || decide (2048 < a + max 1 (elemBytes (sEfmt i)))))

/-- A V write to a register of the bank is in flight (R264). -/
def bankBusy (x : Cell) (b : Nat) : Bool := x.pend.any (fun p => p.vd.any (fun r => r / 8 = b))

/-- HEAD, TAIL and IDX0 to IDX5 of a stream that a bank comes to back (R264). -/
def lendImage (i : Image) (t : Nat) : Image := setTail (setHead (imgSet i 0x60 0 192 0) 0) t

/-- R264 BANKLEND: codes 0x09, 0x0B, 0x10, 0x12 and 0x13 in the order of R378. -/
def execBanklend (t : BitVec 4) (g : BitVec 5) (s : State) : Out :=
  vWord s t 2 false { gs := [g.toNat], shaped := false } (fun i =>
    let x := i.s.cell i.c
    let v := x.gAt .V g.toNat
    let b := bits v 0 2
    let st := bits v 8 4
    let mk1 := fun code (a : Word) => VAct.flt { cls := 1, code := code, aux2 := a }
    if sldrOut i.s st then .wait .other
    else if bankBusy x b then mk1 9 (wd b)
    else if (Tab.look x.lent b).isSome || (bankOf x st).isSome then mk1 0xB v
    else if bits v 24 40 != 0 || bits v 12 4 != 0 || bits v 2 6 != 0 then mk1 0x10 v
    else
      let img := lendImage (x.stream st) (bits v 16 8)
      if invalidImage img then mk1 0x12 (wd st)
      else if bankTooSmall img (bits v 16 8) then mk1 0x13 (wd st)
      else .done (i.s.setCell i.c { x with lent := Tab.set x.lent b st, s := Tab.set x.s st img }))

/-- The M steps of a cell that name stream `n` and have not retired. -/
def stepsOn (s : State) (c n : Nat) : Bool :=
  (s.cluster (clusterOf c)).steps.any (fun m => m.cell = c && (match m.word with
    | .mma _ _ a b _ _ _ _ => a.toNat = n || b.toNat = n
    | .mmas _ _ a b _ _ _ _ r => a.toNat = n || b.toNat = n || r.toNat = n
    | .mkat _ a b _ _ _ => a.toNat = n || b.toNat = n
    | .skfold _ a b _ _ _ => a.toNat = n || b.toNat = n
    | _ => false))

/-- R265 BANKRET: it waits for the M steps on the stream. -/
def execBankret (t : BitVec 4) (g : BitVec 5) (s : State) : Out :=
  vWord s t 2 false { gs := [g.toNat], shaped := false } (fun i =>
    let x := i.s.cell i.c
    let v := x.gAt .V g.toNat
    let b := bits v 0 2
    let st := bits v 8 4
    if Tab.look x.lent b != some st then .flt { cls := 1, code := 0xB, aux2 := v }
    else if bits v 24 40 != 0 || bits v 12 4 != 0 || bits v 2 6 != 0 then .flt { cls := 1, code := 0x10, aux2 := v }
    else if stepsOn i.s i.c st then .wait .other
    else .done (i.s.setCell i.c { x with lent := Tab.erase x.lent b }))

end Sys2Proof.Machine
end

