-- ==== Sys2Proof/Machine/Matrix.lean ====
section
/-!
DEFINITION. The matrix array (R23, R62 to R64, R68, R267 to R286, R394, R401): M words as they issue, steps as they begin
and retire, panels, the lease, scale FIFOs (R107, R108, R414), command windows and rollback (R280, R435 to R438).
-/
namespace Sys2Proof.Machine

/-! What a step word names. -/

/-- The operand streams of a step word: (port, stream), port 0 A, 1 B, 2 the metadata. -/
def opStreams (w : Instr) : List (Nat × Nat) :=
  match w with
  | .mma _ _ a b _ _ _ _ => [(0, a.toNat), (1, b.toNat)]
  | .mmas _ _ a b _ _ _ _ r => [(0, a.toNat), (1, b.toNat), (2, r.toNat)]
  | .mkat _ a b _ _ _ => [(0, a.toNat), (1, b.toNat)]
  | .skfold _ a b _ _ _ => [(0, a.toNat), (1, b.toNat)]
  | _ => []

/-- CH of a step word. -/
def chained (w : Instr) : Bool :=
  match w with
  | .mma _ _ _ _ _ _ _ h => h == 1
  | .mmas _ _ _ _ _ _ _ h _ => h == 1
  | _ => false

/-- One of the three opcodes that follow each other at less cost (R268). -/
def isMul (w : Instr) : Bool :=
  match w with
  | .mma .. => true
  | .mmas .. => true
  | .mkat .. => true
  | _ => false

/-- The streams that a step pops at its retirement, each once (R269). -/
def popsOf (w : Instr) : List Nat := if chained w then [] else ((opStreams w).map (·.2)).eraseDups

/-- The sketch slot of a word. -/
def slotOf (w : Instr) : Option Nat :=
  match w with
  | .mfclr _ _ _ g s => if g = 1 then some s.toNat else none
  | .skcfg _ s _ => some s.toNat
  | .skfold _ _ _ _ _ s => some s.toNat
  | .skshrink _ s => some s.toNat
  | .skmerge _ s _ _ => some s.toNat
  | .skemit _ s _ _ => some s.toNat
  | .skstat _ s _ _ => some s.toNat
  | _ => none

/-- The accumulator tiles that a word names. -/
def tilesOf (w : Instr) : List Nat :=
  match w with
  | .mma _ c _ _ _ _ _ _ => [c.toNat]
  | .mmas _ c _ _ _ _ _ _ _ => [c.toNat]
  | .mdrain _ c _ _ _ => [c.toNat]
  | .mswap _ c b => [c.toNat, b.toNat]
  | .mfclr _ c _ g _ => if g = 0 then [c.toNat] else []
  | .tstart _ c => [c.toNat]
  | _ => []

/-- The image, the LO and the scales-pushed mark of a port. -/
def MStep.img (m : MStep) (p : Nat) : Image := if p = 0 then m.ia else if p = 1 then m.ib else m.im
/-- LO of a port's stream. -/
def MStep.lo (m : MStep) (p : Nat) : Word := if p = 0 then m.la else if p = 1 then m.lb else m.lm
/-- The Awl has pushed the scales of a port. -/
def MStep.pushed (m : MStep) (p : Nat) : Bool := if p = 0 then m.pa else m.pb

/-! Footprints (R163, R271). -/

/-- The tile index that a step not begun will find at a stream's HEAD: earlier steps of the cell pop first. -/
def headFor (s : State) (m : MStep) (n : Nat) : Nat :=
  let before := (s.cluster (clusterOf m.cell)).steps.filter (fun q => q.cell = m.cell && q.dpos < m.dpos && (popsOf q.word).contains n)
  (sHead ((s.cell m.cell).stream n) + before.length) % 2 ^ 16

/-- The footprint of one operand tile with its scales; a lent bank has none (R264). -/
def tileFp (s : State) (m : MStep) (p n : Nat) : List Range :=
  let i := m.img p
  let h := headFor s m n
  (if (bankOf (s.cell m.cell) n).isSome then [] else (tileAddrs i (m.lo p) h).flatMap (fun a => fpRanges s m.cell a (awlWidth i)))
    ++ (if sEfmt i = 11 then (scaleAddrs i h).flatMap (fun a => fpRanges s m.cell a 1) else [])

/-- The base and the dimensions of a slot as a step will find them: an SKCFG that waits before it counts. -/
def slotFor (s : State) (m : MStep) (n : Nat) : Nat × Hdr :=
  let l := clusterOf m.cell
  match (s.cluster l).steps.reverse.find? (fun q => q.cell = m.cell && q.dpos < m.dpos && (match q.word with | .skcfg _ k _ => k.toNat = n | _ => false)) with
  | some q => let h := cfgHdr q.g; (h.2 * 256, h.1)
  | none => let b := slotBase (slotWord s l n); (b, readHdr s l b)

/-- The run of `n` bytes at an offset of the cluster scratchpad. -/
def skRange (l o n : Nat) : List Range := [⟨skHome l o, n⟩]

/-- The bytes that MDRAIN writes (R277). -/
def drainSize (f : BitVec 2) : Nat := (if f = 0 then 4 else 2) * 16384 + 8

/-- The read and write footprints of a step. -/
def stepFp (s : State) (m : MStep) : List Range × List Range :=
  let l := clusterOf m.cell
  let tiles := (opStreams m.word).flatMap (fun p => tileFp s m p.1 p.2)
  let sl := (slotOf m.word).map (slotFor s m)
  let ext := match sl with | some q => skRange l q.1 q.2.extent | none => []
  let hd := fun n => match sl with | some q => skRange l q.1 n | none => []
  match m.word with
  | .mdrain _ _ _ _ f => ([], fpRanges s m.cell m.g (drainSize f))
  | .mfclr .. => (hd 8, hd 8)
  | .skcfg _ _ _ => ([], let h := cfgHdr m.g; skRange l (h.2 * 256) 64)
  | .skfold .. => (tiles ++ ext, ext)
  | .skshrink _ _ => (ext, ext)
  | .skmerge _ _ _ _ => (ext ++ (match sl with | some q => fpRanges s m.cell m.g (64 + 256 * (pad32 q.2.m + pad32 q.2.n)) | none => []), ext)
  | .skemit _ _ _ _ => (ext, match sl with | some q => fpRanges s m.cell m.g (64 + 8 * q.2.r * (pad32 q.2.m + pad32 q.2.n)) | none => [])
  | .skstat _ _ _ _ => (hd 64, fpRanges s m.cell m.g 64)
  | _ => (tiles, [])

/-- The range checker lets a step go on (R164): X has passed its position, and no earlier X command conflicts. -/
def stepClear (s : State) (m : MStep) : Bool :=
  let x := s.cell m.cell
  let f := stepFp s m
  (f.1.isEmpty && f.2.isEmpty) || (decide (m.dpos < (x.agent .X).dpos) && !x.jobs.any (fun j => j.dpos < m.dpos && conflict f (jobFp s m.cell j)))

/-- The cell's stores made before a step issued have applied wherever it goes, the entry of its slot among it (R148, R165). -/
def stepStores (s : State) (m : MStep) : Bool :=
  let l := clusterOf m.cell
  let f := stepFp s m
  let e := match slotOf m.word with | some n => skRange l (slotEntry (s.cluster l) n) 8 | none => []
  !storeAhead s m.cell m.seen (f.1 ++ f.2 ++ e)

/-! Issue (R267, R268, R394). -/

/-- The array at cluster `l` with the steps of a cell. -/
def stepsOf (x : Cluster) (c : Nat) : List MStep := x.steps.filter (fun m => m.cell = c)

/-- M took something past step words that have not retired: it is logged against their return (R68). -/
def logM (s : State) (c dpos : Nat) (o : Option Outcome) : State :=
  let x := s.cell c
  s.setCell c { x with mlog := x.mlog ++ [(dpos, o)] }

/-- The step word as it is issued: `g` is its g value or address. -/
def mkStep (s : State) (c : Nat) (w : Instr) (g : Word) : MStep :=
  let x := s.cell c
  let a := x.agent .M
  let st := fun p => ((opStreams w).find? (fun q => q.1 = p)).map (·.2)
  let im := fun p => match st p with | some n => x.stream n | none => 0
  let lo := fun p => match st p with | some n => loS a n | none => 0
  { cell := c, pc := a.pc, dpos := a.dpos, word := w, g := g, ia := im 0, ib := im 1, im := im 2, la := lo 0, lb := lo 1, lm := lo 2
    traps := x.arithctl.setWidth 4, agent := a, pa := false, pb := false, begun := false, paused := false, ends := 0, seen := x.nextId, caught := [], out := [] }

/-- The fault that a step word takes by its bits alone (R378 code 0x05): MDRAIN FMT 0b11. It goes before the lease (R361). -/
def wordFlt (w : Instr) : Option Flt :=
  match w with
  | .mdrain _ _ _ _ f => if f = 3 then some { cls := 1, code := 5 } else none
  | _ => none

/-- S has passed the position of a word that names a g register, g0 among them (R267, R287). -/
def sPassed (x : Cell) (e : Engine) (rs : List Nat) : Bool := rs.isEmpty || decide ((x.agent e).dpos < (x.agent .S).dpos)

/-- A step word of `n` words: `rs` are the g registers it names and `g` gives its value or address at issue. -/
def mWord (s : State) (t : BitVec 4) (n : Nat) (w : Instr) (rs : List Nat) (g : Cell → Word) : Out :=
  match s.cur with
  | .ik d => .next (ikBad s d 1)
  | .agent c .M =>
    let s1 := flushSig s c .M
    let x := s1.cell c
    let l := s1.cluster (clusterOf c)
    match blocked s1 c .M t n with
    | some v => .next (waits s1 c .M v)
    | none =>
      if let some f := wordFlt w then .next (fault s1 c .M f)
      else if l.lessee != some (c % 4) then
        (if l.reqs.contains (c % 4) then .next (waits s1 c .M (if (x.agent .M).wait = .operands then .operands else .other)) else .next (fault s1 c .M { cls := 0xE, code := 1, aux := 1 }))
      else if 256 ≤ l.used || 16 ≤ (stepsOf l c).length || !gReady x .M rs || !sPassed x .M rs
          || (opStreams w).any (fun p => sldrOut s1 p.2) then .next (waits s1 c .M .other)
      else
        let s2 := s1.setCluster (clusterOf c) { l with steps := l.steps ++ [mkStep s1 c w (g x)], used := l.used + 1 }
        let a := x.agent .M
        let s3 := if (wl t || wr t) && !a.taken.contains a.dpos then logM s2 c a.dpos none else s2
        .next (retire s3 c .M t n)
  | .agent c e => .next (skipWords s c e n)

/-- g(ga) of a cell as an address: LO added (R219). -/
def mAddr (x : Cell) (r : BitVec 5) : Word := x.gAt .M r.toNat + loG (x.agent .M) r.toNat

/-- R274 MMA. -/
def execMma (t : BitVec 4) (c : BitVec 2) (a b : BitVec 4) (x y z h : BitVec 1) (s : State) : Out :=
  mWord s t 1 (.mma t c a b x y z h) [] (fun _ => 0)
/-- R275 MMAS. -/
def execMmas (t : BitVec 4) (c : BitVec 2) (a b : BitVec 4) (x y z h : BitVec 1) (r : BitVec 4) (s : State) : Out :=
  mWord s t 2 (.mmas t c a b x y z h r) [] (fun _ => 0)
/-- R276 MKAT. -/
def execMkat (t a b : BitVec 4) (x y : BitVec 1) (k : BitVec 32) (s : State) : Out := mWord s t 2 (.mkat t a b x y k) [] (fun _ => 0)
/-- R277 MDRAIN. -/
def execMdrain (t : BitVec 4) (c : BitVec 2) (z : BitVec 1) (g : BitVec 5) (f : BitVec 2) (s : State) : Out :=
  mWord s t 2 (.mdrain t c z g f) [g.toNat] (fun x => mAddr x g)
/-- R278 MSWAP. -/
def execMswap (t : BitVec 4) (c b : BitVec 2) (s : State) : Out := mWord s t 1 (.mswap t c b) [] (fun _ => 0)
/-- R279 MFCLR. -/
def execMfclr (t : BitVec 4) (c : BitVec 2) (f : BitVec 4) (g : BitVec 1) (n : BitVec 6) (s : State) : Out :=
  mWord s t 1 (.mfclr t c f g n) [] (fun _ => 0)
/-- R280 TSTART. -/
def execTstart (t : BitVec 4) (c : BitVec 2) (s : State) : Out := mWord s t 1 (.tstart t c) [] (fun _ => 0)
/-- R281 SKCFG. -/
def execSkcfg (t : BitVec 4) (n : BitVec 6) (g : BitVec 5) (s : State) : Out := mWord s t 2 (.skcfg t n g) [g.toNat] (fun x => x.gAt .M g.toNat)
/-- R282 SKFOLD. -/
def execSkfold (t a b : BitVec 4) (x y : BitVec 1) (n : BitVec 6) (s : State) : Out := mWord s t 1 (.skfold t a b x y n) [] (fun _ => 0)
/-- R283 SKSHRINK. -/
def execSkshrink (t : BitVec 4) (n : BitVec 6) (s : State) : Out := mWord s t 1 (.skshrink t n) [] (fun _ => 0)
/-- R284 SKMERGE. -/
def execSkmerge (t : BitVec 4) (n : BitVec 6) (g : BitVec 5) (i : BitVec 27) (s : State) : Out :=
  mWord s t 2 (.skmerge t n g i) [g.toNat] (fun x => mAddr x g + imm27 i)
/-- R285 SKEMIT. -/
def execSkemit (t : BitVec 4) (n : BitVec 6) (g : BitVec 5) (i : BitVec 27) (s : State) : Out :=
  mWord s t 2 (.skemit t n g i) [g.toNat] (fun x => mAddr x g + imm27 i)
/-- R285 SKSTAT. -/
def execSkstat (t : BitVec 4) (n : BitVec 6) (g : BitVec 5) (i : BitVec 27) (s : State) : Out :=
  mWord s t 2 (.skstat t n g i) [g.toNat] (fun x => mAddr x g + imm27 i)

/-! What a step waits for at the array (R107, R108, R270, R414). -/

/-- The FIFO of a port. -/
def fifoOf (x : Cluster) (p : Nat) : List (Byte × Byte × Nat) := Tab.get [] x.scales p

/-- The tag of a stream and a tile. -/
def scaleTag (n h : Nat) : Nat := n + 2 ^ 16 * h

/-- The scales of a tile that the FIFO holds before its step begins: a FIFO holds 1,024, and the rest of a larger SKFOLD tile comes
through it while the step runs (R108, log 24). -/
def fifoShare (i : Image) : Nat := min (blockCount i) 1024

/-- Whether the scales of a port are in the FIFO, are still to come, or cannot be read. -/
inductive ScaleRes where
  | ok
  | wait
  | flt (f : Flt)
  deriving DecidableEq, Repr

/-- Two ports: a fault goes first, by the order of R361, then a wait. -/
def ScaleRes.join (a b : ScaleRes) : ScaleRes :=
  match a, b with
  | .flt f, .flt g => .flt (firstFlt f g)
  | .flt f, _ => .flt f
  | _, .flt g => .flt g
  | .wait, _ => .wait
  | .ok, r => r

/-- The first of these entries of a FIFO `q` that was pushed for another stream or tile than the operand's (R414). -/
def strayTag (l q : List (Byte × Byte × Nat)) (p n h : Nat) : Option Flt :=
  (l.find? (fun e => e.2.2 != scaleTag n h)).map (fun e =>
    { cls := 9, code := if e.2.2 % 2 ^ 16 = n then 1 else 2, aux := wd (n + 2 ^ 4 * p + 2 ^ 16 * q.length + 2 ^ 32 * h)
      aux2 := wd ((q.head?.map (fun e => e.2.2)).getD 0) })

/-- The scales of a port (R108, R414): the entries at the head must carry the stream and the HEAD of the operand. Entries left over from
an earlier step that keep the operand's own out are found at the head too. -/
def scaleCheck (s : State) (m : MStep) (p n : Nat) : ScaleRes :=
  let i := m.img p
  let q := fifoOf (s.cluster (clusterOf m.cell)) p
  let nb := fifoShare i
  let stray := fun l => strayTag l q p n (sHead i)
  if !m.pushed p then
    match (readScales s m.cell (scaleAddrs i (sHead i))).2 with
    | .flt f => .flt f
    | .ok _ => if q.length + nb ≤ 1024 then .wait else match stray q with | some f => .flt f | none => .wait
  else if q.length < nb then .wait
  else match stray (q.take nb) with
    | none => .ok
    | some f => .flt f

/-- The scales of every Z4 port. -/
def scalesReady (s : State) (m : MStep) : ScaleRes :=
  ((opStreams m.word).filter (fun p => p.1 < 2 && sEfmt (m.img p.1) = 11)).foldl (fun r p => r.join (scaleCheck s m p.1 p.2)) .ok

/-- The step with HEAD and TAIL of its streams as they stand. -/
def refresh (x : Cell) (m : MStep) : MStep :=
  let f := fun p i => match (opStreams m.word).find? (fun q => q.1 = p) with
    | some q => setTail (setHead i (sHead (x.stream q.2))) (sTail (x.stream q.2))
    | none => i
  { m with ia := f 0 m.ia, ib := f 1 m.ib, im := f 2 m.im }

/-- The operands that the step waits for (R270). -/
def operandsHere (m : MStep) : Bool := (opStreams m.word).all (fun p => invalidImage (m.img p.1) || sCount (m.img p.1) != 0)

/-- The operands that the step waits for are not all there, or its scales are still to come (R270). -/
def stepStarved (s : State) (m : MStep) : Bool :=
  let r := refresh (s.cell m.cell) m
  !operandsHere r || (match scalesReady s r with | .wait => true | _ => false)

/-! The return of step words (R62, R68, R413). -/

/-- The step words of cell `c` that have not begun go back to M unissued; a sketch word stopped at a panel boundary goes
back too where `all` is set. -/
def returnSteps (s : State) (c : Nat) (all : Bool) : State :=
  let l := clusterOf c
  let x := s.cluster l
  let back := fun (m : MStep) => m.cell = c && !m.begun && (all || !m.paused)
  match x.steps.find? back with
  | none => s
  | some m =>
    let y := s.cell c
    let late := y.mlog.filter (fun p => m.dpos ≤ p.1)
    let a := { m.agent with wait := if stepStarved s m then .operands else .none, taken := (m.agent.taken ++ (late.filter (fun p => p.2.isNone)).map (·.1)).eraseDups }
    let y1 := { y.setAgent .M a with
      outq := Tab.set y.outq (engCode .M) (late.filterMap (·.2) ++ Tab.get [] y.outq (engCode .M))
      mlog := y.mlog.filter (fun p => p.1 < m.dpos) }
    (s.setCell c y1).setCluster l
      { x with steps := x.steps.filter (fun q => !back q), used := x.used - (x.steps.filter back).length }

/-! The array's tiles in memory (R64, R178). -/

/-- The bytes of a tile. -/
def tileBytes (t : Tile) : List Byte := (List.range 16384).flatMap (fun k => leList 4 (Tile.at t k))
/-- A tile from its bytes. -/
def tileOf (f : Nat → Byte) : Tile := (List.range 16384).map (fun k => (k, BitVec.ofNat 32 (leNat ((List.range 4).map (fun i => f (4 * k + i))))))

/-- Bytes written in the cluster scratchpad from offset `o`, continuing from 0 past its end (R64). -/
def putWrap (s : State) (l o : Nat) (b : List Byte) : State :=
  let n := 2 ^ 23 - o % 2 ^ 23
  let s1 := writeHome s (skHome l o) (b.take n) none
  if b.length ≤ n then s1 else writeHome s1 (clusterHome l) (b.drop n) none

/-- The array's tile `n`. -/
def Cluster.tile (x : Cluster) (n : Nat) : Tile := Tab.get [] x.acc n
/-- The flag code of the array's tile `n`. -/
def Cluster.code (x : Cluster) (n : Nat) : BitVec 4 := Tab.get 0 x.codes n
/-- The window of tile `n`. -/
def Cluster.win (x : Cluster) (n : Nat) : Window := Tab.get Window.reset x.wins n
/-- A tile with its code replaced. -/
def Cluster.setTile (x : Cluster) (n : Nat) (t : Tile) (f : BitVec 4) : Cluster := { x with acc := Tab.set x.acc n t, codes := Tab.set x.codes n f }
/-- A window opened anew on the tile as it stands (R280). -/
def Cluster.openWin (x : Cluster) (n : Nat) : Cluster := { x with wins := Tab.set x.wins n ⟨true, x.tile n, x.code n, []⟩ }

/-- The tiles and codes of the owner go to its save area and flag block (R64). -/
def saveTiles (s : State) (l : Nat) : State :=
  let x := s.cluster l
  match x.owner with
  | none => s
  | some i =>
    let s1 := (List.range 4).foldl (fun t n => putWrap t l (saveArea x i + 65536 * n) (tileBytes (x.tile n))) s
    putWrap s1 l (flagBlock x i) ((List.range 8).flatMap (fun n => wordBytes (if n < 4 then (x.code n).setWidth 64 else 0)))

/-- The tiles of cell index `i` come into the array: from memory, or four zero tiles before its tile's first grant. -/
def loadTiles (s : State) (l i : Nat) : State :=
  let x := s.cluster l
  let g := (s.cell (4 * l + i)).granted
  s.setCluster l ((List.range 4).foldl (fun y n =>
    y.setTile n (if g then tileOf (fun k => memGet s.mem (skHome l (saveArea x i + 65536 * n + k))) else []) (if g then savedCode s l i n else 0))
    { x with owner := some i })

/-! The replay area (R437). -/

/-- The physical base of the replay area of cell index `i`. -/
def replayArea (x : Cluster) (i : Nat) : Nat := bits x.rplbase 21 27 * 2 ^ 21 + 294912 * i

/-- An entry of the retained words. -/
def keptBytes (k : Kept) (order : Nat) : List Byte :=
  let w := (encode k.word).getD (0, 0)
  leList 4 w.1.toNat ++ leList 4 w.2.toNat ++ leList 2 k.ha ++ leList 2 k.hb ++ leList 2 k.hm ++ leList 2 order

/-- The retained words of a window, 4 KiB. -/
def windowBytes (w : Window) : List Byte :=
  let b := ((w.kept.zip (List.range 256)).map (fun p => keptBytes p.1 p.2)).flatten
  b ++ List.replicate (4096 - b.length) 0

/-- The word at 0x4_0000 of the area. -/
def replayWord (r : Replay) : Word := wd (r.mask + 2 ^ 4 * r.kind + 2 ^ 8 * r.tile + 2 ^ 10 * r.win + 2 ^ 12 * r.pos)

/-- A replay stopped: its state goes to the replay area, the triggering step leaves the array (R437); MKAT goes back to M. -/
def saveReplay (s : State) (l : Nat) : State :=
  let x := s.cluster l
  match x.replay, x.lessee, x.steps.find? (·.begun) with
  | some r, some i, some m =>
    let a := replayArea x i
    let s1 := (List.range 4).foldl (fun t n => if r.mask / 2 ^ n % 2 = 1 then devWrite t (a + 65536 * n) (tileBytes (x.win n).tile) else t) s
    let s2 := devWrite s1 (a + 0x40000)
      (wordBytes (replayWord r) ++ (List.range 4).flatMap (fun n => wordBytes ((x.win n).code.setWidth 64)) ++ List.replicate 4056 0
        ++ (List.range 4).flatMap (fun n => windowBytes (x.win n)) ++ List.replicate 12288 0)
    let los := (List.range 4).map (fun n => (n, (x.win n).kept.map (fun k => (k.la, k.lb, k.lm))))
    let rest := if r.kind = 5 then x.steps.map (fun q => if q.begun then { q with begun := false } else q) else x.steps.filter (fun q => !q.begun)
    let s3 := s2.setCluster l { x with replay := none, steps := rest }
    s3.setCell (4 * l + i) { s3.cell (4 * l + i) with saved := some ⟨los, m.pc, m.dpos, m.g, m.traps⟩ }
  | _, _, _ => s

/-- A word of the replay area as it was retained. -/
def keptAt (s : State) (a : Nat) (lo : Word × Word × Word) : Kept :=
  let b := devRead s a 16
  let f := fun o n => leNat ((b.drop o).take n)
  match decode (BitVec.ofNat 32 (f 0 4)) (BitVec.ofNat 32 (f 4 4)) with
  | .instr i => ⟨i, f 8 2, f 10 2, f 12 2, lo.1, lo.2.1, lo.2.2⟩
  | .bad _ => ⟨.mswap 0 0 0, 0, 0, 0, 0, 0, 0⟩

/-- The operands of a retained word, read again through the streams as they stand (R436). -/
def keptStep (s : State) (c : Nat) (k : Kept) (pc : Word) (dpos : Nat) (g : Word) (traps : BitVec 4) : MStep :=
  let x := s.cell c
  let im := fun p h => match (opStreams k.word).find? (fun q => q.1 = p) with | some q => setHead (x.stream q.2) h | none => 0
  { cell := c, pc := pc, dpos := dpos, word := k.word, g := g, ia := im 0 k.ha, ib := im 1 k.hb, im := im 2 k.hm, la := k.la, lb := k.lb, lm := k.lm
    traps := traps, agent := x.agent .M, pa := true, pb := true, begun := true, paused := false, ends := s.now, seen := x.nextId, caught := [], out := [] }

/-- The hidden errors that reading a replay area back meets: its head, and the tiles of `mask` (R429). -/
def exposeReplay (s : State) (a mask : Nat) : State :=
  ((List.range 4).filter (fun n => mask / 2 ^ n % 2 = 1)).foldl (fun t n => expose t (a + 65536 * n) 65536) (expose s (a + 0x40000) 0x5000)

/-- A stopped replay of cell index `i` comes back at its grant (R437); the windows of the tiles that it does not concern stay as the
grant opened them (R280). -/
def restoreReplay (s : State) (l i : Nat) : State :=
  let x := s.cluster l
  let c := 4 * l + i
  match (s.cell c).saved with
  | none => s
  | some v =>
    let a := replayArea x i
    let w := devWord s (a + 0x40000)
    let r : Replay := ⟨bits w 0 4, bits w 4 4, bits w 8 2, bits w 10 2, bits w 12 9, v.pc, v.dpos, v.traps⟩
    let kept := fun n => ((Tab.get [] v.los n).zip (List.range 256)).map (fun p => keptAt s (a + 0x41000 + 4096 * n + 16 * p.2) p.1)
    let y := ((List.range 4).filter (fun n => r.mask / 2 ^ n % 2 = 1)).foldl (fun (z : Cluster) n =>
      { z with wins := Tab.set z.wins n ⟨true, tileOf (fun k => byteAt (devRead s (a + 65536 * n + k) 1) 0),
                 (devWord s (a + 0x40008 + 8 * n)).setWidth 4, kept n⟩ }) x
    let head := if r.kind = 5 then [] else ((kept r.tile).getLast?.map (fun k => keptStep s c k v.pc v.dpos v.g v.traps)).toList
    ((exposeReplay s a r.mask).setCluster l { y with replay := some r, steps := head ++ y.steps }).setCell c { s.cell c with saved := none }

/-! The lease (R62 to R64, R394). -/

/-- A request is entered, once. -/
def request (x : Cluster) (i : Nat) : Cluster := if x.reqs.contains i then x else { x with reqs := x.reqs ++ [i] }

/-- A lease ends: a replay in progress is saved, words that have not begun go back, the windows close, the scale FIFOs are
emptied (R415, log 23). `renew` enters the request again (R394). -/
def endLease (s : State) (l : Nat) (renew : Bool) : State :=
  match (s.cluster l).lessee with
  | none => s
  | some i =>
    let s1 := returnSteps (saveReplay s l) (4 * l + i) false
    let x := s1.cluster l
    let y := { x with lessee := none, prev := i, used := 0, scales := [], wins := [], lastMul := false
                      steps := x.steps.map (fun m => { m with pa := false, pb := false }) }
    s1.setCluster l (if renew then request y i else y)

/-- R272 MLEASE: no effect where the lease is held or awaited (R394). -/
def execMlease (t : BitVec 4) (s : State) : Out :=
  match s.cur with
  | .ik d => .next (ikBad s d 1)
  | .agent c .M =>
    let s1 := flushSig s c .M
    match blocked s1 c .M t 1 with
    | some v => .next (waits s1 c .M v)
    | none =>
      let l := clusterOf c
      let x := s1.cluster l
      let a := (s1.cell c).agent .M
      let s2 := if x.lessee = some (c % 4) then s1 else s1.setCluster l (request x (c % 4))
      let s3 := if !(stepsOf x c).isEmpty && (wl t || wr t) && !a.taken.contains a.dpos then logM s2 c a.dpos none else s2
      .next (retire s3 c .M t 1)
  | .agent c e => .next (skipWords s c e 1)

/-- R272 MREL: once the cell's step words have retired, one whose replay was stopped among them, the lease ends; a pending request is cancelled (R394). -/
def execMrel (t : BitVec 4) (s : State) : Out :=
  match s.cur with
  | .ik d => .next (ikBad s d 1)
  | .agent c .M =>
    let s1 := flushSig s c .M
    match blocked s1 c .M t 1 with
    | some v => .next (waits s1 c .M v)
    | none =>
      let l := clusterOf c
      let x := s1.cluster l
      if !(stepsOf x c).isEmpty || (s1.cell c).saved.isSome then .next (waits s1 c .M .other)
      else
        let s2 := if x.lessee = some (c % 4) then endLease s1 l false else s1.setCluster l { x with reqs := x.reqs.filter (· != c % 4) }
        .next (retire s2 c .M t 1)
  | .agent c e => .next (skipWords s c e 1)

/-- Array cycles in cell cycles at the present limit (R353): FLIM f gives F = 4 - f/4 GHz. -/
def arrayCycles (s : State) (n : Nat) : Nat :=
  let f := min 4 (bits (mreg s 0x1302) 0 3)
  (n * 16 + (15 - f)) / (16 - f)

/-- The cell that the lease goes to next (R63): the first request after the previous lessee whose gang runs. -/
def nextLessee (s : State) (l : Nat) : Option Nat :=
  let x := s.cluster l
  ([1, 2, 3, 4].map (fun k => (x.prev + k) % 4)).find? (fun i => x.reqs.contains i && tileRuns s (4 * l + i))

/-- At a step-word boundary: no step runs, or a replay is between two of its steps (R62, R437). -/
def atBoundary (x : Cluster) : Bool := !x.steps.any (·.begun) || x.replay.isSome

/-- A lease of a cell whose gang halts or has halted, its last begun step retired, ends (R65). -/
def halts (s : State) (l : Nat) : Bool :=
  let x := s.cluster l
  match x.lessee with
  | none => false
  | some i => !tileRuns s (4 * l + i) && atBoundary x

/-- A lease that a halt ends is given up, and the halted cell's context says that it was held (R65, R66). -/
def dropHalted (s : State) (l : Nat) : State :=
  if halts s l then
    let c := 4 * l + (s.cluster l).lessee.getD 0
    let s1 := endLease s l false
    s1.setCell c { s1.cell c with leaseSaved := true }
  else s

/-- The array has a lease to take back or to grant: it does so at once (R63, R65). -/
def grantActs (s : State) (l : Nat) : Bool := l < 128 && (halts s l || ((s.cluster l).lessee.isNone && (nextLessee s l).isSome))

/-- R63, R64 LEASE_GRANT: the next request is granted: the handover, a window opened for each tile, a stopped replay. -/
def execLeaseGrant (l : Nat) (s : State) : Out :=
  let s0 := dropHalted s l
  if (s0.cluster l).lessee.isSome || 128 ≤ l then .next s0
  else match nextLessee s0 l with
    | none => .next s0
    | some i =>
      let c := 4 * l + i
      let own := (s0.cluster l).owner
      let g := (s0.cell c).granted
      let s1 := if own != some i then saveTiles s0 l else s0
      let s2 := if own != some i || !g then loadTiles s1 l i else s1
      let x := s2.cluster l
      let y := (List.range 4).foldl (fun z n => z.openWin n)
        { x with lessee := some i, reqs := x.reqs.filter (· != i), granted := s.now
                 used := (stepsOf x c).length
                 freeAt := if own != some i && (own.isSome || g) then s.now + arrayCycles s 512 else s.now }
      .next (restoreReplay ((s2.setCluster l y).setCell c { s2.cell c with granted := true }) l i)

/-- A lease stands at a boundary where its cycle limit ends it (R62). -/
def limitEnds (x : Cluster) : Bool := x.lessee.isSome && atBoundary x

/-- R62, R394 LEASE_CYCLE_LIMIT: at the first step-word boundary at or after 4,096 cycles the lease ends, its request renewed;
a sketch word stopped at a panel boundary stays. -/
def execLeaseCycleLimit (l : Nat) (s : State) : Out :=
  let x := s.cluster l
  if x.granted + 4096 ≤ s.now && limitEnds x then .next (endLease s l true)
  else .next s

/-! Scale FIFOs (R107, R108). -/

/-- A port of a step that still awaits its scales: (port, stream). -/
def wantsScales (m : MStep) : Option (Nat × Nat) :=
  (opStreams m.word).find? (fun p => p.1 < 2 && sEfmt (m.img p.1) = 11 && !m.pushed p.1)

/-- R107 SCALE_PUSH: the Awl pushes the scales of the next tile of a step in issue order, if the FIFO has room and the range checker lets the
step's accesses begin (R164). Nothing is pushed where a scale cannot be read, nor during a replay. -/
def execScalePush (l : Nat) (s : State) : Out :=
  let x := s.cluster l
  match (if x.replay.isSome then none else x.lessee) with
  | none => .next s
  | some i =>
    match (stepsOf x (4 * l + i)).findSome? (fun m => (wantsScales m).map (fun p => (m, p))) with
    | none => .next s
    | some (m, p, n) =>
      let im := (s.cell m.cell).stream n
      let h := headFor s m n
      let q := fifoOf x p
      if 1024 < q.length + fifoShare im || !stepClear s m || !stepStores s m then .next s
      else match readScales s m.cell (scaleAddrs im h) with
        | (_, .flt _) => .next s
        | (s1, .ok b) =>
          let y := s1.cluster l
          .next (s1.setCluster l { y with
            scales := Tab.set y.scales p (q ++ (b.take (fifoShare im)).map (fun v => (v, v, scaleTag n h)))
            steps := y.steps.map (fun k => if k.cell = m.cell && k.dpos = m.dpos then { k with pa := k.pa || p == 0, pb := k.pb || p == 1 } else k) })

/-! The checks of a step as it begins (R379, R383, R401). -/

/-- A class 0x01 fault of a stream. -/
def streamBad (code n : Nat) : Flt := { cls := 1, code := code, aux2 := wd n }

/-- The first of a list of findings. -/
def firstBad (l : List (Option Flt)) : Option Flt := l.findSome? id

/-- A finding. -/
def bad (b : Bool) (f : Flt) : Option Flt := if b then some f else none

/-- A stream operand's format is one of the float formats or `z4` (R273). -/
def mulFmt (ef : Nat) : Bool := (6 ≤ ef && ef < 11) || ef = 11

/-- The geometry of a matrix step (R273, R275): `sp` doubles A's columns. -/
def mulGeometry (m : MStep) (na nb : Nat) (nm : Option Nat) : Option Flt :=
  let a := m.ia
  let b := m.ib
  let k := if nm.isSome then 2 * sCols a else sCols a
  let wide := sEfmt a = 6 || sEfmt b = 6
  firstBad
    [ bad (!mulFmt (sEfmt a) || 128 < sRows a || 128 < k || (wide && 16 < k)
        || (sEfmt a = 11 && (k % 32 != 0 || sBdim a != 0)) || (nm.isSome && (sEfmt a < 7 || 10 < sEfmt a || k % 4 != 0))) (streamBad 0x13 na)
    , bad (!mulFmt (sEfmt b) || 128 < sCols b || sRows b != k || (sEfmt b = 11 && (k % 32 != 0 || sBdim b != 1))) (streamBad 0x13 nb)
    , match nm with
      | none => none
      | some n => bad (sEfmt m.im != 3 || sRows m.im != sRows a || sCols m.im != k / 4) (streamBad 0x13 n) ]

/-- The metadata byte of row `i` and group `g` (R275). -/
def metaByte (s : State) (m : MStep) (n i g : Nat) : Nat := elemAt s m.cell n m.im m.lm (sHead m.im) (i * sCols m.im + g)

/-- The number of ones of a mask. -/
def ones4 (v : Nat) : Nat := v % 2 + v / 2 % 2 + v / 4 % 2 + v / 8 % 2

/-- Some metadata byte has more than two ones and an agreeing duplicate (R434). -/
def crowded (s : State) (m : MStep) (n : Nat) : Bool :=
  (List.range (tileSize m.im)).any (fun k => let v := elemAt s m.cell n m.im m.lm (sHead m.im) k; v % 16 = v / 16 && 2 < ones4 (v % 16))

/-- The window address of an offset of the own cluster's scratchpad. -/
def skWindow (o : Nat) : Word := wd (2 ^ 64 - 2 ^ 56 + 2 ^ 24 + o)

/-- The live columns of a slot as runs. -/
def liveRuns (b : Nat) (h : Hdr) : List (Word × Nat) :=
  [false, true].flatMap (fun q => (List.range h.c).map (fun j => (skWindow (b + h.col q h.bank j 0), 4 * h.len q)))

/-- The size of an image of `cc` columns (R135). -/
def imageSize (h : Hdr) (cc : Nat) : Nat := 64 + 4 * cc * (pad32 h.m + pad32 h.n)

/-- The header of the slot of a step. -/
def stepHdr (s : State) (m : MStep) : Hdr :=
  let l := clusterOf m.cell
  readHdr s l (slotBase (slotWord s l ((slotOf m.word).getD 0)))

/-- The word goes on with an operation of its slot: one that stopped at a panel boundary, a shrink under way, or the merge under way of the
same image (R62, R133, R405). -/
def resumes (s : State) (m : MStep) : Bool :=
  let h := stepHdr s m
  m.paused || (match m.word with
    | .skshrink _ _ => h.op = 1
    | .skmerge _ _ _ _ => h.op = 2 && h.msrc = m.g
    | _ => false)

/-- The faults of class 0x01 of a word (R378, R401, R405), in the order of the codes; a merge under way does not look at the header of
its image again (R421). -/
def stepFlt (s : State) (m : MStep) : Option Flt :=
  let l := clusterOf m.cell
  let streams := opStreams m.word
  let invalid := firstBad (streams.map (fun p => bad (invalidImage (m.img p.1)) (streamBad 0x12 p.2)))
  let ent := match slotOf m.word with | some n => slotWord s l n | none => 0
  let b := slotBase ent
  let h := readHdr s l b
  let noSlot := bad (!slotValid ent) { cls := 1, code := 0x15, aux2 := wd ((slotOf m.word).getD 0) }
  let busy := fun p => bad p { cls := 1, code := 0x17, aux2 := hdrWord s l b 2 }
  let st := fun p => ((streams.find? (fun q => q.1 = p)).map (·.2)).getD 0
  match m.word with
  | .mma .. => firstBad [invalid, mulGeometry m (st 0) (st 1) none]
  | .mmas .. => firstBad [invalid, mulGeometry m (st 0) (st 1) (some (st 2))]
  | .mkat .. => firstBad [invalid, mulGeometry m (st 0) (st 1) none]
  | .mfclr _ _ _ g _ => if g = 1 then noSlot else none
  | .skcfg _ _ _ => bad (!cfgOk (s.cluster l) m.g) { cls := 1, code := 0x14, aux2 := m.g }
  | .skfold .. =>
    let one := fun i d => !mulFmt (sEfmt i) || (sEfmt i = 11 && sBdim i != 0) || (slotValid ent && sCols i != d)
    firstBad
      [ invalid, bad (one m.ia h.m || (slotValid ent && h.cap < h.c + sRows m.ia)) (streamBad 0x13 (st 0))
      , bad (one m.ib h.n || sRows m.ib != sRows m.ia) (streamBad 0x13 (st 1)), noSlot, busy (h.op != 0) ]
  | .skshrink _ _ => firstBad [noSlot, busy (h.op = 2)]
  | .skmerge _ _ _ _ =>
    let g := imgHdr s m.cell m.g
    let unfit := g.m != h.m || g.n != h.n || 64 < g.c || g.bank != 0 || g.op != 0 || g.unit != 0 || g.mj != 0 || g.msrc != 0
    firstBad [noSlot, bad ((checkNear s m.cell m.g 64 256 false).isNone && unfit && !resumes s m) { cls := 1, code := 0x16, aux2 := m.g }
      , busy (h.op = 1 || (h.op = 2 && h.msrc != m.g))]
  | .skemit _ _ _ _ => firstBad [noSlot, busy (h.op != 0)]
  | .skstat _ _ _ _ => noSlot
  | _ => none

/-- The checks of the addresses of a word (class 0x06): its extent, its address, its operand tiles (R382, R383). A word that resumes checks
neither its slot's extent nor its image (R421). -/
def stepAddr (s : State) (m : MStep) : Option Flt :=
  let l := clusterOf m.cell
  let c := m.cell
  let b := match slotOf m.word with | some n => slotBase (slotWord s l n) | none => 0
  let h := readHdr s l b
  let ext := match m.word with
    | .skcfg _ _ _ => none
    | .mfclr .. => none
    | _ => bad ((slotOf m.word).isSome && !resumes s m && decide (2 ^ 23 < b + h.extent)) { cls := 6, code := 8, addr := skWindow b }
  let addr := match m.word with
    | .mdrain _ _ _ _ f => checkNear s c m.g (drainSize f) 256 true
    | .skmerge _ _ _ _ => if resumes s m then none else firstBad [checkNear s c m.g 64 256 false, checkNear s c m.g (imageSize h (imgHdr s c m.g).c) 256 false]
    | .skemit _ _ _ _ => checkNear s c m.g (imageSize h h.c) 256 true
    | .skstat _ _ _ _ => checkNear s c m.g 64 64 true
    | _ => none
  firstBad (ext :: addr :: (opStreams m.word).map (fun p => checkTile s c p.2 (m.img p.1) (m.lo p.1) (sHead (m.img p.1))))

/-- The runs that a word reads, for poison (R431): operand elements, the header, the work areas of an operation under way, live columns, the
image. -/
def stepReads (s : State) (m : MStep) : List (Word × Nat) :=
  let c := m.cell
  let b := match slotOf m.word with | some n => slotBase (slotWord s (clusterOf c) n) | none => 0
  let h := readHdr s (clusterOf c) b
  (opStreams m.word).flatMap (fun p => if (bankOf (s.cell c) p.2).isSome then [] else
      (tileAddrs (m.img p.1) (m.lo p.1) (sHead (m.img p.1))).map (fun a => (a, awlWidth (m.img p.1))))
    ++ (match m.word with
      | .skfold .. => [(skWindow b, 64)]
      | .skshrink _ _ => (skWindow b, 64) :: (if h.op = 1 then [(skWindow (b + 0x100), 0x10100)] else []) ++ liveRuns b h
      | .skmerge _ _ _ _ => (skWindow b, 64) :: (if h.op = 2 && h.unit != 0 then [(skWindow (b + 0x100), 0x10100)] else []) ++ liveRuns b h
          ++ [(m.g, imageSize h (imgHdr s c m.g).c)]
      | .skemit _ _ _ _ => (skWindow b, 64) :: liveRuns b h
      | .skstat _ _ _ _ => [(skWindow b, 64)]
      | .mfclr _ _ _ g _ => if g = 1 then [(skWindow b, 8)] else []
      | _ => [])

/-! Cycles (R271, R131 to R134). -/

/-- Four times q of a format. -/
def quarters (ef : Nat) : Nat := if ef = 6 then 32 else if ef = 7 || ef = 8 then 4 else if ef = 11 then 1 else 2

/-- The image of a merge. -/
def mergeImg (s : State) (m : MStep) : Option SkImg :=
  match m.word with
  | .skmerge _ _ _ _ => some ⟨m.g, (imgHdr s m.cell m.g).c⟩
  | _ => none

/-- The word runs in panels. -/
def isPaneled (w : Instr) : Bool :=
  match w with
  | .skshrink _ _ => true
  | .skmerge _ _ _ _ => true
  | _ => false

/-- A shrink that starts with C = 0 (R129). -/
def emptyShrink (s : State) (m : MStep) : Bool :=
  (match m.word with | .skshrink _ _ => true | _ => false) && (stepHdr s m).c = 0

/-- The array cycles of a step or of its next panel. -/
def stepCost (s : State) (m : MStep) : Nat :=
  let q := max (quarters (sEfmt m.ia)) (quarters (sEfmt m.ib))
  let h := stepHdr s m
  match m.word with
  | .mma .. => 4 + (sCols m.ia * q + 3) / 4
  | .mkat .. => 4 + (sCols m.ia * q + 3) / 4
  | .mmas .. => 4 + (2 * sCols m.ia * q + 7) / 8
  | .mdrain _ _ _ _ f => if f = 0 then 72 else 40
  | .mswap _ _ _ => 2
  | .mfclr _ _ _ g _ => if g = 0 then 1 else 4
  | .tstart _ _ => 16
  | .skcfg _ _ _ => 8
  | .skfold .. => 4 + (sRows m.ia * (h.m + h.n) + 2047) / 2048
  | .skemit _ _ _ _ => 4 + (h.c * (h.m + h.n) + 2047) / 2048
  | .skstat _ _ _ _ => 4
  | _ => if emptyShrink s m then 4 else (panelOf h (mergeImg s m)).2.1

/-- The panel that a step runs is its last one; a word that runs in no panels has no other. -/
def lastPanel (s : State) (_l : Nat) (m : MStep) : Bool :=
  !isPaneled m.word || emptyShrink s m || (panelOf (stepHdr s m) (mergeImg s m)).2.2

/-- The lessee's first step. -/
def headStep (x : Cluster) (l : Nat) : Option MStep := x.lessee.bind (fun i => (stepsOf x (4 * l + i)).head?)

/-- A step of the list replaced. -/
def putStep (x : Cluster) (m : MStep) : Cluster :=
  { x with steps := x.steps.map (fun q => if q.cell = m.cell && q.dpos = m.dpos then m else q) }

/-- The array is free for the lessee's next step in this cycle. -/
def arrayFree (s : State) (l : Nat) : Bool :=
  let x := s.cluster l
  !x.steps.any (·.begun) && x.replay.isNone && decide (x.lastEnd < s.now) && decide (x.freeAt ≤ s.now) && decide (s.now < x.granted + 4096)

/-- Some metadata byte of a sparse step marks more than two positions (R434). -/
def crowdFlt (s : State) (m : MStep) : Option Flt :=
  match m.word with
  | .mmas _ _ _ _ _ _ _ _ r => bad (crowded s m r.toNat) (streamBad 0x13 r.toNat)
  | _ => none

/-- The step starts: the array is taken for its cycles, 4 fewer right after a step of the three opcodes (R268). -/
def startStep (s : State) (l : Nat) (m : MStep) : State :=
  let x := s.cluster l
  let n := stepCost s m - (if isMul m.word && x.lastMul && x.lastEnd + 1 = s.now then 4 else 0)
  s.setCluster l (putStep x { m with begun := true, paused := false, ends := s.now + arrayCycles s n - 1 })

/-- R268, R270 STEP_BEGIN: the lessee's next step begins once the array is free, its operands and scales are there, the range
checker lets it and earlier stores of the cell have applied where it goes; or it reports its fault with no effect: the word's own, which one stopped at a panel boundary has passed, its addresses,
poison, and what it finds in metadata and scale FIFOs. -/
def execStepBegin (l : Nat) (s : State) : Out :=
  match headStep (s.cluster l) l with
  | none => .next s
  | some m0 =>
    let c := m0.cell
    let rep := fun (t : State) (m : MStep) (f : Flt) => Host.Outcome.next (raise t c .M (ofWord m.word f) m.pc m.dpos)
    if !arrayFree s l || !active s c || !stepClear s m0 || !stepStores s m0 then .next s
    else
      let m := refresh (s.cell c) m0
      if !operandsHere m then .next s
      else match firstBad [if m.paused then none else stepFlt s m, stepAddr s m], scalesReady s m with
        | some f, _ => rep s m f
        | none, .wait => .next s
        | none, r => match poisonRuns s c (stepReads s m) with
          | (s1, some f) => rep s1 m f
          | (s1, none) => match crowdFlt s1 m, r with
            | some f, _ => rep s1 m f
            | none, .flt f => rep s1 m f
            | none, _ => .next (startStep s1 l m)

/-! What the steps do. -/

/-- The participating pairs of element (i, j) of a dense step (R274). -/
def densePairs (a b : Nat → Nat → Num) (k i j : Nat) : List (Num × Num) := (List.range k).map (fun p => (a i p, b p j))

/-- The present positions of row `i` in a sparse step (R275): (position, place in the compressed row). -/
def present (mask : Nat → Nat) (groups : Nat) : List (Nat × Nat) :=
  (List.range groups).flatMap (fun g =>
    let p := (List.range 4).filter (fun t => mask g / 2 ^ t % 2 = 1)
    (p.zip [0, 1]).map (fun q => (4 * g + q.1, 2 * g + q.2)))

/-- A tile after MMA, MMAS or the sum of MKAT, with its flags (R274 to R276): `sa`, `sb` are the scales of the operands. -/
def mulTile (s : State) (m : MStep) (sa sb : List Byte) (t : Tile) (acc : Bool) : Tile × BitVec 4 :=
  let st := fun p => (((opStreams m.word).find? (fun q => q.1 = p)).map (·.2)).getD 0
  let neg := match m.word with
    | .mma _ _ _ _ x y _ _ => (x == 1, y == 1)
    | .mmas _ _ _ _ x y _ _ _ => (x == 1, y == 1)
    | .mkat _ _ _ x y _ => (x == 1, y == 1)
    | _ => (false, false)
  let a := fun i k => negIf neg.1 (elemNum s m.cell (st 0) m.ia m.la (sHead m.ia) sa (i * sCols m.ia + k))
  let b := fun k j => negIf neg.2 (elemNum s m.cell (st 1) m.ib m.lb (sHead m.ib) sb (k * sCols m.ib + j))
  match m.word with
  | .mmas _ _ _ _ _ _ _ _ r =>
    let groups := sCols m.im
    let pres := fun i => present (fun g => metaByte s m r.toNat i g % 16) groups
    stepTile t (sRows m.ia) (sCols m.ib) acc (fun i j => (pres i).map (fun q => (a i q.2, b q.1 j)))
      (fun i j => (List.range (4 * groups)).any (fun p => !(pres i).any (fun q => q.1 = p) && !(b p j).finite))
  | _ => stepTile t (sRows m.ia) (sCols m.ib) acc (densePairs a b (sCols m.ia)) (fun _ _ => false)

/-- AD of a step. -/
def accDisabled (w : Instr) : Bool :=
  match w with
  | .mma _ _ _ _ _ _ z _ => z == 1
  | .mmas _ _ _ _ _ _ z _ _ => z == 1
  | .mkat .. => true
  | _ => false

/-- Some metadata byte differs from its duplicate (R433). -/
def metaDiffers (s : State) (m : MStep) : Bool :=
  match m.word with
  | .mmas _ _ _ _ _ _ _ _ r => (List.range (tileSize m.im)).any (fun k => let v := elemAt s m.cell r.toNat m.im m.lm (sHead m.im) k; v % 16 != v / 16)
  | _ => false

/-- MKAT's sum has another checksum than the text (R276). -/
def katDiffers (s : State) (m : MStep) (sa sb : List Byte) : Bool :=
  match m.word with
  | .mkat _ _ _ _ _ k => crc32c (tileBytes (mulTile s m sa sb [] false).1) != k
  | _ => false

/-- MDRAIN (R277): the tile converted and stored, then its code; `.zero` clears the tile. -/
def runDrain (s : State) (l : Nat) (m : MStep) (c z : Nat) (f : BitVec 2) : State × BitVec 4 :=
  let x := s.cluster l
  let t := x.tile c
  let ty := if f = 0 then 6 else if f = 1 then 8 else 7
  let w := if f = 0 then 4 else 2
  let v := (List.range 16384).map (fun k => convert 6 ty 0 (Tile.at t k))
  let fl := v.foldl (fun r p => r ||| p.2) (0 : BitVec 4)
  let code := x.code c ||| fl
  let s1 := writeHome s (mHome s m.cell m.g) (v.flatMap (fun p => leList w p.1) ++ wordBytes (code.setWidth 64)) none
  (s1.setCluster l (((s1.cluster l).setTile c (if z = 1 then [] else t) code).openWin c), fl)

/-- What a step does at its retirement, apart from pops: the state and the flags of its events (R407). -/
def runStep (s : State) (l : Nat) (m : MStep) (sa sb : List Byte) : State × BitVec 4 :=
  let x := s.cluster l
  let b := match slotOf m.word with | some n => slotBase (slotWord s l n) | none => 0
  let mul := fun (n : Nat) =>
    let r := mulTile s m sa sb (x.tile n) (!accDisabled m.word)
    (s.setCluster l (x.setTile n r.1 (x.code n ||| r.2)), r.2)
  match m.word with
  | .mma _ c _ _ _ _ _ _ => mul c.toNat
  | .mmas _ c _ _ _ _ _ _ _ => mul c.toNat
  | .mdrain _ c z _ f => runDrain s l m c.toNat z.toNat f
  | .mswap _ c d =>
    let p := c.toNat
    let q := d.toNat
    if p = q then (s, 0)
    else (s.setCluster l (((x.setTile p (x.tile q) (x.code q)).setTile q (x.tile p) (x.code p)).openWin p |>.openWin q), 0)
  | .mfclr _ c f g _ =>
    if g = 0 then (s.setCluster l { x with codes := Tab.set x.codes c.toNat (x.code c.toNat &&& ~~~ f) }, 0)
    else (hdrPut s l b 0 (setBits (hdrWord s l b 0) 48 4 ((BitVec.ofNat 4 (bits (hdrWord s l b 0) 48 4)) &&& ~~~ f).toNat), 0)
  | .tstart _ c => (s.setCluster l (x.openWin c.toNat), 0)
  | .skcfg _ n _ => (runCfg s l n.toNat m.g, 0)
  | .skfold _ a d x1 y1 _ =>
    let u := fun (q : Bool) j k =>
      if q then negIf (y1 == 1) (elemNum s m.cell d.toNat m.ib m.lb (sHead m.ib) sb (j * sCols m.ib + k))
      else negIf (x1 == 1) (elemNum s m.cell a.toNat m.ia m.la (sHead m.ia) sa (j * sCols m.ia + k))
    runFold s l b (sRows m.ia) u
  | .skshrink _ _ => if emptyShrink s m then (s, 0) else runPanel (panelOf (stepHdr s m) none).1 s l b m.cell none false 0
  | .skmerge _ _ _ _ =>
    let im := mergeImg s m
    let r := runPanel (panelOf (stepHdr s m) im).1 s l b m.cell im false 0
    (endMerge r.1 l b, r.2)
  | .skemit _ _ _ _ => (runEmit s l b m.cell m.g, 0)
  | .skstat _ _ _ _ => (writeHome s (mHome s m.cell m.g) (rd s (skHome l b) 64) none, 0)
  | _ => (s, 0)

/-! Retirement (R269, R410 to R413). -/

/-- One tile popped from a stream: HEAD and IDX (R269). -/
def popTile (x : Cell) (n : Nat) : Cell := let i := x.stream n; x.setStream n (setHead (setPos i 0) (sHead i + 1))

/-- The retained form of a step (R280). -/
def keptOf (m : MStep) : Kept := ⟨m.word, sHead m.ia, sHead m.ib, sHead m.im, m.la, m.lb, m.lm⟩

/-- A step retained in the window of its tile: MMA, MMAS and MFCLR; MDRAIN, MSWAP and TSTART open new windows. -/
def keepStep (x : Cluster) (m : MStep) : Cluster :=
  match m.word with
  | .mdrain .. => x
  | .mswap .. => x
  | .tstart .. => x
  | w => (tilesOf w).foldl (fun (y : Cluster) n =>
      let v := y.win n
      if v.opened && v.kept.length < 256 then { y with wins := Tab.set y.wins n { v with kept := v.kept ++ [keptOf m] } } else y) x

/-- The scales of a port that a step takes, in pairs. -/
def takenScales (x : Cluster) (m : MStep) (p : Nat) : List (Byte × Byte × Nat) :=
  if sEfmt (m.img p) = 11 && (opStreams m.word).any (fun q => q.1 = p) then (fifoOf x p).take (fifoShare (m.img p)) else []

/-- The trap code, delivery and AUX2 of a word's events (R411). -/
def trapOf (m : MStep) (fl : BitVec 4) : Option Flt :=
  if fl &&& m.traps = 0 then none
  else
    let aux := wd (fl.toNat + 16 * m.traps.toNat)
    match slotOf m.word with
    | some n => some { cls := 0xA, code := if isPaneled m.word then 4 else 3, dlv := if isPaneled m.word then 2 else 1, aux := aux, aux2 := wd (n + 256) }
    | none => some { cls := 0xA, code := 2, dlv := 1, aux := aux, aux2 := wd ((tilesOf m.word).headD 0) }

/-- A step leaves the array: pops, scales, the budget (R62), the trap. -/
def endStep (s : State) (l : Nat) (m : MStep) (fl : BitVec 4) : State :=
  let x := s.cluster l
  let c := m.cell
  let rest := x.steps.filter (fun q => !(q.cell = c && q.dpos = m.dpos))
  let drop := fun p => (fifoOf x p).drop (takenScales x m p).length
  let x1 := { x with steps := rest, lastEnd := m.ends, lastMul := isMul m.word, scales := Tab.set (Tab.set x.scales 0 (drop 0)) 1 (drop 1) }
  let y := (popsOf m.word).foldl popTile (s.cell c)
  let done := !rest.any (fun q => q.cell = c)
  let s1 := (s.setCluster l x1).setCell c { y with mlog := if done then [] else y.mlog }
  let s2 := match trapOf m fl with
    | some f => raise s1 c .M f m.pc m.dpos
    | none => s1
  if done && 256 ≤ x.used then endLease s2 l true else s2

/-! Rollback (R433 to R438). -/

/-- A hidden error of the array that a step meets: (kind, tile). -/
def upsetFor (x : Cluster) (m : MStep) : Option (Nat × Nat) :=
  let mul := match m.word with | .mma .. => true | .mmas .. => true | _ => false
  let drain := match m.word with | .mdrain .. => true | _ => false
  x.upsets.find? (fun u => (tilesOf m.word).contains u.2
    && (u.1 = 1 || (u.1 = 2 && (mul || drain)) || (u.1 = 3 && mul && (sEfmt m.ia = 11 || sEfmt m.ib = 11))))

/-- The trigger that a step meets: (kind, tile, whether it is a hidden error). -/
def triggerOf (s : State) (l : Nat) (m : MStep) (sa sb : List (Byte × Byte × Nat)) : Option (Nat × Nat × Bool) :=
  let x := s.cluster l
  let tile := (tilesOf m.word).headD 0
  match upsetFor x m with
  | some u => some (u.1, u.2, true)
  | none =>
    if !(tilesOf m.word).isEmpty && (sa ++ sb).any (fun e => e.1 != e.2.1) then some (3, tile, false)
    else if metaDiffers s m then some (4, tile, false)
    else if katDiffers s m (sa.map (·.1)) (sb.map (·.1)) then some (5, 0, false)
    else none

/-- The tiles concerned go back to their checkpoints; their codes keep what they held (R407, R436). -/
def restoreTiles (x : Cluster) (mask : Nat) : Cluster :=
  (List.range 4).foldl (fun y n => if mask / 2 ^ n % 2 = 1 then y.setTile n (y.win n).tile ((y.win n).code ||| y.code n) else y) x

/-- The next retained word to replay, from window `w` at `p`. -/
def nextKept (x : Cluster) (mask w p : Nat) : Option (Nat × Nat) :=
  if w < 4 && mask / 2 ^ w % 2 = 1 && p < (x.win w).kept.length then some (w, p)
  else ([0, 1, 2, 3].find? (fun n => w < n && mask / 2 ^ n % 2 = 1 && !(x.win n).kept.isEmpty)).map (fun n => (n, 0))

/-- A replay starts (R436): the triggering step waits at the array, retained last in its window unless it is MKAT. -/
def startReplay (s : State) (l : Nat) (m : MStep) (kind tile : Nat) (hidden : Bool) : State :=
  let x := s.cluster l
  let mask := if kind = 5 then 15 else 2 ^ tile
  let x1 := restoreTiles { x with upsets := if hidden then x.upsets.erase (kind, tile) else x.upsets } mask
  let v := x1.win tile
  let x2 := if kind = 5 then x1 else { x1 with wins := Tab.set x1.wins tile { v with kept := v.kept ++ [keptOf m] } }
  let first := ([0, 1, 2, 3].find? (fun n => mask / 2 ^ n % 2 = 1)).getD 0
  s.setCluster l { x2 with replay := some ⟨mask, kind, tile, first, 0, m.pc, m.dpos, m.traps⟩ }

/-- The M agent of a cell at its next word (R359): the first of the step words that go back to it at a halt (R68), else the agent as it stands. -/
def mNext (s : State) (c : Nat) : Agent :=
  match (s.cluster (clusterOf c)).steps.find? (fun q => q.cell = c && !q.begun) with
  | some q => q.agent
  | none => (s.cell c).agent .M

/-- A trigger recurs (R438): the gang halts with RST 0, the tiles concerned hold their checkpoints. PC is M's next word at the halt. -/
def recur (s : State) (l : Nat) (m : MStep) (r : Replay) : State :=
  let x := restoreTiles (s.cluster l) r.mask
  let slot := if r.kind = 4 then elemAddr m.im m.lm (sHead m.im) 0 else if r.kind = 2 || r.kind = 3 then elemAddr m.ia m.la (sHead m.ia) 0 else 0
  let a := mNext s m.cell
  raise (s.setCluster l { x with replay := none, steps := x.steps.filter (fun q => !q.begun) }) m.cell .M
    { cls := 0xB, code := 4, addr := slot, aux := wd (r.kind + 16 * r.tile), dlv := 3, rst := false } a.pc a.dpos

/-- The scale bytes of a replayed step, from the scale ring (R436). -/
def ringScales (s : State) (m : MStep) (p : Nat) : List Byte :=
  if sEfmt (m.img p) = 11 && (opStreams m.word).any (fun q => q.1 = p) then
    match readScales s m.cell (scaleAddrs (m.img p) (sHead (m.img p))) with
    | (_, .ok b) => b
    | _ => []
  else []

/-- The scales of a tile of more blocks than the FIFO holds that come while the step runs (R108, log 24). -/
def restScales (s : State) (m : MStep) (p : Nat) : List Byte :=
  if 1024 < blockCount (m.img p) then (ringScales s m p).drop 1024 else []

/-- The storage error that a replayed step meets in what it reads (R431): operands, then the scales of its ports. -/
def replayPoison (s : State) (m : MStep) : State × Option Flt :=
  let scales := fun (t : State) (p : Nat) =>
    if sEfmt (m.img p) = 11 && (opStreams m.word).any (fun q => q.1 = p) then
      match readScales t m.cell (scaleAddrs (m.img p) (sHead (m.img p))) with
      | (t1, .flt f) => (t1, if f.cls = 0xB then some f else none)
      | (t1, _) => (t1, none)
    else (t, none)
  match poisonRuns s m.cell (stepReads s m) with
  | (s1, some f) => (s1, some f)
  | (s1, none) => match scales s1 0 with
    | (s2, some f) => (s2, some f)
    | (s2, none) => scales s2 1

/-- A replayed step meets a storage error, which is no trigger (R435): the replay ends and the gang halts, PC at M's next word (R431). -/
def replayHalt (s : State) (l c : Nat) (f : Flt) : State :=
  let x := s.cluster l
  let a := mNext s c
  raise (s.setCluster l { x with replay := none, steps := x.steps.filter (fun q => !q.begun) }) c .M f a.pc a.dpos

/-- The step whose trigger a replay serves: the one in the array, or the MKAT of a replay that has come back, once M has issued it again (R437). -/
def triggerStep (s : State) (l : Nat) (r : Replay) : Option MStep :=
  let x := s.cluster l
  match x.steps.find? (·.begun) with
  | some m => some m
  | none => ((headStep x l).filter (fun m => r.kind = 5 && m.dpos = r.dpos)).map (fun m => { refresh (s.cell m.cell) m with ends := s.now })

/-- R436 ROLLBACK_REPLAY: the next retained word of the replay is performed again; the last one ends it, and the triggering step
retires; a storage error in what it reads halts the gang. -/
def execRollbackReplay (l : Nat) (s : State) : Out :=
  let x := s.cluster l
  match x.replay, x.lessee with
  | some r, some i =>
    let c := 4 * l + i
    if !active s c then .next s
    else match nextKept x r.mask r.win r.pos with
      | some (w, p) =>
        let k := ((x.win w).kept[p]?).getD ⟨.mswap 0 0 0, 0, 0, 0, 0, 0, 0⟩
        let m := (triggerStep s l r).getD (keptStep s c k r.pc r.dpos 0 r.traps)
        let last := r.kind != 5 && (nextKept x r.mask w (p + 1)).isNone
        let q := if last then m else keptStep s c k m.pc m.dpos 0 0
        let sa := ringScales s q 0
        let sb := ringScales s q 1
        if let (s1, some f) := replayPoison s q then .next (replayHalt s1 l c f)
        else if (upsetFor x q).isSome || metaDiffers s q then .next (recur s l m r)
        else
          let e := runStep (replayPoison s q).1 l q sa sb
          let y := e.1.cluster l
          if last then .next (endStep (countInteg (e.1.setCluster l { y with replay := none }) (dieOfCluster s l) 48 16) l m e.2)
          else .next (e.1.setCluster l { y with replay := some { r with win := w, pos := p + 1 } })
      | none => match triggerStep s l r with
        | none => .next s
        | some m =>
          if let (s1, some f) := replayPoison s m then .next (replayHalt s1 l c f)
          else if katDiffers s m (ringScales s m 0) (ringScales s m 1) then .next (recur s l m r)
          else .next (endStep (countInteg (s.setCluster l { x with replay := none }) (dieOfCluster s l) 48 16) l m 0)
  | _, _ => .next s

/-! Granules of a running step (R141). -/

/-- Memory as a step has read it: the granules read before it retires as they stood then, the others as they stand. -/
def stepView (s : State) (m : MStep) : State := m.caught.foldl (fun t g => { t with mem := memPutAll t.mem g.1 g.2 }) s

/-- The granules that a step writes: those of its write footprint (R163), and for SKCFG that of its slot-table entry (R281). -/
def stepWrites (s : State) (m : MStep) : List Nat :=
  granulesOf ((stepFp s m).2 ++ match m.word with
    | .skcfg _ n _ => let l := clusterOf m.cell; skRange l (slotEntry (s.cluster l) n.toNat) 8
    | _ => [])

/-- Memory `w` with the bytes of granule `g` that an effect changes, from `v` to `t`. -/
def putGranule (v t : State) (w : List Host.Cell) (g : Nat) : List Host.Cell :=
  ((List.range 64).filter (fun i => memGet t.mem (g + i) != memGet v.mem (g + i))).foldl (fun u i => memPut u (g + i) (memGet t.mem (g + i))) w

/-- The state after a step's effect, from what it read, `v`, to `t`: the bytes that it changes in granules that are still to be written come from there, the
rest of memory stays. -/
def stepMem (s : State) (m : MStep) (v t : State) : State :=
  if m.caught.isEmpty && m.out.isEmpty then t
  else { t with mem := ((stepWrites s m).filter (fun g => !m.out.contains g)).foldl (putGranule v t) s.mem }

/-- Before its end a step may read or write one more of its granules, in any order: first those that it reads, then those that it writes. A panel's granules
are read and written together at its end (log 70, DESIGN CHOICE). -/
def stepGranule (s : State) (l : Nat) (m : MStep) : State :=
  let reads := (granulesOf (stepFp s m).1).filter (fun g => !m.caught.any (fun p => p.1 = g))
  let writes := (stepWrites s m).filter (fun g => !m.out.contains g)
  if isPaneled m.word then s
  else if !reads.isEmpty then
    let g := pickOf s.ticks reads
    { s.setCluster l (putStep (s.cluster l) { m with caught := m.caught ++ [(g, rd s g 64)] }) with ticks := s.ticks + 1 }
  else if !writes.isEmpty then
    let g := pickOf s.ticks writes
    let v := stepView s m
    let t := (runStep v l m ((takenScales (s.cluster l) m 0).map (·.1) ++ restScales v m 0) ((takenScales (s.cluster l) m 1).map (·.1) ++ restScales v m 1)).1
    { s.setCluster l (putStep (s.cluster l) { m with out := m.out ++ [g] }) with
      mem := putGranule v t s.mem g, ticks := s.ticks + 1
      poison := s.poison.filter (fun u => !covers g 64 u || t.poison.contains u), latent := s.latent.filter (fun p => !covers g 64 p.1 || t.latent.contains p) }
  else s

/-! The events of a running step. -/

/-- The step that the array performs and whose time has come. -/
def dueStep (s : State) (l : Nat) : Option MStep :=
  let x := s.cluster l
  if x.replay.isSome then none else (x.steps.find? (·.begun)).bind (fun m => if m.ends ≤ s.now then some m else none)

/-- The step under way in the array, before its time has come. -/
def runningStep (s : State) (l : Nat) : Option MStep :=
  let x := s.cluster l
  if x.replay.isSome then none else (x.steps.find? (·.begun)).filter (fun m => decide (s.now < m.ends))

/-- R268, R269 STEP_RETIRE: the step's effect, its pops, its retention; or the replay that a trigger starts. Before the step's time has come it reads or
writes a granule (R141). -/
def execStepRetire (l : Nat) (s : State) : Out :=
  match dueStep s l, runningStep s l with
  | none, none => .next s
  | none, some m => .next (stepGranule s l m)
  | some m, _ =>
    if !lastPanel s l m then .next s
    else
      let x := s.cluster l
      let v := stepView s m
      let sa := takenScales x m 0
      let sb := takenScales x m 1
      match triggerOf v l m sa sb with
      | some t => .next (startReplay s l m t.1 t.2.1 t.2.2)
      | none =>
        let r := runStep v l m (sa.map (·.1) ++ restScales v m 0) (sb.map (·.1) ++ restScales v m 1)
        .next (endStep ((stepMem s m v r.1).setCluster l (keepStep (r.1.cluster l) m)) l m r.2)

/-- R132, R420 SKETCH_PANEL_BOUNDARY: a panel that is not the last ends; the word goes on, or stops there at the lease limit, at a
halt or at its own trap. -/
def execSketchPanelBoundary (l : Nat) (s : State) : Out :=
  match dueStep s l with
  | none => .next s
  | some m =>
    if lastPanel s l m then .next s
    else
      let b := slotBase (slotWord s l ((slotOf m.word).getD 0))
      let im := mergeImg s m
      let r := runPanel (panelOf (stepHdr s m) im).1 s l b m.cell im false 0
      let s1 := match trapOf m r.2 with
        | some f => raise r.1 m.cell .M f m.pc m.dpos
        | none => r.1
      let x := s1.cluster l
      if !active s1 m.cell || x.granted + 4096 ≤ s.now then
        .next (s1.setCluster l { putStep x { m with begun := false, paused := true } with lastEnd := m.ends, lastMul := false })
      else .next (s1.setCluster l (putStep x { m with ends := m.ends + arrayCycles s1 (stepCost s1 m) }))

end Sys2Proof.Machine
end

