-- ==== Sys2Proof/Machine/MemEvents.lean ====
section
/-!
DEFINITION. The events of memory: loads perform and return (R139 to R145, R205, R208), stores apply and are acknowledged
(R75, R76, R140, R143), walks and prefetches (R83, R84), TLBINV (R85), key slots (R89), scrubbing (R430, R431).
-/
namespace Sys2Proof.Machine

/-! Loads. -/

/-- The bytes of one access at this node as the cell's loads numbered `id` see them, or none where another node holds them. -/
def accBytes (s : State) (c id : Nat) (a : Acc) : Option (List Byte) :=
  match a.loc with
  | .home h => some (loadBytes s c id h a.len a.key)
  | .mcast o => some (loadBytes s c id (cellHome c + o) a.len none)
  | .fabric n o => if n = selfNode s then some (loadBytes s c id (sliceHome o) a.len none) else none
  | .reduce _ o => some (freeBytes { s with ticks := s.ticks + o % 256 } a.len)

/-- The home run of an access at this node. -/
def accHome (s : State) (c : Nat) (a : Acc) : Option Nat :=
  match a.loc with
  | .home h => some h
  | .mcast o => some (cellHome c + o)
  | .fabric n o => if n = selfNode s then some (sliceHome o) else none
  | .reduce _ _ => none

/-- The first access of a group that meets a poisoned unit (R431). -/
def groupPoison (s : State) (c : Nat) (l : List Acc) : Option Flt :=
  l.findSome? (fun a => (accHome s c a).bind (fun h => if poisoned s h a.len then some (poisonFlt s h a.len a.va false) else none))

/-- Every hidden error that a group of accesses meets. -/
def exposeGroup (s : State) (c : Nat) (l : List Acc) : State :=
  l.foldl (fun t a => match accHome t c a with | some h => expose t h a.len | none => t) s

/-- A load that met a poisoned unit is dropped: its word writes no destination (R431). -/
def dropLoad (y : Cell) (l : Load) : Cell :=
  let x := if y.vpre.any (fun p => p.2.load = l.id) then y.undoAhead else y
  let dead := x.pend.filter (fun p => p.late.any (fun q => q.load = l.id))
  { x with
    stores := x.stores.filter (fun q => !(q.awaits && dead.any (fun w => w.id = q.id)))
    loads := x.loads.filter (fun q => q.id != l.id)
    returning := x.returning.filter (fun q => !dead.any (fun p => p.late.any (fun r => r.load = q.id)))
    sop := if l.dest = .sop then none else x.sop
    pend := x.pend.filter (fun p => !p.late.any (fun q => q.load = l.id))
    chans := x.chans.map (fun p => (p.1, { p.2 with q := p.2.q.filter (fun q => q.val.isSome || !dead.any (fun w => w.id = q.id)) })) }

/-- The load with a group performed: its bytes come in; after its last group it returns. -/
def tookGroup (x : Cell) (l : Load) (b : List Byte) : Cell :=
  let l1 := { l with accs := l.accs.tail, got := l.got ++ b, waiting := false }
  if l1.accs.isEmpty then { x with loads := x.loads.filter (fun q => q.id != l.id), returning := x.returning ++ [l1] }
  else { x with loads := x.loads.map (fun q => if q.id = l.id then l1 else q) }

/-- The fabric run that a group of accesses of another node spans: node, offset, bytes. -/
def remoteSpan (l : List Acc) : Option (Nat × Nat × Nat) :=
  match l with
  | [] => none
  | a :: r => match a.loc, remoteSpan r with
    | .fabric n o, none => some (n, o, a.len)
    | .fabric n o, some (_, p, k) => let lo := min o p; some (n, lo, max (o + a.len) (p + k) - lo)
    | _, q => q

/-- R139, R143 LOAD_PERFORM: the oldest load of cell `c` performs its next group of accesses whole (R141); a group of the fabric remote window
is asked for, this node's own slice among it (R76), and what the cell's own stores give it is taken with the request (R145). An earlier store to its
bytes whose values are still to come is waited for. -/
def execLoadPerform (c : Nat) (s : State) : Out :=
  match (s.cell c).loads with
  | [] => .next s
  | l :: _ =>
    match l.accs with
    | [] => .next (s.setCell c (tookGroup (s.cell c) l []))
    | g :: _ =>
      if l.waiting || (s.cell c).stores.any (fun q => decide (q.id < l.id) && q.awaits && g.any (storeMeets s c q)) then .next s
      else match remoteSpan g with
        | some (n, o, k) =>
          if canSend s n then
            let s1 := askRemote s (.load c l.id) n o k
            .next (s1.setCell c { s1.cell c with loads := (s1.cell c).loads.map (fun q =>
              if q.id = l.id then { q with waiting := true, ownBytes := forwardedFar s c l.id n o k } else q) })
          else .next s
        | none =>
          match groupPoison s c g with
          | some f => let s1 := exposeGroup s c g
                      .next (fault (s1.setCell c (dropLoad (s1.cell c) l)) c l.eng f)
          | none =>
            let s1 := exposeGroup s c g
            .next { s1.setCell c (tookGroup (s1.cell c) l (g.flatMap (fun a => (accBytes s c l.id a).getD []))) with ticks := s.ticks + 512 }

/-- The bytes of a group from the response to its span at `o`, the cell's own stores laid over them as they stood at the request (R145). -/
def spanBytes (own : List (Option Byte)) (o : Nat) (b : List Byte) (g : List Acc) : List Byte :=
  g.flatMap (fun a => match a.loc with
    | .fabric _ p => (List.range a.len).map (fun i => (own.getD (p + i - o) none).getD (byteAt b (p + i - o)))
    | _ => [])

/-- A read response for a load: its group has performed. -/
def loadResponse (s : State) (c id : Nat) (b : List Byte) : State :=
  let x := s.cell c
  match x.loads.find? (fun l => l.id = id && l.waiting) with
  | none => s
  | some l => match l.accs.head?.map (fun g => (g, remoteSpan g)) with
    | some (g, some (_, o, _)) => s.setCell c (tookGroup x l (spanBytes l.ownBytes o b g))
    | _ => s

/-- What a returned load does with its bytes (R205, R208, R209). -/
def landLoad (x : Cell) (l : Load) : Cell :=
  match l.dest with
  | .reg r n sg => x.setG r (loadValue l.got n sg)
  | .stream n => x.setStream n (BitVec.ofNat 1024 (leNat l.got))
  | .sop => { x with sop := x.sop.map (fun o => { o with bytes := some l.got }) }
  | .vec => x

/-- R205, R208 LOAD_RETURN: load `i` of cell `c` has performed, and its bytes reach their register, stream or S word. -/
def execLoadReturn (c i : Nat) (s : State) : Out :=
  let x := s.cell c
  match x.returning.find? (fun l => l.id = i && l.dest != .vec) with
  | none => .next s
  | some l => .next (s.setCell c (landLoad { x with returning := x.returning.filter (fun q => q.id != i) } l))

/-! Stores. -/

/-- Bytes written at a home by an access (R86, R87, R430): a write that covers a unit only in part reads it first. -/
def applyAcc (s : State) (c : Nat) (p : Acc × List Byte) : State :=
  match p.1.loc with
  | .home h =>
    writeHome (exposePart s h p.1.len) h p.2 p.1.key
  | .mcast o => (List.range 4).foldl (fun t i => let h := cellHome (4 * clusterOf c + i) + o; writeHome (exposePart t h p.1.len) h p.2 none) s
  | _ => s

/-- Pieces of one write whose bytes follow each other at their home, joined. -/
def mergeAccs (l : List (Acc × List Byte)) : List (Acc × List Byte) :=
  match l with
  | [] => []
  | p :: r => match mergeAccs r with
    | q :: t =>
      let next := match p.1.loc with
        | .home x => Loc.home (x + p.1.len)
        | .mcast x => .mcast (x + p.1.len)
        | k => k
      if q.1.loc = next && q.1.key = p.1.key then ({ p.1 with len := p.1.len + q.1.len }, p.2 ++ q.2) :: t else p :: q :: t
    | [] => [p]

/-- A part of a store is written whole (R141): contiguous bytes of it are one write, which clears the poison of every unit that it covers (R430). -/
def applyPart (s : State) (c : Nat) (g : List (Acc × List Byte)) : State := (mergeAccs g).foldl (fun t p => applyAcc t c p) s

/-- The first store of a cell with this number that has left and not applied. -/
def leftStore (x : Cell) (id : Nat) : Option Store := x.stores.find? (fun q => q.id = id && q.left && !q.applied)

/-- The stores of a list before the first one that is left and unapplied with this number. -/
def storesBefore (l : List Store) (id : Nat) : List Store := l.takeWhile (fun q => !(q.id = id && q.left && !q.applied))

/-- The store may apply its next part (R143, R256): no earlier store of its path, none of an earlier lane of its word, and none to its bytes, is
unapplied, and every earlier load of its bytes has performed (R145). -/
def storeFree (s : State) (c : Nat) (q : Store) : Bool :=
  (storesBefore (s.cell c).stores q.id).all (fun r => r.applied || (r.path != q.path && !lanesBefore r q
    && !(r.parts.any (fun g => g.any (fun a => (q.parts.headD []).any (fun b => meet s c a.1 b.1))))))
    && !(q.parts.headD []).any (fun b => loadAhead s c q.id b.1)

/-- A store of the list, found as `leftStore` finds it, replaced or dropped. -/
def putStore (l : List Store) (id : Nat) (q : Option Store) : List Store :=
  match l with
  | [] => []
  | r :: t => if r.id = id && r.left && !r.applied then q.toList ++ t else r :: putStore t id q

/-- The store has applied whole: the tiles that await it settle once no entry of its number is left (R258). -/
def storeDone (x : Cell) (id : Nat) : Cell := if x.stores.any (fun q => q.id = id && !q.applied) then x else tailApplied x id

/-- R139, R140, R143 STORE_APPLY: store `i` of cell `c` applies its next part whole at its home (R141); a posted write then awaits
its acknowledgement (R76). -/
def execStoreApply (c i : Nat) (s : State) : Out :=
  match leftStore (s.cell c) i with
  | none => .next s
  | some q =>
    if leavesNode q || q.due.isSome || !storeFree s c q then .next s
    else match q.parts with
      | [] => .next s
      | g :: r =>
        let s1 := applyPart s c g
        let x := s1.cell c
        let q1 := if r.isEmpty then (if q.cls = 4 then none else some { q with parts := [g], applied := true }) else some { q with parts := r }
        let y := { x with stores := putStore x.stores i q1 }
        .next (drain 288 (s1.setCell c (if r.isEmpty then storeDone y i else y)) c)

/-- Packets of a posted store that their connection has not acknowledged, with those that wait to be sent. -/
def unacked (s : State) (tag : Nat × Nat) : Nat :=
  (s.conns.map (fun p => (p.2.retry.filter (fun r => r.store = some tag)).length)).foldl (· + ·) 0

/-- The packets of later entries of the same store that have left. -/
def laterPackets (s : State) (l : List Store) (id : Nat) : Nat :=
  ((l.dropWhile (fun q => !(q.id = id && q.left))).tail.filter (fun q => q.id = id && q.left)).foldl (fun n q => n + (storePackets s q).length) 0

/-- The list without its first left entry of a number. -/
def dropLeft (l : List Store) (id : Nat) : List Store :=
  match l with
  | [] => []
  | q :: r => if q.id = id && q.left then r else q :: dropLeft r id

/-- R76 POSTED_WRITE_ACK: the acknowledgement of a posted write returns, and the write is in flight no more. A write to another
node has been acknowledged once its packets are (R332). -/
def execPostedWriteAck (c i : Nat) (s : State) : Out :=
  let x := s.cell c
  match x.stores.find? (fun q => q.id = i && q.left) with
  | none => .next s
  | some q =>
    if (leavesNode q && unacked s (c, i) ≤ laterPackets s x.stores i) || (!leavesNode q && q.applied) then
      .next (drain 288 (s.setCell c { x with stores := dropLeft x.stores i }) c)
    else .next s

/-- The stores of earlier lanes of a multicast store's word that reach its bytes in this module's own windows apply before it lands (R143). -/
def lanesFirst (s : State) (c : Nat) (q : Store) : State :=
  let before := (storesBefore (s.cell c).stores q.id).filter (fun r => r.word = q.word && !r.applied && !leavesNode r && r.due.isNone
    && r.parts.any (fun g => g.any (fun a => q.parts.any (fun h => h.any (fun b => meet s c a.1 b.1)))))
  before.foldl (fun t r =>
    let u := r.parts.foldl (fun v g => applyPart v c g) t
    u.setCell c { u.cell c with stores := (u.cell c).stores.filterMap (fun k =>
      if k = r then (if r.cls = 4 then none else some { r with left := true, applied := true }) else some k) }) s

/-- R75, R151 MULTICAST_LANDING: the multicast store of cell `c` that is due lands in the four cell stores of its cluster. -/
def execMulticastLanding (c : Nat) (s : State) : Out :=
  let x := s.cell c
  match x.stores.find? (fun q => !q.applied && (match q.due with | some n => decide (n ≤ s.now) | none => false)) with
  | none => .next s
  | some q =>
    if 512 ≤ c then .next s
    else
      let s1 := q.parts.foldl (fun t g => applyPart t c g) (lanesFirst s c q)
      let y := { s1.cell c with stores := (s1.cell c).stores.filter (fun r => r.id != q.id) }
      .next (s1.setCell c (storeDone y q.id))

/-! Translation. -/

/-- R83 PAGE_WALK: the last-level TLB of die `d` misses an address and walks the table; a walk that fails enters nothing (R426). -/
def execPageWalk (d v : Nat) (s : State) : Out :=
  if 4 ≤ d || 2 ^ 56 ≤ v || (tlbFind (s.die d).lltlb v).isSome then .next s
  else match walk s v with
    | .ok t => let s1 := walkMeets s v; let x := s1.die d; .next (s1.setDie d { x with lltlb := tlbPut x.lltlb 12288 s.ticks t })
    | _ => .next (walkMeets s v)

/-- A TLB without the entries that an invalidation drops: all, or those that cover the address. -/
def tlbDrop (all : Bool) (va : Nat) (t : List Trans) : List Trans := if all then [] else t.filter (fun e => !(decide (e.base ≤ va) && decide (va < e.base + e.size)))

/-- The TLBs of a cell after an invalidation. -/
def cellDrop (all : Bool) (va : Nat) (x : Cell) : Cell :=
  { x with stlb := tlbDrop all va x.stlb, vtlb := tlbDrop all va x.vtlb, mtlb := tlbDrop all va x.mtlb, xtlb := tlbDrop all va x.xtlb }

/-- The memory that the translations dropped by an invalidation led to: all of it, or the pages of the entries that cover the address. -/
def droppedRuns (s : State) (all : Bool) (va : Nat) : List Range :=
  if all then [⟨0, 2 ^ 48⟩]
  else
    let tlbs := s.cells.flatMap (fun p => p.2.stlb ++ p.2.vtlb ++ p.2.mtlb ++ p.2.xtlb) ++ s.dies.flatMap (fun p => p.2.lltlb ++ p.2.ik.tlb)
    (tlbs.filter (fun e => decide (e.base ≤ va) && decide (va < e.base + e.size))).map (fun e => ⟨e.pa, e.size⟩)

/-- An access through a translation that led to one of these runs. -/
def accUses (l : List Range) (a : Acc) : Bool :=
  match a.loc with
  | .home h => a.key.isSome && rangesMeet [⟨h, a.len⟩] l
  | _ => false

/-- What a cell has under way that may use dropped translations. -/
def oldUse (s : State) (l : List Range) (c : Nat) (x : Cell) : OldUse :=
  ⟨c, x.nextId, (x.jobs.filter (fun j => j.begun && (rangesMeet (jobFp s c j).1 l || rangesMeet (jobFp s c j).2 l))).map (·.dpos),
    if (x.sop.bind (·.chk)).any (fun k => k.1.any (accUses l)) then some (x.agent .S).dpos else none⟩

/-- A write of TLBINV taken: BUSY, and every TLB of the module drops the matching entries (R85). -/
def invalidate (s : State) (v : Word) : State :=
  let all := bits v 0 2 != 1
  let va := bits v 16 48 * 2 ^ 16
  let drop := cellDrop all va
  let l := droppedRuns s all va
  { setMreg s 0x1001 (fieldWrite 0x1001 (mreg s 0x1001) v) with
    cells := s.cells.map (fun p => (p.1, drop p.2))
    gangs := s.gangs.map (fun g => { g with saved := g.saved.map (fun p => (p.1, drop p.2)) })
    dies := s.dies.map (fun p => (p.1, { p.2 with lltlb := tlbDrop all va p.2.lltlb, ik := { p.2.ik with tlb := tlbDrop all va p.2.ik.tlb } }))
    tlbinvBusy := some (l, s.cells.map (fun p => oldUse s l p.1 p.2)) }

/-- R85 TLBINV_PAGE: a write of TLBINV with OP 1. -/
def execTlbinvPage (s : State) : Out :=
  match takeWrite s (fun w => w.reg = 0x1001 && bits w.val 0 2 = 1) with
  | some (s1, w) => .next (invalidate s1 w.val)
  | none => .next s

/-- R85 TLBINV_ALL: a write of TLBINV with OP 2 or 3. -/
def execTlbinvAll (s : State) : Out :=
  match takeWrite s (fun w => w.reg = 0x1001 && 2 ≤ bits w.val 0 2) with
  | some (s1, w) => .next (invalidate s1 w.val)
  | none => .next s

/-- A cell has yet to complete an access, a transfer or a KST that used a dropped translation (R85, R426); what a gang that has halted has stopped is
checked again when it resumes. -/
def usesOld (s : State) (l : List Range) (p : OldUse) : Bool :=
  let x := s.cell p.cell
  x.loads.any (fun q => q.id < p.id && q.accs.any (fun g => g.any (accUses l)))
    || x.stores.any (fun q => q.id < p.id && !q.applied && q.parts.any (fun g => g.any (fun a => accUses l a.1)))
    || ((gangOf s p.cell).isSome && x.jobs.any (fun j => p.jobs.contains j.dpos))
    || (p.kst = some (x.agent .S).dpos && (x.sop.bind (·.chk)).isSome)

/-- R85 TLBINV_COMPLETE: BUSY clears once every access that used a dropped translation has completed. -/
def execTlbinvComplete (s : State) : Out :=
  match s.tlbinvBusy with
  | some b => if b.2.any (usesOld s b.1) then .next s else .next { s with tlbinvBusy := none }
  | none => .next s

/-- The key that KEYDATA0 to KEYDATA7 hold, the data key first (R89). -/
def keyData (s : State) : BitVec 512 := BitVec.ofNat 512 ((List.range 8).foldr (fun i r => (mreg s (0x1008 + i)).toNat + 2 ^ 64 * r) 0)

/-- R89 KEY_SLOT_LOAD: a write of KEYCMD with bit 15 loads the slot. -/
def execKeySlotLoad (s : State) : Out :=
  match takeWrite s (fun w => w.reg = 0x1010 && bit w.val 15) with
  | some (s1, w) =>
    .next { setMreg s1 0x1010 (fieldWrite 0x1010 (mreg s1 0x1010) w.val) with keySlots := Tab.set s1.keySlots (bits w.val 0 10) (some (keyData s1)) }
  | none => .next s

/-! Scrubbing. -/

/-- The address that a record names for a home unit: physical, or in the module's remote windows (R431). -/
def unitAddr (a : Nat) : Word :=
  if isDram a then wd a
  else if a < 2 ^ 61 then wd (2 ^ 64 - 2 ^ 56 + 2 ^ 32 + (a - 2 ^ 60))
  else if a < 2 ^ 62 then wd (2 ^ 64 - 2 ^ 56 + 2 ^ 33 + (a - 2 ^ 61))
  else wd (2 ^ 64 - 2 ^ 56 + 3 * 2 ^ 32 + (a - 2 ^ 62))

/-- R430, R431 SCRUB: a unit of storage is read; an error is corrected or poisons it, and a poisoned unit is recorded. -/
def execScrub (a : Nat) (s : State) : Out :=
  let u := a - a % unitSize a
  if poisoned s u (unitSize a) then
    .next (dieRecord (expose s u (unitSize a)) (homeDie s u) .S
      { cls := 0xB, code := 5, addr := unitAddr u, aux := wd (homeKind u), dlv := 3 })
  else .next (expose s u (unitSize a))

end Sys2Proof.Machine
end

