-- ==== Sys2Proof/Machine/EventTable.lean ====
section
/-!
DEFINITION. What X commands and stages act on at a die: the event table (R59, R297, R298), the tails of queues (R55, R396), and the
blocks of a scatter-accumulate engine (R90 to R94, R431).
-/
namespace Sys2Proof.Machine

/-! Events (R59). -/

/-- Event `n` of a die. -/
def Die.event (x : Die) (n : Nat) : Event := Tab.get Event.reset x.events n
/-- Replace event `n` of a die. -/
def setEvent (s : State) (d n : Nat) (e : Event) : State :=
  let x := s.die d; s.setDie d { x with events := Tab.set x.events n e }

/-- The wait or barrier of a cell's command at a position is released: its command records it (R298). -/
def markReached (x : Cell) (t : Option TileRef) (dpos : Nat) : Cell :=
  if x.tile = t then { x with jobs := x.jobs.map (fun j => if j.dpos = dpos then { j with reached := true } else j) } else x

/-- A waiter is released, wherever its cell's state is kept. -/
def releaseOne (s : State) (w : Waiter) : State :=
  let s1 := { s with gangs := s.gangs.map (fun g => { g with saved := g.saved.map (fun p => if p.1 = w.cell then (p.1, markReached p.2 w.tile w.dpos) else p) }) }
  match Tab.look s1.cells w.cell with
  | some x => s1.setCell w.cell (markReached x w.tile w.dpos)
  | none => s1

/-- The count of an event is 0: the hardware list is released in order, and the walker takes up the overflow list. -/
def releaseAll (s : State) (d n : Nat) : State :=
  let e := (s.die d).event n
  setEvent (e.hw.foldl releaseOne s) d n { e with hw := [], release := !e.spill.isEmpty }

/-- XEVSET: the count is set; 0 releases the waiters. -/
def eventSet (s : State) (d n : Nat) (v : BitVec 32) : State :=
  let s1 := setEvent s d n { (s.die d).event n with count := v }
  if v = 0 then releaseAll s1 d n else s1

/-- A signal: the count falls by 1; reaching 0 releases the waiters, and 0 stays 0. -/
def eventSignal (s : State) (d n : Nat) : State :=
  let e := (s.die d).event n
  if e.count = 0 then s else eventSet s d n (e.count - 1)

/-- The waiters in a die's overflow lists. -/
def overflowCount (x : Die) : Nat := (x.events.map (fun p => p.2.spill.length)).foldl (· + ·) 0

/-- The address of a die's overflow lists, EVOVFBASE (R181). -/
def overflowBase (s : State) (d : Nat) : Nat := bits (dreg s d 0x201) 24 24 * 2 ^ 24

/-- How a wait on an event stands: satisfied, entered in a list, no place yet, no place at all (R396 code 0x02), or a place in the bonded DRAM of a
die in Retention (R351). -/
inductive WaitRes where
  | met
  | entered (s : State)
  | later
  | full
  | asleep (a : Nat)

/-- A waiter of event `n`: the ninth and later ones go to the overflow list, whose entry's layout is not given (log 31). While the
walker releases the list a further overflow waits. -/
def eventWait (s : State) (d n : Nat) (w : Waiter) : WaitRes :=
  let e := (s.die d).event n
  if e.count = 0 then .met
  else if e.hw.length < 8 && (e.spill.isEmpty || e.release) then .entered (setEvent s d n { e with hw := e.hw ++ [w] })
  else if e.release then .later
  else
    let k := overflowCount (s.die d)
    if 1048576 ≤ k then .full
    else if retained s (overflowBase s d + 16 * k) then .asleep (overflowBase s d + 16 * k)
    else
      let s1 := devWrite s (overflowBase s d + 16 * k) (freeBytes s 16)
      .entered (setEvent { s1 with ticks := s1.ticks + 16 } d n { e with spill := e.spill ++ [w] })

/-- R59 EVENT_OVERFLOW_WALK: the walker releases the next waiter of the overflow list of event `e` on die `d`. -/
def execEventOverflowWalk (d e : Nat) (s : State) : Out :=
  let v := (s.die d).event e
  if 4 ≤ d || !v.release then .next s
  else match v.spill with
    | [] => .next (setEvent s d e { v with release := false })
    | w :: r => .next (releaseOne (setEvent (expose s (overflowBase s d) (16 * overflowCount (s.die d))) d e { v with spill := r, release := !r.isEmpty }) w)

/-! Tails (R55, R57, R396 code 0x07). -/

/-- QHEADn. -/
def qhead (x : Die) (n : Nat) : Nat := (Tab.get 0 x.qhead n).toNat
/-- QTAILn. -/
def qtail (x : Die) (n : Nat) : Nat := (Tab.get 0 x.qtail n).toNat
/-- The submitted records of a queue that have not started. -/
def qcount (x : Die) (n : Nat) : Nat := (qtail x n + qsize x n - qhead x n % qsize x n) % qsize x n
/-- The free slots of a ring. -/
def qfree (x : Die) (n : Nat) : Nat := qsize x n - 1 - qcount x n

/-- A write of QTAILn taken by the scheduler: reduced modulo 2^SIZE; one that adds more records than there are free slots is
refused and recorded. `by_` is the writing agent's number or the host's node. -/
def takeTail (s : State) (d n v by_ : Nat) : State :=
  let x := s.die d
  let t := v % qsize x n
  if qfree x n < (t + qsize x n - qtail x n) % qsize x n then
    dieRecord s d .X { cls := 0xF, code := 7, addr := Tab.get 0 x.qbase n, aux := wd (n + 2 ^ 16 * v), aux2 := wd by_, dlv := 3 }
  else s.setDie d { x with qtail := Tab.set x.qtail n (wd t) }

/-! The scatter-accumulate engine (R90 to R94). -/

/-- TYPE and OP form a pair of R92. -/
def scPair (op ty : Nat) : Bool :=
  if op = 0 then ty < 5 else if op < 3 then ty = 0 || ty = 2 || ty = 4 else op < 7 && (ty = 2 || ty = 3)

/-- The bytes of a type's word. -/
def scWidth (ty : Nat) : Nat := if ty = 1 || ty = 3 then 8 else 4

/-- The engine's operation on a word (R92); f32 rounds to nearest even, and its flags are not recorded. -/
def scOp (op ty old v : Nat) : Nat :=
  let n := 2 ^ (8 * scWidth ty)
  let less := if ty = 0 then intValue 2 32 v < intValue 2 32 old else v < old
  if op = 0 then (if ty = 4 then (fAdd fp32 0 old v).1 else (old + v) % n)
  else if op = 1 then (if ty = 4 then fMinMax fp32 false old v else if less then v else old)
  else if op = 2 then (if ty = 4 then fMinMax fp32 true old v else if less then old else v)
  else if op = 3 then old &&& v
  else if op = 4 then old ||| v
  else if op = 5 then old ^^^ v
  else v

/-- Elements of one block with one target word, operation and type (R93). -/
def sameTarget (a b : Elem) : Bool := a.addr == b.addr && a.op == b.op && a.ty == b.ty

/-- A word after the elements of one group, in ticket order (R93). -/
def scGroup (op ty old : Nat) (vals : List Nat) : Nat :=
  if op = 0 && ty = 4 then
    match vals with
    | [] => old
    | v :: r => scOp 0 4 old (r.foldl (scOp 0 4) v)
  else vals.foldl (scOp op ty) old

/-- One group is applied: a poisoned word is left alone and recorded (R431 code 0x06). -/
def scApply (s : State) (e : Elem) (vals : List Nat) : State :=
  let w := scWidth e.ty
  if poisoned s e.addr w then
    dieRecord (expose s e.addr w) (homeDie s e.addr) .S { cls := 0xB, code := 6, addr := unitAddr e.addr, aux := wd (homeKind e.addr), dlv := 3 }
  else
    let s1 := expose s e.addr w
    writeHome s1 e.addr (leList w (scGroup e.op e.ty (leNat (rd s1 e.addr w)) vals)) none

/-- A block is applied whole, its groups in the order of their first tickets. -/
def scBlock (s : State) (l : List Elem) : State :=
  (l.foldl (fun (heads : List Elem) e => if heads.any (sameTarget e) then heads else heads ++ [e]) []).foldl
    (fun t e => scApply t e ((l.filter (sameTarget e)).map (fun q => q.val.toNat))) s

/-- The blocks of a command that the engine has applied count no more. -/
def dropTicket (s : State) (l ticket : Nat) : State :=
  let f := fun (x : Cell) => { x with jobs := x.jobs.map (fun j => { j with tickets := j.tickets.filter (fun p => p != (l, ticket)) }) }
  { s with cells := s.cells.map (fun p => (p.1, f p.2)) }

/-- The oldest block of cluster `l` is applied. -/
def scNext (s : State) (l : Nat) : State :=
  let x := s.cluster l
  match x.blocks with
  | [] => s
  | b :: r =>
    let s1 := dropTicket (scBlock (s.setCluster l { x with blocks := r }) b.elems) l b.ticket
    match b.src with
    | some p => owe s1 p.1
    | none => s1

/-- A block enters the engine; the second part is its first ticket (R91). `src` names the packet that brought it. -/
def scEnter (s : State) (l : Nat) (e : List Elem) (src : Option (Nat × Nat × Nat)) : State × Nat :=
  let x := s.cluster l
  (s.setCluster l { x with blocks := x.blocks ++ [⟨x.ticket, e, src⟩], ticket := x.ticket + e.length }, x.ticket)

end Sys2Proof.Machine
end

