-- ==== Sys2Proof/Machine/Transfer.lean ====
section
/-!
DEFINITION. X words and their commands (R287 to R311, R402, R403, R451): issue, beginning, chunks, completion.
-/
namespace Sys2Proof.Machine

/-! Issue (R164, R287, R288). -/

/-- A g register that a transfer word names, and whether the entry uses it as an address. -/
abbrev XReg := Option (BitVec 5 × Bool)

/-- Its value at issue: LO is added to an address (R219, R287). -/
def xVal (x : Cell) (o : XReg) : Word :=
  match o with
  | none => 0
  | some p => x.gAt .X p.1.toNat + (if p.2 then loG (x.agent .X) p.1.toNat else 0)

/-- The fields of a footprint extension (R188). -/
structure Foot where
  r : Nat
  w : Nat
  u : Nat
  p : Nat
  q : Nat
  deriving DecidableEq, Repr

/-- E = 0 declares empty footprints (R188). -/
def noFoot : Foot := ⟨0, 0, 0, 0, 0⟩
/-- An extension's footprint. -/
def foot (r w u : BitVec 2) (p q : BitVec 13) : Foot := ⟨r.toNat, w.toNat, u.toNat, p.toNat, q.toNat⟩
/-- The unit of RLEN and WLEN. -/
def footUnit (u : Nat) : Nat := if u = 0 then 256 else if u = 1 then 4096 else if u = 2 then 65536 else 1048576

/-- One declared footprint: the base is the value of the field that the selector names. -/
def footRange (sel len u : Nat) (vals : List Word) : List Range :=
  if sel = 0 || len = 0 then [] else [⟨(vals.getD (sel - 1) 0).toNat, len * footUnit u⟩]

/-- The registers that the fields name. -/
def xNames (l : List XReg) : List Nat := l.filterMap (fun o => o.map (fun p => p.1.toNat))

/-- A command as it issues: the g values, the handle of its completion action, the footprints. -/
def mkJob (s : State) (k : Nat) (w : Instr) (a b c d : XReg) (f : Foot) : Job :=
  let x := s.cell k
  let vals := [xVal x a, xVal x b, xVal x c]
  { pc := (x.agent .X).pc, dpos := (x.agent .X).dpos, word := w, a := xVal x a, b := xVal x b, c := xVal x c, d := xVal x d
    kreg := x.kAt .X (bits (xVal x c) 43 4), rd := footRange f.r f.p f.u vals, wr := footRange f.w f.q f.u vals
    begun := false, reached := false, done := 0, sub := 0, stamp := none, oseq := 0, acks := [], tickets := [], asked := false
    buf := [], todo := [], puts := [], racc := [], wacc := [], record := [], spent := false, lost := false, seen := x.nextId }

/-- An X word of `n` words: it issues once S has passed it and its registers hold their values, and one of the 16 places is
free. `bad` is a fault of its fields. -/
def xWord (s : State) (t : BitVec 4) (n : Nat) (w : Instr) (a b c d : XReg) (f : Foot) (bad : Option Flt) : Out :=
  match s.cur with
  | .ik i => .next (ikBad s i 1)
  | .agent k .X =>
    let s1 := flushSig s k .X
    let x := s1.cell k
    match blocked s1 k .X t n, bad with
    | some v, _ => .next (waits s1 k .X v)
    | none, some e => .next (fault s1 k .X e)
    | none, none =>
      if (x.agent .S).dpos ≤ (x.agent .X).dpos || !gReady x .X (xNames [a, b, c, d]) || 16 ≤ x.jobs.length then .next (waits s1 k .X .other)
      else .next (retire (s1.setCell k { x with jobs := x.jobs ++ [mkJob s1 k w a b c d f] }) k .X t n)
  | .agent k e => .next (skipWords s k e n)

/-- An address operand. -/
def xa (r : BitVec 5) : XReg := some (r, true)
/-- A value operand. -/
def xv (r : BitVec 5) : XReg := some (r, false)

/-- R292 XMOVE with E = 0: empty footprints. -/
def execXmove (t : BitVec 4) (a b c d : BitVec 5) (s : State) : Out :=
  xWord s t 1 (.xmove t a b c d) (xa a) (xa b) (xv c) (xv d) noFoot none
/-- R292 XMOVE with footprints. -/
def execXmoveExt (t : BitVec 4) (a b c d : BitVec 5) (r w u : BitVec 2) (p q : BitVec 13) (s : State) : Out :=
  xWord s t 2 (.xmoveExt t a b c d r w u p q) (xa a) (xa b) (xv c) (xv d) (foot r w u p q) none
/-- R294 XFOOT. -/
def execXfoot (t : BitVec 4) (a : BitVec 5) (r w u : BitVec 2) (p q : BitVec 13) (s : State) : Out :=
  xWord s t 2 (.xfoot t a r w u p q) (xa a) none none none (foot r w u p q) none
/-- R295 XSCAT. -/
def execXscat (t : BitVec 4) (a b c : BitVec 5) (r w u : BitVec 2) (p q : BitVec 13) (s : State) : Out :=
  xWord s t 2 (.xscat t a b c r w u p q) (xa a) (xa b) (xv c) none (foot r w u p q) none
/-- R296 XBAR; level 3 and above is R378 code 0x05. -/
def execXbar (t : BitVec 4) (l : BitVec 5) (s : State) : Out :=
  xWord s t 1 (.xbar t l) none none none none noFoot (if 3 ≤ l.toNat then some { cls := 1, code := 5 } else none)
/-- R297 XEVSET. -/
def execXevset (t : BitVec 4) (a b : BitVec 5) (s : State) : Out := xWord s t 1 (.xevset t a b) (xv a) (xv b) none none noFoot none
/-- R297 XEVSIG. -/
def execXevsig (t : BitVec 4) (a : BitVec 5) (s : State) : Out := xWord s t 1 (.xevsig t a) (xv a) none none none noFoot none
/-- R297 XEVWAIT. -/
def execXevwait (t : BitVec 4) (a : BitVec 5) (s : State) : Out := xWord s t 1 (.xevwait t a) (xv a) none none none noFoot none
/-- R299 XTAIL. -/
def execXtail (t : BitVec 4) (a b : BitVec 5) (s : State) : Out := xWord s t 1 (.xtail t a b) (xv a) (xv b) none none noFoot none
/-- R302 XSEND. -/
def execXsend (t : BitVec 4) (a b c d : BitVec 5) (r w u : BitVec 2) (p q : BitVec 13) (s : State) : Out :=
  xWord s t 2 (.xsend t a b c d r w u p q) (xa a) (xv b) (xv c) (xv d) (foot r w u p q) none
/-- R302 XSENDO. -/
def execXsendo (t : BitVec 4) (a b c d : BitVec 5) (r w u : BitVec 2) (p q : BitVec 13) (s : State) : Out :=
  xWord s t 2 (.xsendo t a b c d r w u p q) (xa a) (xv b) (xv c) (xv d) (foot r w u p q) none
/-- R304 XRED. -/
def execXred (t : BitVec 4) (a b c : BitVec 5) (r w u : BitVec 2) (p q : BitVec 13) (s : State) : Out :=
  xWord s t 2 (.xred t a b c r w u p q) (xa a) (xa b) (xv c) none (foot r w u p q) none
/-- R306 XCOLL. -/
def execXcoll (t : BitVec 4) (a b : BitVec 5) (r w u : BitVec 2) (p q : BitVec 13) (s : State) : Out :=
  xWord s t 2 (.xcoll t a b r w u p q) (xa a) (xa b) none none (foot r w u p q) none
/-- R300 XSUBMIT. -/
def execXsubmit (t : BitVec 4) (a b c : BitVec 5) (r w u : BitVec 2) (p q : BitVec 13) (s : State) : Out :=
  xWord s t 2 (.xsubmit t a b c r w u p q) (xv a) (xa b) (xv c) none (foot r w u p q) none
/-- R301 XARRIVE. -/
def execXarrive (t : BitVec 4) (a b : BitVec 5) (s : State) : Out := xWord s t 1 (.xarrive t a b) (xv a) (xv b) none none noFoot none
/-- R308 XKEYLD. -/
def execXkeyld (t : BitVec 4) (a b c : BitVec 5) (r w u : BitVec 2) (p q : BitVec 13) (s : State) : Out :=
  xWord s t 2 (.xkeyld t a b c r w u p q) (xv a) (xa b) (xv c) none (foot r w u p q) none
/-- R309 XKEYSW. -/
def execXkeysw (t : BitVec 4) (a : BitVec 5) (s : State) : Out := xWord s t 1 (.xkeysw t a) (xv a) none none none noFoot none

/-! Commands in the job table. -/

/-- Replace a command of the table, found by its position. -/
def putJob (s : State) (k : Nat) (j : Job) : State :=
  let x := s.cell k; s.setCell k { x with jobs := x.jobs.map (fun q => if q.dpos = j.dpos then j else q) }

/-- A command leaves the table: it has completed, and X puts the signals that waited for it in that cycle (R44, R148). -/
def endJob (s : State) (k dpos : Nat) : State :=
  let x := s.cell k; flushSig (s.setCell k { x with jobs := x.jobs.filter (fun q => q.dpos != dpos) }) k .X

/-- The command of a cell at a position. -/
def jobAt (s : State) (k dpos : Nat) : Option Job := (s.cell k).jobs.find? (fun j => j.dpos = dpos)

/-- A command that moves data in chunks (R289). -/
def isBulk (w : Instr) : Bool :=
  match w with
  | .xmove .. => true | .xmoveExt .. => true | .xscat .. => true | .xsend .. => true | .xsendo .. => true
  | .xred .. => true | .xcoll .. => true | _ => false

/-- The synchronising words (R290). -/
def isSync (w : Instr) : Bool :=
  match w with
  | .xbar .. => true | .xevset .. => true | .xevsig .. => true | .xtail .. => true | .xsubmit .. => true
  | .xarrive .. => true | .xkeysw .. => true | _ => false

/-- The words that hold later commands back (R291). -/
def holdsLater (w : Instr) : Bool :=
  match w with
  | .xevwait .. => true | .xbar .. => true | _ => false

/-- The fault of a begun command: with no progress it has DLV 0 and the command is queued again, later DLV 2 (R359, R383); a class
0x0B fault names the agent's next word (R431). -/
def jobFlt (s : State) (k : Nat) (j : Job) (f : Flt) : State :=
  if f.cls = 0xB then fault s k .X f
  else
    let first := j.done = 0 && j.sub = 0 && j.stamp.isNone
    raise (putJob s k { j with begun := j.begun && !first, buf := [], todo := [], puts := [], record := if first then [] else j.record }) k .X
      { ofWord j.word f with dlv := if first then 0 else 2 } j.pc j.dpos

/-- A report of this command is part of its gang's halt. -/
def reported (s : State) (k : Nat) (j : Job) : Bool :=
  match gangOf s k with
  | some g => g.reports.any (fun r => r.agent = agentNo k .X && (r.dpos = j.dpos || r.cls = 0xB))
  | none => false

/-- A command that goes on while its gang halts (R65, R310): a chunk under way, an ordered message or collective that has begun
injection, a command that is not bulk. -/
def mustFinish (j : Job) : Bool :=
  j.asked || j.begun && !holdsLater j.word && (!j.buf.isEmpty || j.sub != 0 || j.stamp.isSome || !isBulk j.word)

/-- The command may go on: its gang runs, or halts and the command finishes first; one that a lost connection has stopped does not (R448). -/
def mayRun (s : State) (k : Nat) (j : Job) : Bool :=
  !j.lost && (active s k || ((s.cell k).tile.isSome && (gangOf s k).isSome && mustFinish j && !reported s k j))

/-! Reading and checking (R141, R163, R382, R383). -/

/-- A run lies in one range of a list. -/
def within (fp : List Range) (a n : Nat) : Bool := fp.any (fun q => decide (q.base ≤ a) && decide (a + n ≤ q.base + q.len))

/-- An access lies in the declared footprint `fp` (R163, R188): its homes do, or its addresses where they have none. -/
def inFoot (s : State) (k : Nat) (fp : List Range) (va : Word) (n : Nat) : Bool :=
  let l := fpRanges s k va n
  if paged va && l.isEmpty then within fp va.toNat n else l.all (fun r => within (homes s k fp) r.base r.len)

/-- Some access goes to the reduce aperture. -/
def toReduce (ks : List Acc) : Bool := ks.any (fun a => match a.loc with | .reduce _ _ => true | _ => false)

/-- Check one access of `n` bytes: alignment, the declared footprint (none: outside every footprint, R306), the aperture where `red` refuses it, and the
checks of any access. -/
def checkOne (s : State) (k : Nat) (fp : Option (List Range)) (al n : Nat) (write elem red : Bool) (va : Word) : State × Res Chkd :=
  let range := fun code => (s, Res.flt { cls := 6, code := code, addr := va, aux := accAux write elem n : Flt })
  if canonical va && va.toNat % al != 0 then range 3
  else if canonical va && !((fp.map (fun f => inFoot s k f va n)).getD true) then range 5
  else match checkAccess s (.agent k .X) .X va n al write elem with
    | (s1, .flt f) => (s1, .flt f)
    | (s1, .ok q) => if red && toReduce q.accs then (s1, .flt { cls := 6, code := 4, addr := va, aux := accAux write elem n }) else (s1, .ok q)

/-- Check an access at each address; the fault that R361 names first stands, and of two alike that of the earlier address. -/
def checkRun (s : State) (k : Nat) (fp : Option (List Range)) (al n : Nat) (write elem red : Bool) (l : List Word) : State × Res (List Chkd) :=
  match l with
  | [] => (s, .ok [])
  | va :: r =>
    let a := checkOne s k fp al n write elem red va
    let b := checkRun a.1 k fp al n write elem red r
    (b.1, joinRes (fun q qs => q :: qs) a.2 b.2)

/-! Granules (R141): those of a chunk are read, and written, one at a time in an order that a free value picks (log 32). -/

/-- Bytes put at an offset of a run. -/
def putAt (b : List Byte) (o : Nat) (d : List Byte) : List Byte := b.take o ++ d ++ b.drop (o + d.length)

/-- The offsets of the items of `n` bytes of a chunk. -/
def offsets (n m : Nat) : List Nat := (List.range m).map (fun i => n * i)

/-- The addresses of `m` consecutive items of `n` bytes. -/
def runAddrs (va : Word) (n m : Nat) : List Word := (List.range m).map (fun i => va + wd (n * i))

/-- The command with its chunk's source bytes all here. -/
def Job.filled (j : Job) (b : List Byte) : Job := { j with buf := b, todo := [] }

/-- How a command's read of source bytes stands. -/
inductive Src where
  | ready (s : State) (b : List Byte)
  | wait (s : State)
  | flt (s : State) (f : Flt)

/-- How many items from offset `o` on lie together in the slice of one node and are still to be read. -/
def nodeRun (j : Job) (n o : Nat) (va : Word) : Nat :=
  ((List.range (4096 / n)).takeWhile (fun i => j.todo.contains (o + n * i) && (va + wd (n * i)).toNat / 2 ^ 30 == va.toNat / 2 ^ 30)).length

/-- The next item of a chunk is read through the accesses found at its check (R426): one of this node's memory at once, one in the slice of a node, this
one's among them (R76, R424), asked for with those that follow it there. -/
def readItem (s : State) (k : Nat) (j : Job) (n : Nat) (accs : List (List Acc)) (vas : List Word) : Src :=
  let o := pickOf s.ticks j.todo
  let q := accs.getD (o / n) []
  match remoteSpan q with
  | some (m, a, _) =>
    if canSend s m then .wait (putJob (askRemote s (.job k j.dpos o) m a (n * nodeRun j n o (vas.getD (o / n) 0))) k { j with asked := true })
    else .wait (putJob s k j)
  | none =>
    match groupPoison s k q with
    | some f => .flt (exposeGroup s k q) f
    | none =>
      let b := putAt j.buf o (q.flatMap (fun a => (accBytes s k j.seen a).getD []))
      let j1 := { j with buf := b, todo := j.todo.erase o }
      let s1 := { putJob (exposeGroup s k q) k j1 with ticks := s.ticks + 512 }
      if j1.todo.isEmpty then .ready s1 b else .wait s1

/-- Gather the source bytes of a chunk whose accesses have been checked, `n` at each of the consecutive addresses `vas`. -/
def gatherFrom (s : State) (k : Nat) (j : Job) (n : Nat) (accs : List (List Acc)) (vas : List Word) : Src :=
  if j.asked then .wait s
  else if vas.isEmpty || (!j.buf.isEmpty && j.todo.isEmpty) then .ready s j.buf
  else readItem s k (if j.buf.isEmpty then { j with buf := List.replicate (n * vas.length) 0, todo := offsets n vas.length } else j) n accs vas

/-- Gather a chunk's source bytes: every address is checked before any byte is read (R383), and translated then (R426); bytes of the slice of a node
are asked for and come back into the command (R289, R326). -/
def gather (s : State) (k : Nat) (j : Job) (fp : Option (List Range)) (al n : Nat) (red : Bool) (vas : List Word) : Src :=
  if j.asked || !j.buf.isEmpty || vas.isEmpty then gatherFrom s k j n j.racc vas
  else match checkRun s k fp al n false (isBulk j.word) red vas with
    | (s1, .flt f) => .flt s1 f
    | (s1, .ok ks) => gatherFrom s1 k { j with racc := ks.map (·.accs) } n (ks.map (·.accs)) vas

/-- A read response for a command: its bytes join those gathered, from offset `o` on. -/
def jobResponse (s : State) (k dpos o : Nat) (b : List Byte) : State :=
  match jobAt s k dpos with
  | some j => if j.asked then
      putJob s k { j with buf := putAt j.buf o b, todo := j.todo.filter (fun p => !(decide (o ≤ p) && decide (p < o + b.length))), asked := false } else s
  | none => s

/-- The read footprint that a command declares. -/
def rdFoot (j : Job) : Option (List Range) := some j.rd
/-- The write footprint that a command declares. -/
def wrFoot (j : Job) : Option (List Range) := some j.wr

/-- A register operand holds a value that the entry forbids (R378 code 0x10). -/
def valueFlt (v : Word) : Flt := { cls := 1, code := 0x10, aux2 := v }

/-- A misaligned address of a bulk command or another (R382 code 0x03). -/
def alignFlt (va : Word) (al n : Nat) (write elem : Bool) : Option Flt :=
  bad (canonical va && va.toNat % al != 0) { cls := 6, code := 3, addr := va, aux := accAux write elem n }

/-! XMOVE (R292, R293, R426). -/

/-- ROWS. -/
def mvRows (j : Job) : Nat := bits j.c 24 16
/-- ROWB. -/
def mvRowb (j : Job) : Nat := bits j.c 0 24
/-- CPL. -/
def mvCpl (j : Job) : Nat := bits j.c 40 3
/-- EVN. -/
def mvEvn (j : Job) : Nat := bits j.c 48 16
/-- DSTRIDE. -/
def mvDstride (j : Job) : Word := ((j.d >>> 32).setWidth 32).signExtend 64
/-- SSTRIDE. -/
def mvSstride (j : Job) : Word := (j.d.setWidth 32).signExtend 64

/-- The homes of the granule at an address; none where it does not translate. A read through the multicast window reads the own cell store alone
(R75). -/
def granHomes (s : State) (k : Nat) (write : Bool) (va : Word) : List Nat :=
  if !canonical va then []
  else if paged va then match (translate s (.agent k .X) .X va.toNat).2 with
    | .ok t => [t.pa + (va.toNat - t.base)]
    | _ => []
  else match window s (.agent k .X) (winOff va) 64 with
    | .ok (.mcast o) cls => if write then reach s k ⟨.mcast o, 64, none, cls, va⟩ else [cellHome k + o]
    | .ok loc cls => reach s k ⟨loc, 64, none, cls, va⟩
    | .bad _ => []

/-- The homes of every granule of one side of a move. -/
def moveHomes (s : State) (k : Nat) (j : Job) (write : Bool) (base stride : Word) : List Nat :=
  (List.range (mvRows j)).flatMap (fun r => (List.range (mvRowb j / 64)).flatMap (fun q => granHomes s k write (base + wd r * stride + wd (64 * q))))

/-- Source and destination share a byte at their homes. -/
def moveOverlaps (s : State) (k : Nat) (j : Job) : Bool :=
  let d := moveHomes s k j true j.b (mvDstride j)
  (moveHomes s k j false j.a (mvSstride j)).any (fun x => d.any (fun y => overlap x 64 y 64))

/-- An address in the reduce aperture (R382 code 0x04). -/
def apertureFlt (s : State) (k : Nat) (va : Word) (write : Bool) : Option Flt :=
  match (if paged va then (s, .flt { cls := 6, code := 4 }) else checkAccess s (.agent k .X) .X va 64 1 write true) with
  | (_, .ok q) => bad (toReduce q.accs) { cls := 6, code := 4, addr := va, aux := accAux write true 64 }
  | _ => none

/-- Nothing is moved: only the completion action runs. -/
def moveEmpty (j : Job) : Bool := mvRows j = 0 || mvRowb j = 0

/-- What XMOVE's values forbid as it begins (R402). -/
def moveFlt (s : State) (k : Nat) (j : Job) : Option Flt :=
  let carg := bits j.c 43 4
  let h := (s.cell k).chan (mvEvn j % 16)
  firstBad
    [ bad (bit j.c 47 || mvRowb j % 64 != 0 || 2 < mvCpl j || (carg != 0 && mvCpl j != 2) || (mvCpl j = 2 && 16 ≤ mvEvn j)) (valueFlt j.c)
    , bad ((mvDstride j).toNat % 64 != 0 || (mvSstride j).toNat % 64 != 0) (valueFlt j.d)
    , bad (!moveEmpty j && moveOverlaps s k j) (valueFlt j.c)
    , bad (mvCpl j = 2 && bKind (effBind h) != 0) (chanFlt h (mvEvn j % 16) 3)
    , if moveEmpty j then none else (alignFlt j.a 64 64 false true).orElse (fun _ => alignFlt j.b 64 64 true true)
    , if moveEmpty j then none else (apertureFlt s k j.a false).orElse (fun _ => apertureFlt s k j.b true) ]

/-- The paged addresses, one for each 64 KiB, of a write footprint. -/
def footPages (l : List Range) : List Word :=
  (l.filter (fun r => paged (wd r.base))).flatMap (fun r =>
    (List.range ((r.base + r.len + 65535) / 65536 - r.base / 65536)).map (fun i => wd (max r.base ((r.base / 65536 + i) * 65536))))

/-- D for every page of the destination footprint, once every page has translated with W = 1 (R86, R426). -/
def markFoot (s : State) (k : Nat) (l : List Range) : State × Option Flt :=
  match checkRun s k none 1 1 true true false (footPages l) with
  | (s1, .ok ks) => (markAll s1 ks, none)
  | (s1, .flt f) => (s1, some (if f.cls = 5 then { f with aux := f.aux ||| wd (2 ^ 19) } else f))

/-- XMOVE begins. -/
def beginMove (s : State) (k : Nat) (j : Job) : State :=
  match moveFlt s k j with
  | some f => jobFlt s k j f
  | none =>
    if moveEmpty j then putJob s k { j with begun := true, spent := true }
    else match markFoot s k j.wr with
      | (s1, some f) => jobFlt s1 k j f
      | (s1, none) => putJob s1 k { j with begun := true }

/-- The node that the destination of a chunk lies on, with the offset in its slice. -/
def nodeOf (l : List (List Acc)) : Option (Nat × Nat) :=
  match l.head?.bind (·.head?) with
  | some a => match a.loc with
    | .fabric n o => some (n, o)
    | _ => none
  | none => none

/-- The chunk `n` bytes long of a move is done. -/
def moveDone (j : Job) (n : Nat) (acks : List (Nat × Nat)) : Job :=
  { j with done := j.done + n, acks := j.acks ++ acks, buf := [], todo := [], puts := [], spent := decide (mvRows j * mvRowb j ≤ j.done + n) }

/-- The next granule of a chunk `n` bytes long, its bytes all here, is written; the last one ends the chunk. -/
def writeItem (s : State) (k : Nat) (j : Job) (n : Nat) : State :=
  let puts := if j.puts.isEmpty then offsets 64 (n / 64) else j.puts
  let o := pickOf s.ticks puts
  let s1 := applyPart s k (deal (j.wacc.getD (o / 64) []) ((j.buf.drop o).take 64))
  let j1 := if (puts.erase o).isEmpty then moveDone j n [] else { j with puts := puts.erase o }
  { putJob s1 k j1 with ticks := s.ticks + 1 }

/-- The checks of both sides of a chunk before any byte of it is read or written (R383, R361), once for the chunk (R426): the command with the accesses
that they found. -/
def checkMove (s : State) (k : Nat) (j : Job) (sa da : Word) (n : Nat) : State × Res Job :=
  if !j.buf.isEmpty || j.asked then (s, .ok j)
  else
    let a := checkRun s k (rdFoot j) 64 64 false true true (runAddrs sa 64 (n / 64))
    let b := checkRun a.1 k (wrFoot j) 64 64 true true true (runAddrs da 64 (n / 64))
    (b.1, joinRes (fun p q => { j with racc := p.map (·.accs), wacc := q.map (·.accs) }) a.2 b.2)

/-- One part of a chunk of XMOVE, up to 4 KiB of one row: a granule read, or once all are here one written; or the packet that takes the
chunk to another node. -/
def moveChunk (s : State) (k : Nat) (j : Job) : State :=
  let row := j.done / mvRowb j
  let q := j.done % mvRowb j
  let sa := j.a + wd row * mvSstride j + wd q
  let da := j.b + wd row * mvDstride j + wd q
  let n := min (min 4096 (mvRowb j - q)) (2 ^ 30 - da.toNat % 2 ^ 30)
  match checkMove s k j sa da n with
  | (s0, .flt f) => jobFlt s0 k j f
  | (s0, .ok i) =>
    match gatherFrom s0 k i 64 i.racc (runAddrs sa 64 (n / 64)) with
    | .flt s1 f => jobFlt s1 k j f
    | .wait s1 => s1
    | .ready s1 b =>
      match nodeOf i.wacc with
      | some (m, o) =>
        if canSend s1 m then
          let seq := (s1.conn m).send
          putJob (sendNow s1 (plainPacket 0 m (wd o) 0 b) none (some (k, j.dpos))) k (moveDone i n [(m, seq)])
        else putJob s1 k (i.filled b)
      | none => writeItem s1 k (i.filled b) n

/-! XSCAT (R295). -/

/-- COUNT. -/
def scCount (j : Job) : Nat := bits j.c 0 32
/-- TYPE. -/
def scType (j : Job) : Nat := bits j.c 35 4
/-- OP. -/
def scOpOf (j : Job) : Nat := bits j.c 32 3

/-- Where the target base lies: a home with the end of its store, or an offset of a node's slice with the end of its cell store. -/
def scBase (q : Chkd) : Option (Loc × Nat) :=
  match q.accs with
  | [a] => match a.loc with
    | .home h => if isDram h then none else if h < 2 ^ 61 then some (a.loc, (h / 2 ^ 21 + 1) * 2 ^ 21)
        else if h < 2 ^ 62 then some (a.loc, (h / 2 ^ 23 + 1) * 2 ^ 23) else none
    | .fabric _ o => some (a.loc, (o / 2 ^ 21 + 1) * 2 ^ 21)
    | _ => none
  | _ => none

/-- The target base, checked: its address, then its level, at which no paged address lies, so that none is translated (R382, R361). -/
def scTarget (s : State) (k : Nat) (j : Job) : State × Res (Loc × Nat) :=
  let w := scWidth (scType j)
  if paged j.b then (s, .flt { cls := 6, code := (formCode j.b w w).getD 4, addr := j.b, aux := accAux true true w })
  else match checkAccess s (.agent k .X) .X j.b w w true true with
  | (s1, .flt f) => (s1, .flt f)
  | (s1, .ok q) => match scBase q with
    | some p => (s1, .ok p)
    | none => (s1, .flt { cls := 6, code := 4, addr := j.b, aux := accAux true true w })

/-- XSCAT begins. -/
def beginScat (s : State) (k : Nat) (j : Job) : State :=
  match firstBad [bad (bits j.c 40 24 != 0 || !scPair (scOpOf j) (scType j)) (valueFlt j.c), alignFlt j.a 16 16 false true] with
  | some f => jobFlt s k j f
  | none => match scTarget s k j with
    | (s1, .flt f) => jobFlt s1 k j f
    | (s1, .ok _) => putJob s1 k { j with begun := true, spent := decide (scCount j = 0) }

/-- The target offset of an element from its record. -/
def recIdx (b : List Byte) : Nat := leNat (b.take 4)

/-- The fault of one element: its zero bytes, its target's store, the footprint. -/
def elemFlt (s : State) (k : Nat) (j : Job) (room : Nat) (b : List Byte) : Option Flt :=
  let w := scWidth (scType j)
  let va := j.b + wd (w * recIdx b)
  let range := fun code => ({ cls := 6, code := code, addr := va, aux := accAux true true w : Flt })
  firstBad
    [ bad ((b.drop 4).take 4 != [0, 0, 0, 0] || (b.drop (8 + w)).any (· != 0)) (valueFlt j.c)
    , bad (room < w * recIdx b + w) (range 4)
    , bad (!inFoot s k j.wr va w) (range 5) ]

/-- A submission as a packet's data is given to the engine: records of 16 bytes, with the control word of R295. -/
def scElems (base : Nat) (ctl : Word) (recs : List (List Byte)) : List Elem :=
  let ty := bits ctl 35 4
  recs.map (fun b => ⟨base + scWidth ty * recIdx b, bits ctl 32 3, ty, wd (leNat ((b.drop 8).take (scWidth ty)))⟩)

/-- Bytes cut into records of 16. -/
def recsOf (b : List Byte) : List (List Byte) := (List.range (b.length / 16)).map (fun i => (b.drop (16 * i)).take 16)

/-- The elements of a submission are handed over. -/
def scatDone (j : Job) (n : Nat) (acks tickets : List (Nat × Nat)) : Job :=
  { j with done := j.done + n, acks := j.acks ++ acks, tickets := j.tickets ++ tickets, buf := [], todo := [], spent := decide (scCount j ≤ j.done + n) }

/-- The engine's cluster of a scratchpad home. -/
def engineOfHome (h : Nat) : Nat := if h < 2 ^ 61 then clusterOf ((h - 2 ^ 60) / 2 ^ 21) else (h - 2 ^ 61) / 2 ^ 23

/-- The fault of several that R361 names first, of two alike the earlier. -/
def firstOf (l : List Flt) : Option Flt :=
  match l with
  | [] => none
  | f :: r => some ((firstOf r).elim f (firstFlt f))

/-- One submission of up to 64 elements. A packet that takes it to another node has the number of its own elements in the place of COUNT in the
control word that AUX carries: R326 does not say which number stands there (log 66, DESIGN CHOICE). -/
def scatChunk (s : State) (k : Nat) (j : Job) : State :=
  let n := min 64 (scCount j - j.done)
  match scTarget s k j with
  | (s0, .flt f) => jobFlt s0 k j f
  | (s0, .ok (loc, top)) =>
    match gather s0 k j (rdFoot j) 16 16 false (runAddrs (j.a + wd (16 * j.done)) 16 n) with
    | .flt s1 f => jobFlt s1 k j f
    | .wait s1 => s1
    | .ready s1 b =>
      let recs := recsOf b
      let o := match loc with | .home h => h | .fabric _ p => p | _ => 0
      match firstOf (recs.filterMap (elemFlt s1 k j (top - o))) with
      | some f => jobFlt s1 k j f
      | none =>
        match loc with
        | .fabric m p =>
          let ord := bit j.c 39
          let pkt := plainPacket 2 m (wd p) (setBits j.c 0 32 n) b
          if !canSend s1 m || (ord && !canStamp s1) then s1
          else
            let seq := (s1.conn m).send
            let tag := some (k, j.dpos)
            let s2 := if ord then { sendOrdered s1 pkt s1.podtime s1.oseq none tag with oseq := s1.oseq + 1 } else sendNow s1 pkt none tag
            putJob s2 k (scatDone (j.filled b) n [(m, seq)] [])
        | _ =>
          let l := engineOfHome o
          let e := scEnter s1 l (scElems o j.c recs) none
          putJob e.1 k (scatDone (j.filled b) n [] [(l, e.2)])

/-! Messages (R302 to R304). -/

/-- A packet of a command is sent; an ordered one bears the message's stamp and sequence. The second part is its CSEQ. -/
def sendFor (s : State) (k : Nat) (j : Job) (p : Packet) : State × (Nat × Nat) :=
  let seq := (s.conn p.dst).send
  let tag := some (k, j.dpos)
  (match j.stamp with
    | some t => sendOrdered s p t j.oseq none tag
    | none => sendNow s p none tag, (p.dst, seq))

/-- The first injection of an ordered message takes the stamp and the node's next sequence (R303). -/
def stampJob (s : State) (j : Job) : State × Job :=
  match j.stamp with
  | some _ => (s, j)
  | none => ({ s with oseq := s.oseq + 1 }, { j with stamp := some s.podtime, oseq := s.oseq })

/-- LEN. -/
def sendLen (j : Job) : Nat := bits j.c 0 32
/-- NEV. -/
def sendNev (j : Job) : Bool := bit j.c 32
/-- CNT. -/
def sendCnt (j : Job) : Nat := bits j.d 60 3
/-- Node i of the list. -/
def sendNode (j : Job) (i : Nat) : Nat := bits j.d (12 * i) 12

/-- A node above the largest one (R452 code 0x03). -/
def nodeFlt (s : State) (n pos : Nat) : Option Flt := bad (s.flash.maxNode < n) { cls := 0xC, code := 3, addr := wd n, aux := wd pos }

/-- What XSEND's values forbid (R302, R402, R452). Bit 63 of g(gD) lies in no field of R302; that a 1 there is refused is a DESIGN CHOICE (log 66). -/
def sendFlt (s : State) (j : Job) : Option Flt :=
  let cnt := sendCnt j
  firstBad
    ([ bad (bits j.b 30 34 != 0 || j.b.toNat % 64 != 0) (valueFlt j.b)
     , bad (bits j.c 33 15 != 0 || sendLen j % 64 != 0) (valueFlt j.c)
     , bad (cnt = 0 || 5 < cnt || bit j.d 63 || bits j.d (12 * cnt) (60 - 12 * cnt) != 0) (valueFlt j.d)
     , alignFlt j.a 64 64 false true ]
      ++ (List.range cnt).map (fun i => nodeFlt s (sendNode j i) i))

/-- XSEND or XSENDO begins; LEN 0 without an event sends nothing. -/
def beginSend (s : State) (k : Nat) (j : Job) : State :=
  match sendFlt s j with
  | some f => jobFlt s k j f
  | none => putJob s k { j with begun := true, spent := decide (sendLen j = 0) && !sendNev j }

/-- One packet to the next node of the list. -/
def sendChunk (s : State) (k : Nat) (j : Job) (ord : Bool) : State :=
  let n := min 4096 (sendLen j - j.done)
  let last := decide (sendLen j ≤ j.done + n)
  let node := sendNode j j.sub
  match gather s k j (rdFoot j) 64 64 false (runAddrs (j.a + wd j.done) 64 (n / 64)) with
  | .flt s1 f => jobFlt s1 k j f
  | .wait s1 => s1
  | .ready s1 b =>
    if !canSend s1 node || (ord && j.stamp.isNone && !canStamp s1) then s1
    else
      let ev := last && sendNev j
      let t := if ord then stampJob s1 (j.filled b) else (s1, (j.filled b))
      let r := sendFor t.1 k t.2 (plainPacket (if ev then 1 else 0) node (j.b + wd j.done) (if ev then wd (bits j.c 48 16) else 0) b)
      let all := decide (sendCnt j ≤ j.sub + 1)
      putJob r.1 k { t.2 with
        acks := t.2.acks ++ [r.2], sub := if all then 0 else j.sub + 1, done := if all then j.done + n else j.done
        buf := if all then [] else b, todo := [], spent := all && last, stamp := if all && last then none else t.2.stamp }

/-- The bytes of an element of a descriptor's TYPE. -/
def redWidth (ty : Nat) : Nat := if ty = 3 then 8 else if ty = 4 then 2 else 4

/-- A descriptor, or a contribution of `n` bytes at offset `o`, that R452 code 0x04 refuses. -/
def badReduce (l : List Byte) (o n : Nat) : Bool :=
  let size := (wordAt l 8).toNat
  let nres := bits (wordAt l 0x20) 60 4
  let w := redWidth (redType l)
  ([ 5 ≤ redType l, redOp l = 3, bits (wordAt l 0) 32 13 = 0, nres = 0, 5 < nres, size = 0, size % 64 != 0, 2 ^ 20 < size
  , size < o + n, o % w != 0, n % w != 0 ] : List Bool).any id

/-- The fault of a contribution to the aperture address `va`; the code of its cause is a free value (log 33). -/
def redFlt (s : State) (k : Nat) (va : Word) (n : Nat) : Option Flt :=
  let range := fun code => ({ cls := 6, code := code, addr := va, aux := accAux true true 64 } : Flt)
  if paged va then some (range ((formCode va 1 1).getD 4))
  else match checkAccess s (.agent k .X) .X va 1 1 true true with
  | (_, .flt f) => some f
  | (_, .ok q) => match q.accs with
    | [⟨.reduce d o, _, _, _, _⟩] => bad (badReduce (redDesc s d) o n) { cls := 0xC, code := 4, addr := wd d, aux := (Config.freeVec s.ticks).setWidth 64 }
    | _ => some (range 4)

/-- XRED begins. -/
def beginRed (s : State) (k : Nat) (j : Job) : State :=
  match firstBad [bad (bits j.c 32 32 != 0 || sendLen j % 64 != 0) (valueFlt j.c), alignFlt j.a 64 64 false true, redFlt s k j.b (sendLen j)] with
  | some f => jobFlt { s with ticks := s.ticks + 1 } k j f
  | none => putJob s k { j with begun := true, spent := decide (sendLen j = 0) }

/-- The descriptor and the offset of an aperture address. -/
def aperture (va : Word) : Nat × Nat := (bits va 24 8, bits va 0 24)

/-- One packet of XRED's contribution. -/
def redChunk (s : State) (k : Nat) (j : Job) : State :=
  let n := min 4096 (sendLen j - j.done)
  let last := decide (sendLen j ≤ j.done + n)
  match gather s k j (rdFoot j) 64 64 false (runAddrs (j.a + wd j.done) 64 (n / 64)) with
  | .flt s1 f => jobFlt s1 k j f
  | .wait s1 => s1
  | .ready s1 b =>
    let p := contribution s1 (aperture j.b).1 ((aperture j.b).2 + j.done) b
    if !canSend s1 p.dst || (j.stamp.isNone && !canStamp s1) then s1
    else
      let t := stampJob s1 (j.filled b)
      let r := sendFor t.1 k t.2 p
      putJob r.1 k { t.2 with acks := t.2.acks ++ [r.2], done := j.done + n, buf := [], todo := [], spent := last, stamp := if last then none else t.2.stamp }

/-! Collectives (R305, R306). -/

/-- CLASS of a record. -/
def coClass (l : List Byte) : Nat := bits (wordAt l 0x10) 37 2
/-- LEVELS. -/
def coLevels (l : List Byte) : Nat := bits (wordAt l 0x10) 34 3
/-- CHUNK. -/
def coChunk (l : List Byte) : Nat := bits (wordAt l 0x10) 0 32
/-- ONESTAMP. -/
def coOne (l : List Byte) : Bool := bit (wordAt l 0x10) 39 && coClass l = 1
/-- BOUNDj. -/
def coBound (l : List Byte) (i : Nat) : Nat := bits (wordAt l (0x20 + 16 * i)) 0 32
/-- PEERMULj. -/
def coMul (l : List Byte) (i : Nat) : Int := (BitVec.ofNat 16 (bits (wordAt l (0x20 + 16 * i)) 32 16)).toInt
/-- DSTRIDEj or SSTRIDEj. -/
def coStride (l : List Byte) (i lo : Nat) : Word := (BitVec.ofNat 32 (bits (wordAt l (0x28 + 16 * i)) lo 32)).signExtend 64
/-- The transfers of a record. -/
def coTotal (l : List Byte) : Nat := ((List.range (coLevels l)).map (coBound l)).foldl (· * ·) 1

/-- The indices of iteration `n`, from level `i` - 1 down: the last level is fastest (R49). -/
def coIdx (l : List Byte) (i n : Nat) : List (Nat × Nat) :=
  match i with
  | 0 => []
  | k + 1 => let b := max 1 (coBound l k); (k, n % b) :: coIdx l k (n / b)

/-- The source, destination and peer of transfer `n`. -/
def coTransfer (l : List Byte) (n : Nat) : Word × Word × Nat :=
  let x := coIdx l (coLevels l) n
  let w := wordAt l 0x18
  (x.foldl (fun t p => t + wd p.2 * coStride l p.1 0) (wordAt l 0), x.foldl (fun t p => t + wd p.2 * coStride l p.1 32) (wordAt l 8),
    ((x.foldl (fun t p => t + p.2 * coMul l p.1) (bits w 0 12 : Int)) % (bits w 16 13 : Int)).toNat)

/-- What the values of a record forbid (R402); AUX2 is g(gA). -/
def coFlt (j : Job) (l : List Byte) : Option Flt :=
  let pm := bits (wordAt l 0x18) 16 13
  bad (coClass l = 3 || coLevels l = 0 || 6 < coLevels l || pm = 0 || 4096 < pm || coChunk l % 64 != 0) (valueFlt j.a)

/-- What one transfer's peer, destination and source forbid. -/
def transferFlt (s : State) (k : Nat) (j : Job) (x : Word × Word × Nat) : Option Flt :=
  if coClass j.record = 2 then (alignFlt x.1 64 64 false true).orElse (fun _ => redFlt s k x.2.1 (coChunk j.record))
  else firstBad [bad (bits x.2.1 30 34 != 0 || x.2.1.toNat % 64 != 0) (valueFlt x.2.1), alignFlt x.1 64 64 false true, nodeFlt s x.2.2 j.done]

/-- A transfer is emitted: the next one takes a stamp of its own, but under ONESTAMP. -/
def nextTransfer (j : Job) : Job :=
  let spent := decide (coTotal j.record ≤ j.done + 1)
  { j with done := j.done + 1, sub := 0, buf := [], todo := [], spent := spent, stamp := if coOne j.record && !spent then j.stamp else none }

/-- A transfer after the first of ONESTAMP takes a sequence of its own. -/
def sequence (s : State) (j : Job) : State × Job :=
  if j.stamp.isSome && j.sub = 0 then ({ s with oseq := s.oseq + 1 }, { j with oseq := s.oseq }) else stampJob s j

/-- The checks of a transfer before any packet of it is sent (R310, R383): the command with the accesses of all its source bytes. -/
def checkTransfer (s : State) (k : Nat) (j : Job) (x : Word × Word × Nat) : State × Res Job :=
  if j.sub != 0 || j.asked || !j.buf.isEmpty then (s, .ok j)
  else match transferFlt s k j x with
    | some f => ({ s with ticks := s.ticks + 1 }, .flt f)
    | none =>
      let a := checkRun s k (rdFoot j) 64 64 false true false (runAddrs x.1 64 (coChunk j.record / 64))
      (a.1, joinRes (fun p _ => { j with racc := p.map (·.accs) }) a.2 (.ok ()))

/-- One packet of a collective's present transfer. -/
def coPacket (s : State) (k : Nat) (j0 : Job) : State :=
  let x := coTransfer j0.record j0.done
  let n := min 4096 (coChunk j0.record - j0.sub)
  match checkTransfer s k j0 x with
  | (s0, .flt f) => jobFlt s0 k j0 f
  | (s0, .ok j) =>
    match gatherFrom s0 k j 64 (j.racc.drop (j.sub / 64)) (runAddrs (x.1 + wd j.sub) 64 (n / 64)) with
    | .flt s1 f => jobFlt s1 k j f
    | .wait s1 => s1
    | .ready s1 b =>
      let p := if coClass j.record = 2 then contribution s1 (aperture x.2.1).1 ((aperture x.2.1).2 + j.sub) b
        else plainPacket 0 x.2.2 (x.2.1 + wd j.sub) 0 b
      let ord := coClass j.record != 0
      if !canSend s1 p.dst || (ord && j.sub = 0 && !canStamp s1) then s1
      else
        let t := if ord then sequence s1 (j.filled b) else (s1, (j.filled b))
        let r := sendFor t.1 k t.2 p
        let j1 := { t.2 with acks := t.2.acks ++ [r.2], sub := j.sub + n, buf := [], todo := [] }
        putJob r.1 k (if coChunk j.record ≤ j.sub + n then nextTransfer j1 else j1)

/-- XCOLL is accepted: its record, which lies in no footprint, is read and its values are checked before it begins (R306). -/
def beginColl (s : State) (k : Nat) (j : Job) : State :=
  match alignFlt j.a 128 128 false true with
  | some f => jobFlt s k j f
  | none => match gather s k j none 64 64 false (runAddrs j.a 64 2) with
    | .flt s1 f => jobFlt s1 k j f
    | .wait s1 => s1
    | .ready s1 b => match coFlt j b with
      | some f => jobFlt s1 k j f
      | none => putJob s1 k { j with begun := true, buf := [], todo := [], record := b, spent := coTotal b = 0 || coChunk b = 0 }

/-! Prefetch (R84). -/

/-- The streams of virtual addresses that a command walks: the bytes of a row, where row `n` starts, the row it has come to, the number of rows. -/
def jobStreams (j : Job) : List (Nat × (Nat → Word) × Nat × Nat) :=
  let move := [(mvRowb j, fun n => j.a + wd n * mvSstride j, j.done / mvRowb j, mvRows j), (mvRowb j, fun n => j.b + wd n * mvDstride j, j.done / mvRowb j, mvRows j)]
  match j.word with
  | .xmove .. => move
  | .xmoveExt .. => move
  | .xcoll .. => [(coChunk j.record, fun n => (coTransfer j.record n).1, j.done, coTotal j.record)]
  | _ => []

/-- A translation covers an address. -/
def Trans.covers (t : Trans) (va : Nat) : Bool := decide (t.base ≤ va) && decide (va < t.base + t.size)

/-- The address at which a stream that stands in a page first leaves it: at the end of the page within a row, or with a later row. -/
def leavesAt (t : Trans) (q : Nat × (Nat → Word) × Nat × Nat) : Option Nat :=
  if !t.covers (q.2.1 q.2.2.1).toNat then none
  else (List.range (q.2.2.2 - q.2.2.1)).findSome? (fun i =>
    let va := (q.2.1 (q.2.2.1 + i)).toNat
    if !t.covers va then some va else if t.base + t.size < va + q.1 then some (t.base + t.size) else none)

/-- The next page of the stream that last reached a page of a stream TLB: where a command of X that has begun leaves the page, else the page above. -/
def nextPage (x : Cell) (e : Engine) (t : Trans) : Nat :=
  let jobs := if e = .X then x.jobs.filter (·.begun) else []
  ((jobs.flatMap jobStreams).findSome? (leavesAt t)).getD (t.base + t.size)

/-- R84 STREAM_TLB_PREFETCH: the stream TLB of engine `e` asks for the next page of the stream that reached the page it entered last; an absent
page is discarded. -/
def execStreamTlbPrefetch (c e : Nat) (s : State) : Out :=
  if 512 ≤ c || e = 0 || 4 ≤ e then .next s
  else
    let who := Actor.agent c (engineOf e)
    match (tlbOf s who (engineOf e)).getLast? with
    | none => .next s
    | some t =>
      let v := nextPage (s.cell c) (engineOf e) t
      if 2 ^ 56 ≤ v || (tlbFind (tlbOf s who (engineOf e)) v).isSome then .next s
      else .next (translate s who (engineOf e) v).1

/-! Queues, arrivals and keys (R299 to R301, R307 to R309, R451). -/

/-- The tile's queue has every key (R307). -/
def fullKeys (s : State) (k : Nat) : Bool :=
  match (s.cell k).tile with
  | none => false
  | some t => let w := Tab.get 0 (s.die t.die).qkey t.queue; bits w 0 10 = 0 && bits w 16 10 = 1023

/-- A refusal of XKEYLD or XKEYSW (R451, R452). -/
def keyFlt (j : Job) (code slot : Nat) (v : Word) : Flt := { cls := 0xC, code := code, addr := j.a, aux := wd slot, aux2 := v }

/-- The port is not one that is fitted. -/
def noPort (s : State) (p : Nat) : Bool := 18 ≤ p || s.flash.fitted.toNat / 2 ^ p % 2 = 0

/-- What XKEYLD's values forbid; either direction of the port may use a slot (R451). While an XKEYSW of the port is under way both slots count as in use,
a DESIGN CHOICE (log 66). -/
def keyldFlt (s : State) (k : Nat) (j : Job) : Option Flt :=
  let p := s.port j.a.toNat
  firstBad
    [ alignFlt j.b 64 64 false false
    , bad (!fullKeys s k) (keyFlt j 1 j.c.toNat j.a)
    , bad (noPort s j.a.toNat) (keyFlt j 2 j.c.toNat j.a)
    , bad (1 < j.c.toNat || p.txs = j.c.toNat || p.rxs = j.c.toNat || p.switching.isSome) (keyFlt j 2 j.c.toNat j.c) ]

/-- The slot is loaded: key, salt and KID of the block, its counters 0 (R308). -/
def loadSlot (s : State) (p slot : Nat) (b : List Byte) : State :=
  let x := s.port p
  let k : LinkKey := ⟨BitVec.ofNat 256 (leNat (b.take 32)), BitVec.ofNat 32 (leNat ((b.drop 32).take 4)), BitVec.ofNat 32 (leNat ((b.drop 36).take 4)), true, 0, 0, false⟩
  s.setPort p { x with keys := Tab.set x.keys slot k }

/-- XKEYLD reads its block and loads the slot. -/
def keyldChunk (s : State) (k : Nat) (j : Job) : State :=
  match gather s k j (rdFoot j) 64 64 false [j.b] with
  | .flt s1 f => jobFlt s1 k j f
  | .wait s1 => s1
  | .ready s1 b =>
    if (b.drop 40).any (· != 0) then jobFlt s1 k j (keyFlt j 2 j.c.toNat j.b)
    else putJob (loadSlot s1 j.a.toNat j.c.toNat b) k { j with buf := [], todo := [], spent := true }

/-- XKEYSW starts its switch-over once an earlier one of the port has completed. -/
def beginKeysw (s : State) (k : Nat) (j : Job) : State :=
  let x := s.port j.a.toNat
  match firstBad [bad (!fullKeys s k) (keyFlt j 1 (1 - x.txs) j.a), bad (noPort s j.a.toNat) (keyFlt j 2 (1 - x.txs) j.a)] with
  | some f => jobFlt s k j f
  | none =>
    if x.switching.isSome then s
    else if (Tab.get LinkKey.reset x.keys (1 - x.txs)).sealed then jobFlt s k j (keyFlt j 2 (1 - x.txs) j.a)
    else putJob (s.setPort j.a.toNat { x with switching := some (k, j.dpos), ahead := x.txq.length, mark := none }) k { j with begun := true }

/-- XSUBMIT begins. -/
def beginSubmit (s : State) (k : Nat) (j : Job) : State :=
  let d := bits j.a 6 2
  let q := bits j.a 0 6
  let n := j.c.toNat
  match firstBad
    [ bad (bits j.a 8 56 != 0) (valueFlt j.a), alignFlt j.b 128 128 false false
    , bad (n = 0 || qsize (s.die d) q ≤ n) { cls := 0xF, code := 3, addr := Tab.get 0 (s.die d).qbase q, aux := wd q } ] with
  | some f => jobFlt s k j f
  | none => putJob s k { j with begun := true }

/-- The scheduler of die `d` writes at an address of its ring; none where it cannot (log 34). -/
def ringWrite (s : State) (d : Nat) (va : Word) (b : List Byte) : Option State :=
  match checkAccess s (.ik d) .S va b.length b.length true false with
  | (s1, .ok q) => if q.accs.all (fun a => match a.loc with | .home _ => true | _ => false) then
      some ((deal q.accs b).foldl (fun t p => applyAcc t 0 p) (markDirty s1 q.leaf)) else none
  | _ => none

/-- The records of a route in the ring from index `i` on. -/
def ringRecords (s : State) (d n i : Nat) (l : List (List Byte)) : Option State :=
  match l with
  | [] => some s
  | b :: r =>
    let x := s.die d
    (ringWrite s d (Tab.get 0 x.qbase n + wd (128 * (i % qsize x n))) b).bind (fun s1 => ringRecords s1 d n (i + 1) r)

/-- Bytes cut into records of 128. -/
def recs128 (b : List Byte) : List (List Byte) := (List.range (b.length / 128)).map (fun i => (b.drop (128 * i)).take 128)

/-- XSUBMIT waits for room in the ring; then its records are read, and the scheduler takes them and the new tail in one update (R300). A ring that others
have filled while records came from another node is waited for again. -/
def submitChunk (s : State) (k : Nat) (j : Job) : State :=
  let d := bits j.a 6 2
  let q := bits j.a 0 6
  let full := fun (t : State) => decide (qfree (t.die d) q < j.c.toNat)
  if full s && j.buf.isEmpty then s
  else match gather s k j (rdFoot j) 64 64 false (runAddrs j.b 64 (2 * j.c.toNat)) with
    | .flt s1 f => jobFlt s1 k j f
    | .wait s1 => s1
    | .ready s1 b =>
      if full s1 then putJob s1 k { j with buf := [], todo := [] }
      else match ringRecords s1 d q (qtail (s1.die d) q) (recs128 b) with
        | none => s1
        | some s2 =>
          let y := s2.die d
          putJob (s2.setDie d { y with qtail := Tab.set y.qtail q (wd ((qtail (s1.die d) q + j.c.toNat) % qsize (s1.die d) q)) }) k
            { j with spent := true, buf := [], todo := [] }

/-- XARRIVE begins: the arrival goes to the scheduler of a die here, or as a TYPE 5 packet to its node. -/
def beginArrive (s : State) (k : Nat) (j : Job) : State :=
  let node := bits j.a 0 12
  match firstBad [bad (bits j.a 36 28 != 0) (valueFlt j.a), nodeFlt s node 0] with
  | some f => jobFlt s k j f
  | none =>
    if node = selfNode s then
      let d := bits j.a 12 2
      let x := s.die d
      putJob (s.setDie d { x with arrivals := x.arrivals ++ [⟨bits j.a 14 6, bits j.a 20 16, j.b.toNat, node, some (k, j.dpos)⟩] }) k { j with begun := true }
    else if canSend s node then
      let seq := (s.conn node).send
      putJob (sendNow s (plainPacket 5 node j.b j.a []) none (some (k, j.dpos))) k { j with begun := true, acks := [(node, seq)], reached := true }
    else s

/-! Barriers (R296, R395). -/

/-- The XBARs of a level that a cell has begun. -/
def barCount (x : Cell) (l : Nat) : Nat := Tab.get 0 x.xbar l

/-- A crew whose agents have all passed HALT, with no command left: its tile has ended. -/
def crewDone (x : Cell) : Bool := [Engine.S, .V, .M, .X].all (fun e => (x.agent e).halted) && x.jobs.isEmpty

/-- A crew of the gang has ended with fewer XBARs of a level than a waiting one has begun. -/
def barBroken (s : State) (g : Gang) (j : Job) (l : Nat) : Bool := g.cells.any (fun c => crewDone (s.cell c) && barCount (s.cell c) l < j.done)

/-- The XBAR that a cell waits at: its command and level. -/
def waitsBar (x : Cell) : Option (Job × Nat) :=
  x.jobs.findSome? (fun j => match j.word with | .xbar _ l => if j.begun then some (j, l.toNat) else none | _ => none)

/-- Every crew that waits at a barrier which can never complete reports it (R395): DLV 0 and RST 0. -/
def breakBars (s : State) (g : Gang) : State :=
  g.cells.foldl (fun t c => match waitsBar (t.cell c) with
    | some (j, l) => if barBroken t g j l then
        raise t c .X { cls := 0xF, code := 4, aux := wd l, aux2 := wd j.done, rst := false } j.pc j.dpos else t
    | none => t) s

/-- The barrier of a command is complete: every crew of the gang has reached it. -/
def barMet (s : State) (k : Nat) (j : Job) (l : Nat) : Bool :=
  l = 0 || (match gangOf s k with | some g => g.cells.all (fun c => decide (j.done ≤ barCount (s.cell c) l)) | none => false)

/-- The XBARs of this level and count in the gang's crews are complete: their commands leave the table (R296). -/
def endBars (s : State) (g : Gang) (l n : Nat) : State :=
  g.cells.foldl (fun t c => match waitsBar (t.cell c) with
    | some (q, m) => if m = l && q.done = n then endJob t c q.dpos else t
    | none => t) s

/-- XBAR begins: its crew has reached the barrier, which completes for every crew as the last one reaches it (R296). -/
def beginBar (s : State) (k : Nat) (j : Job) (l : Nat) : State :=
  match gangOf s k with
  | none => s
  | some g =>
    if g.kind < l then jobFlt s k j { cls := 1, code := 0x11, aux2 := wd g.kind }
    else
      let x := s.cell k
      let n := barCount x l + 1
      let j1 := { j with begun := true, done := n }
      let s1 := putJob (s.setCell k { x with xbar := Tab.set x.xbar l n }) k j1
      if l = 0 then endJob s1 k j.dpos
      else if barMet s1 k j1 l then endBars s1 g l n
      else breakBars s1 g

/-! Beginning (R164, R290, R291). -/

/-- The scope of a synchronising word. -/
def syncScope (s : State) (j : Job) : Nat :=
  match j.word with
  | .xbar _ l => l.toNat
  | .xarrive _ _ _ => if bits j.a 0 12 = selfNode s then 3 else 4
  | _ => 3

/-- Every access of S and V from before a position satisfies a FENCE at a scope (R153, R154, R290): a posted write has applied once its acknowledgement has
returned. -/
def fenceMet (s : State) (k sc pos : Nat) : Bool :=
  let x := s.cell k
  !x.loads.any (fun l => decide (l.dpos < pos))
    && !x.stores.any (fun q => decide (q.dpos < pos) && (q.blind || q.parts.any (fun g => g.any (fun p => inScope s k sc p.1))))

/-- S and V have passed a position, and every access of theirs from before it satisfies a FENCE at a scope (R154, R290). -/
def svFenced (s : State) (k sc pos : Nat) : Bool :=
  let x := s.cell k
  decide (pos < (x.agent .S).dpos) && decide (pos < (x.agent .V).dpos) && fenceMet s k sc pos

/-- The steps of a cell's M agent. -/
def cellSteps (s : State) (k : Nat) : List MStep := stepsOf (s.cluster (clusterOf k)) k

/-- The memory that XCOLL's record lies in, outside every footprint (R306). -/
def recordRange (s : State) (k : Nat) (j : Job) : List Range :=
  match j.word with
  | .xcoll .. => fpRanges s k j.a 128
  | _ => []

/-- The range checker lets a command begin (R164), and no earlier wait or barrier holds it (R291); the cell's stores made before it issued have
applied wherever it goes (R148, R165). A step whose replay was stopped has not completed. -/
def mayBegin (s : State) (k : Nat) (j : Job) : Bool :=
  let x := s.cell k
  let f := jobFp s k j
  decide (j.dpos < (x.agent .M).dpos)
    && !x.jobs.any (fun q => q.dpos < j.dpos && (holdsLater q.word || conflict f (jobFp s k q)))
    && ((j.rd.isEmpty && j.wr.isEmpty)
      || (!(cellSteps s k).any (fun m => m.dpos < j.dpos && conflict f (stepFp s m)) && !x.saved.any (fun v => decide (v.dpos < j.dpos))))
    && !storeAhead s k j.seen (f.1 ++ f.2 ++ recordRange s k j)

/-- A synchronising word may begin (R290). -/
def syncReady (s : State) (k : Nat) (j : Job) : Bool :=
  let x := s.cell k
  svFenced s k (syncScope s j) j.dpos && !(cellSteps s k).any (fun m => m.dpos < j.dpos) && !x.saved.any (fun v => decide (v.dpos < j.dpos))
    && !x.jobs.any (fun q => q.dpos < j.dpos)

/-- An event word applies at the die and event that g(gA) names (R297). -/
def beginEvent (s : State) (k : Nat) (j : Job) (extra : Bool) (v : Word) (f : Nat → Nat → State) : State :=
  match firstBad [bad (bits j.a 18 46 != 0) (valueFlt j.a), bad extra (valueFlt v)] with
  | some e => jobFlt s k j e
  | none => f (bits j.a 16 2) (bits j.a 0 16)

/-- XEVWAIT begins: satisfied at once, or entered in a wait list. -/
def beginWait (s : State) (k : Nat) (j : Job) (d n : Nat) : State :=
  match eventWait s d n ⟨k, j.dpos, (s.cell k).tile⟩ with
  | .met => endJob s k j.dpos
  | .entered s1 => putJob s1 k { j with begun := true }
  | .later => s
  | .full => jobFlt s k j { cls := 0xF, code := 2, addr := wd (overflowBase s d), aux := wd n }
  | .asleep a => jobFlt s k j { cls := 6, code := 9, addr := wd a, aux := accAux true false 16 }

/-- A command begins. -/
def beginJob (s : State) (k : Nat) (j : Job) : State :=
  match j.word with
  | .xmove .. => beginMove s k j
  | .xmoveExt .. => beginMove s k j
  | .xfoot .. => endJob s k j.dpos
  | .xscat .. => beginScat s k j
  | .xbar _ l => beginBar s k j l.toNat
  | .xevset .. => beginEvent s k j (bits j.b 32 32 != 0) j.b (fun d n => endJob (eventSet s d n (j.b.setWidth 32)) k j.dpos)
  | .xevsig .. => beginEvent s k j false 0 (fun d n => endJob (eventSignal s d n) k j.dpos)
  | .xevwait .. => beginEvent s k j false 0 (fun d n => beginWait s k j d n)
  | .xtail .. =>
    if bits j.a 8 56 != 0 then jobFlt s k j (valueFlt j.a)
    else endJob (takeTail s (bits j.a 6 2) (bits j.a 0 6) (bits j.b 0 16) (agentNo k .X)) k j.dpos
  | .xsend .. => beginSend s k j
  | .xsendo .. => beginSend s k j
  | .xred .. => beginRed s k j
  | .xcoll .. => beginColl s k j
  | .xsubmit .. => beginSubmit s k j
  | .xarrive .. => beginArrive s k j
  | .xkeyld .. => match keyldFlt s k j with
    | some f => jobFlt s k j f
    | none => putJob s k { j with begun := true }
  | .xkeysw .. => beginKeysw s k j
  | _ => s

/-- R164, R290, R291 COMMAND_BEGIN: the command at position `i` of cell `c` begins. -/
def execCommandBegin (c i : Nat) (s : State) : Out :=
  match jobAt s c i with
  | none => .next s
  | some j =>
    if !active s c || j.begun || !mayBegin s c j || (isSync j.word && !syncReady s c j) then .next s else .next (beginJob s c j)

/-- A chunk of a command. -/
def chunkJob (s : State) (k : Nat) (j : Job) : State :=
  match j.word with
  | .xmove .. => moveChunk s k j
  | .xmoveExt .. => moveChunk s k j
  | .xscat .. => scatChunk s k j
  | .xsend .. => sendChunk s k j false
  | .xsendo .. => sendChunk s k j true
  | .xred .. => redChunk s k j
  | .xcoll .. => coPacket s k j
  | .xsubmit .. => submitChunk s k j
  | .xkeyld .. => keyldChunk s k j
  | _ => s

/-- R310 TRANSFER_CHUNK: the command at position `i` of cell `c` advances by its next chunk, or by the packet, the read or the wait
that the chunk comes to next. -/
def execTransferChunk (c i : Nat) (s : State) : Out :=
  match jobAt s c i with
  | none => .next s
  | some j => if j.begun && !j.spent && mayRun s c j then .next (chunkJob s c j) else .next s

/-! Completion (R289, R293). -/

/-- A command's signal at its own die's table: it takes effect once the earlier accesses of S and V satisfy a FENCE at module scope (R154). -/
def signalJob (s : State) (k : Nat) (j : Job) (n : Nat) : Option State :=
  if svFenced s k 3 j.dpos then some (eventSignal s (dieOf s k) n) else none

/-- The completion action of XMOVE; none while it must wait. -/
def completeMove (s : State) (k : Nat) (j : Job) : Option State :=
  if mvCpl j = 1 then signalJob s k j (mvEvn j)
  else if mvCpl j = 2 then
    let n := mvEvn j % 16
    let h := (s.cell k).chan n
    if 4 ≤ h.q.length || pendingBind h then none else some (addSlot s k n ⟨(s.cell k).nextId, some (j.kreg.setWidth 2048)⟩)
  else some s

/-- What a command does as it completes; none while it has not reached its completion point. -/
def completeJob (s : State) (k : Nat) (j : Job) : Option State :=
  let moved := j.spent && j.acks.isEmpty && j.tickets.isEmpty
  match j.word with
  | .xmove .. => if moved then completeMove s k j else none
  | .xmoveExt .. => if moved then completeMove s k j else none
  | .xcoll .. => if moved then (if bit (wordAt j.record 0x10) 40 then signalJob s k j (bits (wordAt j.record 0x10) 48 16) else some s) else none
  | .xbar _ l => if barMet s k j l.toNat then some s else none
  | .xevwait .. => if j.reached then some s else none
  | .xarrive .. => if j.reached && j.acks.isEmpty then some s else none
  | .xkeysw .. => if j.reached then some s else none
  | _ => if moved then some s else none

/-- R44, R289, R293 COMMAND_COMPLETE: the command at position `i` of cell `c` has reached its completion point; a completion action
runs first. A wait or barrier released in a halt completes on resumption (R298). -/
def execCommandComplete (c i : Nat) (s : State) : Out :=
  match jobAt s c i with
  | none => .next s
  | some j =>
    if !j.begun || j.lost || !(active s c || ((s.cell c).tile.isSome && (gangOf s c).isSome && !holdsLater j.word && !reported s c j)) then .next s
    else match completeJob s c j with
      | some s1 => .next (endJob s1 c i)
      | none => .next s

end Sys2Proof.Machine
end

