-- ==== Sys2Proof/Machine/Scheduler.lean ====
section
/-!
DEFINITION. The die scheduler (R45 to R61, R385, R395, R396, R398): loop-nest records, the walker, executors, the decision, tile ends,
ageing, tails and arrivals.
-/
namespace Sys2Proof.Machine

/-! Loop-nest records (R48, R49, R398). -/

/-- The word of fields at 0x10. -/
def rCtl (l : List Byte) : Word := wordAt l 0x10
/-- KIND. -/
def rKind (l : List Byte) : Nat := bits (rCtl l) 3 2
/-- LEVELS. -/
def rLevels (l : List Byte) : Nat := bits (rCtl l) 0 3
/-- CREWS. -/
def rCrews (l : List Byte) : Nat := bits (rCtl l) 5 3
/-- FIRSTCL. -/
def rFirst (l : List Byte) : Nat := bits (rCtl l) 8 8
/-- NCL. -/
def rNcl (l : List Byte) : Nat := bits (rCtl l) 16 8
/-- ARR. -/
def rArr (l : List Byte) : Bool := bit (rCtl l) 36
/-- NWAIT. -/
def rNwait (l : List Byte) : Nat := bits (wordAt l 0x18) 16 3
/-- BOUNDj. -/
def rBound (l : List Byte) (j : Nat) : Nat := leNat ((l.drop (0x20 + 4 * j)).take 4)
/-- WAITEVi. -/
def rWait (l : List Byte) (i : Nat) : Nat := leNat ((l.drop (0x60 + 2 * i)).take 2)
/-- The tiles of a stage; bounds of levels L and above are ignored. -/
def rTotal (l : List Byte) : Nat := ((List.range (min 6 (rLevels l))).map (rBound l)).foldl (· * ·) 1

/-- The offset of the first field that breaks a limit of R48 (R398). -/
def malformed (s : State) (d : Nat) (l : List Byte) : Option Nat :=
  let w := rCtl l
  if (wordAt l 0).toNat % 4 != 0 then some 0
  else if ([ bits w 37 27 != 0, rKind l = 3, rLevels l = 0, 6 < rLevels l, rNcl l = 0, 32 < rNcl l, dieClusters s d < rFirst l + rNcl l
      , rCrews l = 0, 4 < rCrews l, rKind l = 0 && rCrews l != 1 ] : List Bool).any id then some 0x10
  else if bits (wordAt l 0x18) 19 45 != 0 || 4 < rNwait l then some 0x18
  else if rArr l && bit (wordAt l 0x38) 0 then some 0x38
  else if ((l.drop 0x68).take 24).any (· != 0) then some 0x68
  else none

/-- The index vector of tile `t`, levels from `i` - 1 down. -/
def tileIdx (l : List Byte) (i t : Nat) : List (Nat × Nat) :=
  match i with
  | 0 => []
  | k + 1 => let b := max 1 (rBound l k); (k, t % b) :: tileIdx l k (t / b)

/-! What the scheduler reads (log 34). -/

/-- Bytes that the scheduler of die `d` reads; none where it cannot. -/
def ikRead (s : State) (d : Nat) (va : Word) (n al : Nat) : Option (List Byte) :=
  match (checkAccess s (.ik d) .S va n al false false).2 with
  | .ok q =>
    let parts := q.accs.map (fun a => match a.loc with
      | .home h => if poisoned s h a.len then none else some (readHome s h a.len a.key)
      | _ => none)
    if parts.all Option.isSome then some (parts.flatMap (fun p => p.getD [])) else none
  | .flt _ => none

/-- The hidden errors that a read of the scheduler meets (R429). -/
def exposeVa (s : State) (d : Nat) (va : Word) (n al : Nat) : State :=
  match (checkAccess s (.ik d) .S va n al false false).2 with
  | .ok q => q.accs.foldl (fun t a => match a.loc with | .home h => expose t h a.len | _ => t) s
  | .flt _ => s

/-- The ring address of index `i` of a queue. -/
def ringAddr (x : Die) (q i : Nat) : Word := Tab.get 0 x.qbase q + wd (128 * i)

/-- The record at index `i` of a queue. -/
def ringRecord (s : State) (d q i : Nat) : Option (List Byte) := ikRead s d (ringAddr (s.die d) q i) 128 128

/-- The head record of a queue that the die serves and that holds one. -/
def headRecord (s : State) (d q : Nat) : Option (List Byte) :=
  let x := s.die d
  if bit (qcfgOf x q) 7 && qcount x q != 0 then ringRecord s d q (qhead x q) else none

/-- The scheduler reads the head record of a queue that it serves. -/
def exposeHead (s : State) (d q : Nat) : State :=
  let x := s.die d
  if bit (qcfgOf x q) 7 && qcount x q != 0 then exposeVa s d (ringAddr x q (qhead x q)) 128 128 else s

/-! Eligibility and priority (R58, R60). -/

/-- Two declared ranges share a byte. -/
def declOverlap (l m : List Byte) (i j : Nat) : Bool :=
  overlap (wordAt l i).toNat (wordAt l (i + 8)).toNat (wordAt m j).toNat (wordAt m (j + 8)).toNat

/-- The declared ranges of two stages conflict. -/
def declConflict (l m : List Byte) : Bool := declOverlap l m 0x40 0x50 || declOverlap l m 0x50 0x40 || declOverlap l m 0x50 0x50

/-- The head record of a queue is eligible (R58). -/
def eligible (s : State) (d q : Nat) (l : List Byte) : Bool :=
  let x := s.die d
  if bit (qcfgOf x q) 8 then !x.stages.any (fun g => g.queue = q && declConflict l g.record)
  else (List.range (min 4 (rNwait l))).all (fun i => (x.event (rWait l i)).count = 0)

/-- The eligible head of a queue. -/
def eligibleHead (s : State) (d q : Nat) : Option (List Byte) := (headRecord s d q).filter (eligible s d q)

/-- PRIO. -/
def basePrio (x : Die) (q : Nat) : Nat := bits (qcfgOf x q) 0 3
/-- The effective priority of a queue. -/
def prioOf (x : Die) (q : Nat) : Nat := Tab.get (basePrio x q) x.prio q

/-- The cycles of an ageing step: AGEP × 256, AGEP 0 acting as 1. -/
def agePeriod (s : State) (d : Nat) : Nat := 256 * max 1 (bits (dreg s d 0x200) 0 16)

/-- The ageing of a queue (R60): the cycle in which its head becomes eligible is noted, and a head that is eligible no more is forgotten; for every period
that it has stayed eligible the effective priority, which keeps what it has reached, rises by 1 up to 7. -/
def ageQueue (s : State) (d q : Nat) : State :=
  let x := s.die d
  match eligibleHead s d q, Tab.look x.since q with
  | none, _ => s.setDie d { x with since := Tab.erase x.since q }
  | some _, none => s.setDie d { x with since := Tab.set x.since q (s.now, s.now) }
  | some _, some t =>
    if t.2 + agePeriod s d ≤ s.now && prioOf x q < 7 then
      s.setDie d { x with prio := Tab.set x.prio q (prioOf x q + 1), since := Tab.set x.since q (t.1, t.2 + agePeriod s d) }
    else s

/-- The cycle in which the ageing of a queue has something to do. -/
def ageDue (s : State) (d q : Nat) : Option Nat :=
  let x := s.die d
  match (eligibleHead s d q).isSome, Tab.look x.since q with
  | false, none => none
  | false, some _ => some s.now
  | true, none => some s.now
  | true, some t => if prioOf x q < 7 then some (t.2 + agePeriod s d) else none

/-- R60 QUEUE_AGEING: the effective priority of queue `q` of die `d` rises with the time its head has been eligible. -/
def execQueueAgeing (d q : Nat) (s : State) : Out := if d < 4 && q < 64 then .next (ageQueue (exposeHead s d q) d q) else .next s

/-! Executors (R45, R50, R61, R351, R375). -/

/-- A gang occupies a cell: it runs, halts, or is halted by a fault (log 35); a party or caravan occupies whole clusters. -/
def occupies (g : Gang) (c : Nat) : Bool :=
  (g.run != .halted || !g.reports.isEmpty) && (g.cells.contains c || (g.kind != 0 && g.cells.any (fun k => clusterOf k = clusterOf c)))

/-- The cluster is fenced (R375). -/
def fenced (s : State) (l : Nat) : Bool :=
  let p := s.configured.getD l 0
  bit (dreg s (p / 32) 0x211) (p % 32)

/-- A cell that may take a crew. -/
def cellFree (s : State) (c : Nat) : Bool := !fenced s (clusterOf c) && !s.gangs.any (fun g => occupies g c)
/-- A cluster that may take a party. -/
def clusterFree (s : State) (l : Nat) : Bool := [0, 1, 2, 3].all (fun i => cellFree s (4 * l + i))
/-- No tile runs on a cluster: a gang that has halted runs none, and neither fencing nor a halted gang's cells keep it from the Gated state (R350). -/
def clusterIdle (s : State) (l : Nat) : Bool := !s.gangs.any (fun g => g.run != .halted && g.cells.any (fun c => clusterOf c = l))

/-- Clusters that the heads of other queues than `q` reserve; `q` 64 is no queue. -/
def reservedBy (x : Die) (q : Nat) : List Nat := (x.reserve.filter (fun r => r.1 != q)).flatMap (·.2)

/-- The clusters of a record. -/
def recClusters (s : State) (d : Nat) (l : List Byte) : List Nat := (List.range (rNcl l)).map (fun i => firstCluster s d + rFirst l + i)

/-- The free executors of a stage's range, in ascending order: each lists (cell, crew, party). -/
def freeUnits (s : State) (d q : Nat) (l : List Byte) : List (List (Nat × Nat × Nat)) :=
  let cls := recClusters s d l
  let open_ := cls.filter (fun c => !(reservedBy (s.die d) q).contains c)
  if rKind l = 0 then (open_.flatMap (fun c => [0, 1, 2, 3].map (fun i => 4 * c + i))).filter (cellFree s) |>.map (fun c => [(c, 0, 0)])
  else if rKind l = 1 then (open_.filter (clusterFree s)).map (fun c => (List.range (rCrews l)).map (fun i => (4 * c + i, i, 0)))
  else if open_.length = cls.length && cls.all (clusterFree s) then
    [(cls.zip (List.range cls.length)).flatMap (fun p => (List.range (rCrews l)).map (fun i => (4 * p.1 + i, i, p.2)))]
  else []

/-- Some executor of the die is free and not reserved. -/
def anyFree (s : State) (d : Nat) : Bool :=
  (List.range (dieClusters s d)).any (fun i =>
    let l := firstCluster s d + i
    !((s.die d).reserve.flatMap (·.2)).contains l && [0, 1, 2, 3].any (fun k => cellFree s (4 * l + k)))

/-- No tile starts on the die (R351, R375): it is in Retention or above its trip. -/
def noTiles (s : State) (d : Nat) : Bool := (s.die d).retention || (s.die d).tripped
/-- No stage starts on the die: in addition a Retention write is waiting. -/
def noStages (s : State) (d : Nat) : Bool := noTiles s d || bit (mreg s 0x1301) (44 + d)

/-! Handing out tiles (R50 to R52). -/

/-- The arrival count of a tile is 0, or tiles carry none (R54). -/
def arrived (s : State) (d : Nat) (l : List Byte) (t : Nat) : Bool :=
  !rArr l || (match ikRead s d (wordAt l 0x38 + wd (2 * t)) 2 2 with | some b => leNat b = 0 | none => false)

/-- The scheduler reads the arrival counts of a started stage's tiles that are still to be handed out. -/
def exposeCounts (s : State) (d : Nat) (st : Stage) : State :=
  if rArr st.record then
    ((List.range (rTotal st.record)).filter (fun t => !st.handed.contains t)).foldl (fun w t => exposeVa w d (wordAt st.record 0x38 + wd (2 * t)) 2 2) s
  else s

/-- The first `n` ready tiles from `t` on; `fuel` bounds the tiles looked at. -/
def readyTiles (fuel : Nat) (s : State) (d : Nat) (st : Stage) (t n : Nat) : List Nat :=
  match fuel, n with
  | f + 1, k + 1 =>
    if rTotal st.record ≤ t then []
    else if st.handed.contains t || !arrived s d st.record t then readyTiles f s d st (t + 1) (k + 1)
    else t :: readyTiles f s d st (t + 1) k
  | _, _ => []

/-- A Guestbook at tile start (R221): entries that are not free are freed. -/
def freeGb (t : Tab GbEntry) : Tab GbEntry := t.map (fun p => if p.2.count = 0 then p else (p.1, { p.2 with count := 0, gen := nextGen p.2.gen }))

/-- A cell at the start of a tile (R51, R52). -/
def startCell (x : Cell) (l : List Byte) (r : TileRef) (crew party at_ : Nat) : Cell :=
  let idx := tileIdx l (rLevels l) r.tile
  let g0 := (List.range 6).map (fun j => (j + 1, wd (Tab.get 0 idx j)))
  let a := { Agent.reset with pc := wordAt l 0 }
  { Cell.reset with
    tile := some r
    g := g0 ++ [(7, wordAt l 8), (8, wd r.tile), (9, wd crew), (10, wd party)]
    agents := [(0, a), (1, a), (2, a), (3, a)]
    slipwin := wd (slipSat (bits (rCtl l) 24 11))
    faultrec := x.faultrec, nextId := x.nextId, gb := freeGb x.gb, gbq := x.gbq, fgen := x.fgen
    stlb := x.stlb, vtlb := x.vtlb, mtlb := x.mtlb, xtlb := x.xtlb, lastPass := at_ }

/-- The clusters of a list of cells. -/
def clustersOf (l : List Nat) : List Nat := (l.map clusterOf).eraseDups

/-- The cycle from which a cluster is in Run when a tile is handed to it: 64 cycles after it leaves the Gated state (R350). -/
def runFrom (s : State) (l : Nat) : Nat := if (s.cluster l).gated then s.now + 64 else max s.now (s.cluster l).wakeAt

/-- The clusters of these cells are in Run (R350). -/
def wakeClusters (s : State) (cells : List Nat) : State :=
  (clustersOf cells).foldl (fun w l => w.setCluster l { w.cluster l with gated := false, wakeAt := runFrom s l }) s

/-- The clusters of these cells begin to count towards the Gated state (R350). -/
def countIdle (s : State) (cells : List Nat) : State := (clustersOf cells).foldl (fun t k => t.setCluster k { t.cluster k with idleFrom := t.now }) s

/-- A tile is handed to an executor: its gang, its cells, its clusters in Run (R46, R50, R350), its text as memory holds it now (R150). -/
def handTile (s : State) (d : Nat) (st : Stage) (t : Nat) (u : List (Nat × Nat × Nat)) : State :=
  let cells := u.map (·.1)
  let at_ := ((clustersOf cells).map (runFrom s)).foldl max s.now
  let s1 := u.foldl (fun w p => w.setCell p.1 ((startCell (w.cell p.1) st.record ⟨d, st.queue, st.id, t⟩ p.2.1 p.2.2 at_).emptyFetch w)) s
  let s2 := wakeClusters s1 cells
  let x := s2.die d
  let g : Gang := ⟨cells.headD 0, rKind st.record, cells, d, .running, [], false, none, []⟩
  { s2.setDie d { x with stages := x.stages.map (fun q => if q.id = st.id then { q with handed := q.handed ++ [t] } else q) } with
    gangs := s2.gangs ++ [g] }

/-- How many tiles of a stage are looked at for `n` ready ones. -/
def tileFuel (st : Stage) (n : Nat) : Nat := st.handed.length + n + (if rArr st.record then rTotal st.record else 0)

/-- A started stage takes the free executors that its ready tiles fit; a cluster that any caravan reserves takes no new tile (R61). -/
def handStage (s : State) (d : Nat) (id : Nat) : State :=
  match (s.die d).stages.find? (fun q => q.id = id) with
  | none => s
  | some st =>
    let u := freeUnits s d 64 st.record
    ((readyTiles (tileFuel st u.length) s d st 0 u.length).zip u).foldl (fun w p => handTile w d st p.1 p.2) s

/-! Stages (R53, R57, R398). -/

/-- A stage whose every tile has ended retires and signals its completion event (R53, R374). -/
def retireStage (s : State) (d id : Nat) : State :=
  match (s.die d).stages.find? (fun q => q.id = id) with
  | none => s
  | some st =>
    if st.ended < rTotal st.record then s
    else
      let x := s.die d
      let s1 := s.setDie d { x with stages := x.stages.filter (fun q => q.id != id) }
      if bit (rCtl st.record) 35 && !st.nocev then eventSignal s1 d (bits (wordAt st.record 0x18) 0 16) else s1

/-- The head stage of a queue starts: HEAD advances, the effective priority returns to PRIO (R56, R57, R60). -/
def startStage (s : State) (d q : Nat) (l : List Byte) : State :=
  let x := s.die d
  let st : Stage := ⟨x.nextStage, q, qhead x q, l, [], 0, false, s.now⟩
  let s1 := s.setDie d { x with
    stages := x.stages ++ [st], nextStage := x.nextStage + 1, qhead := Tab.set x.qhead q (wd ((qhead x q + 1) % qsize x q))
    prio := Tab.set x.prio q (basePrio x q), since := Tab.erase x.since q, reserve := x.reserve.filter (fun r => r.1 != q) }
  retireStage (handStage s1 d st.id) d st.id

/-- A malformed head is recorded and its queue's EN cleared (R398). -/
def refuseStage (s : State) (d q off : Nat) (l : List Byte) : State :=
  let x := s.die d
  let s1 := dieRecord s d .X { cls := 0xF, code := 6, addr := ringAddr x q (qhead x q), aux := wd (q + 2 ^ 8 * off), aux2 := rCtl l, dlv := 3 }
  let y := s1.die d
  s1.setDie d { y with qcfg := Tab.set y.qcfg q (setBits (qcfgOf y q) 7 1 0), since := Tab.erase y.since q, reserve := y.reserve.filter (fun r => r.1 != q) }

/-- The cycle since which the head of a queue has been eligible: the present one where it has only become so. -/
def eligibleSince (s : State) (x : Die) (q : Nat) : Nat := (Tab.get (s.now, s.now) x.since q).1

/-- Queue `a` goes before queue `b` in step 2 (R61). -/
def before (s : State) (x : Die) (a b : Nat) : Bool :=
  let pa := prioOf x a
  let pb := prioOf x b
  let ta := eligibleSince s x a
  let tb := eligibleSince s x b
  pb < pa || (pa = pb && (ta < tb || (ta = tb && a < b)))

/-- The queue whose head step 2 takes next, of those not in `skip`. -/
def nextQueue (s : State) (d : Nat) (skip : List Nat) : Option Nat :=
  ((List.range 64).filter (fun q => !skip.contains q && (eligibleHead s d q).isSome)).foldl
    (fun r q => match r with | none => some q | some p => if before s (s.die d) q p then some q else some p) none

/-- A caravan head whose clusters are not all free reserves them. -/
def lacks (s : State) (d q : Nat) (l : List Byte) : Bool := rKind l = 2 && rTotal l != 0 && (freeUnits s d q l).isEmpty

/-- Step 2 of R61, repeated while executors and eligible heads remain. -/
def startHeads (fuel : Nat) (s : State) (d : Nat) (skip : List Nat) : State :=
  match fuel with
  | 0 => s
  | f + 1 =>
    if !anyFree s d then s
    else match nextQueue s d skip with
      | none => s
      | some q => match eligibleHead s d q with
        | none => s
        | some l => match malformed s d l with
          | some off => startHeads f (refuseStage s d q off l) d (q :: skip)
          | none =>
            if lacks s d q l then
              let x := s.die d
              let r := if x.reserve.any (fun p => p.1 = q) then x.reserve else x.reserve ++ [(q, recClusters s d l)]
              startHeads f (s.setDie d { x with reserve := r }) d (q :: skip)
            else startHeads f (startStage s d q l) d skip

/-- A caravan that reserved its clusters starts once they are free. -/
def startReserved (s : State) (d q : Nat) : State :=
  match eligibleHead s d q with
  | none => let x := s.die d; s.setDie d { x with reserve := x.reserve.filter (fun r => r.1 != q) }
  | some l => if (malformed s d l).isSome || lacks s d q l then s else startStage s d q l

/-- The stages of a die in the order of step 1: effective priority, then start time, then number. -/
def stageOrder (x : Die) : List Stage :=
  x.stages.foldl (fun r a =>
    let first := fun (b : Stage) => decide (prioOf x a.queue < prioOf x b.queue)
      || (decide (prioOf x a.queue = prioOf x b.queue) && (decide (b.start < a.start) || (decide (b.start = a.start) && decide (b.id < a.id))))
    r.takeWhile first ++ a :: r.dropWhile first) []

/-- R50, R57, R61 SCHEDULER_DECISION: started stages take free executors, then eligible heads start; no queue is served before boot
is complete (R346). -/
def execSchedulerDecision (d : Nat) (s : State) : Out :=
  if 4 ≤ d || !s.booted || noTiles s d then .next s
  else
    let s0 := (List.range 64).foldl (fun t q => ageQueue (exposeHead t d q) d q) ((s.die d).stages.foldl (fun t st => exposeCounts t d st) s)
    let s1 := ((stageOrder (s0.die d)).map (·.id)).foldl (fun t i => handStage t d i) s0
    if noStages s1 d then .next s1
    else
      let s2 := ((s1.die d).reserve.map (·.1)).foldl (fun t q => startReserved t d q) s1
      let n := ((List.range 64).map (fun q => qcount (s2.die d) q)).foldl (· + ·) 65
      .next (startHeads n s2 d [])

/-- A started stage of the die has a ready tile that fits a free executor. -/
def stageFits (s : State) (d : Nat) (st : Stage) : Bool :=
  let u := freeUnits s d 64 st.record
  !u.isEmpty && !(readyTiles (tileFuel st u.length) s d st 0 u.length).isEmpty

/-- A head that step 2 acts on: it starts, is refused, or makes its caravan's reservation. -/
def headActs (s : State) (d q : Nat) : Bool :=
  match eligibleHead s d q with
  | none => false
  | some l => (malformed s d l).isSome || !lacks s d q l || !(s.die d).reserve.any (fun p => p.1 = q)

/-- A reservation that is to be used or given up. -/
def reserveActs (s : State) (d q : Nat) : Bool :=
  match eligibleHead s d q with
  | none => true
  | some l => (malformed s d l).isNone && !lacks s d q l

/-- The scheduler of die `d` has a decision to make (R61): it makes it in that cycle. -/
def decides (s : State) (d : Nat) : Bool :=
  let x := s.die d
  s.booted && !noTiles s d
    && (x.stages.any (stageFits s d)
      || (!noStages s d && (x.reserve.any (fun r => reserveActs s d r.1) || ((List.range 64).any (headActs s d) && anyFree s d))))

/-! Tile ends (R53, R154). -/

/-- Every access of a cell's tile has applied, at every scope (R154), and nothing of it is under way. -/
def cellDone (s : State) (c : Nat) : Bool :=
  let x := s.cell c
  ([ crewDone x, x.loads.isEmpty, x.returning.isEmpty, x.stores.isEmpty, x.pend.isEmpty, x.sop.isNone, (cellSteps s c).isEmpty
  , x.saved.isNone, !s.writes.any (fun w => w.by_ = .agent c .S) ] : List Bool).all id

/-- The lease, its request and what the array keeps for a cell whose tile ends (R52). -/
def dropLease (s : State) (c : Nat) : State :=
  let l := clusterOf c
  let s1 := if (s.cluster l).lessee = some (c % 4) then endLease s l false else s
  let x := s1.cluster l
  s1.setCluster l { x with reqs := x.reqs.filter (· != c % 4), steps := x.steps.filter (fun m => m.cell != c) }

/-- The tile of a gang has ended (R53, R374): its executor is free, and its stage counts it. -/
def endGang (s : State) (g : Gang) (t : TileRef) (nocev : Bool) : State :=
  let x := s.die t.die
  let s1 := s.setDie t.die { x with stages := x.stages.map (fun q => if q.id = t.stage then { q with ended := q.ended + 1, nocev := q.nocev || nocev } else q) }
  let s2 := { s1 with gangs := s1.gangs.filter (fun h => !(h.first = g.first && h.run = g.run && h.cells = g.cells && h.saved = g.saved)) }
  retireStage s2 t.die t.stage

/-- The cells of an ended tile are empty, and their clusters begin to count towards the Gated state (R350). -/
def clearCells (s : State) (l : List Nat) : State :=
  countIdle (l.foldl (fun t c => let u := dropLease t c; u.setCell c { u.cell c with tile := none, jobs := [], granted := false, saved := none, lastPass := u.now }) s) l

/-- R53 TILE_END: the tile of the gang on cell `c` ends once all of its crews have ended and every access has applied; a crew that
ends with too few barriers breaks those that wait (R395). -/
def execTileEnd (c : Nat) (s : State) : Out :=
  match gangOf s c, (s.cell c).tile with
  | some g, some t =>
    if g.run != .running then .next s
    else if g.cells.all (cellDone s) then .next (endGang (clearCells s g.cells) g t false)
    else if crewDone (s.cell c) then .next (breakBars s g)
    else .next s
  | _, _ => .next s

/-! Tails and arrivals (R54, R55, R56, R301, R396). -/

/-- The writer's earlier writes are visible to the scheduler (R56). -/
def writerClear (s : State) (w : RegWrite) : Bool :=
  match w.by_ with
  | .agent c _ => fenceMet s c 3 w.pos
  | .ik _ => true

/-- R55, R56 QTAIL_WRITE: a pending write of QTAILq of die `d` is taken. -/
def execQtailWrite (d q : Nat) (s : State) : Out :=
  match takeWrite s (fun w => w.reg = 0x4C0 + q && w.unit = d && q < 64 && writerClear s w) with
  | some (s1, w) => .next (takeTail s1 d q (bits w.val 0 16) w.by_.num)
  | none => .next s

/-- The record that an arrival names: of a started stage that has not retired, else a submitted one. -/
def arrivalRecord (s : State) (d : Nat) (a : Arrive) : Option (List Byte) :=
  let x := s.die d
  match x.stages.find? (fun q => q.queue = a.queue && q.index = a.index) with
  | some st => some st.record
  | none =>
    if a.index < qsize x a.queue && (a.index + qsize x a.queue - qhead x a.queue) % qsize x a.queue < qcount x a.queue then
      ringRecord s d a.queue a.index else none

/-- A count that lies in memory held by Retention (R351). -/
def heldCount (s : State) (d : Nat) (va : Word) : Bool :=
  match (checkAccess s (.ik d) .S va 2 2 true false).2 with
  | .flt f => f.cls = 6 && f.code = 9
  | .ok _ => false

/-- An arrival is applied as one atomic update, or refused under R396 code 0x05; none while the scheduler cannot reach the count
(log 34). -/
def arriveOne (s : State) (d : Nat) (a : Arrive) : Option State :=
  let x := s.die d
  let refuse := some (dieRecord s d .X { cls := 0xF, code := 5, addr := ringAddr x a.queue a.index, aux := wd (a.queue + 2 ^ 32 * a.tile), aux2 := wd a.src, dlv := 3 })
  match arrivalRecord s d a with
  | none => refuse
  | some l =>
    let va := wordAt l 0x38 + wd (2 * a.tile)
    if !rArr l || rTotal l ≤ a.tile || heldCount s d va then refuse
    else (ikRead s d va 2 2).bind (fun b => ringWrite (exposeVa s d va 2 2) d va (leList 2 (leNat b - 1)))

/-- The command that an arrival completes has had it applied. -/
def arrivalDone (s : State) (a : Arrive) : State :=
  match a.job with
  | some p => match Tab.look s.cells p.1 with
    | some x => s.setCell p.1 (markReached x x.tile p.2)
    | none => s
  | none => s

/-- R54, R301 ARRIVAL: the scheduler of die `d` applies its oldest arrival. -/
def execArrival (d : Nat) (s : State) : Out :=
  let x := s.die d
  match x.arrivals with
  | [] => .next s
  | a :: r => match arriveOne (s.setDie d { x with arrivals := r }) d a with
    | some s1 => .next (arrivalDone s1 a)
    | none => .next s

end Sys2Proof.Machine
end

