-- ==== Sys2Proof/Machine/Context.lean ====
section
/-!
DEFINITION. The 512 KiB of a cell's context (R66): what is written when its gang is quiescent, and what a resume reads back. R66 gives the
parts and their order; the layout inside a part is the model's (log 36, DESIGN CHOICE), and bytes that no item takes are free.
-/
namespace Sys2Proof.Machine

/-- A part of `n` bytes that begins with these; the rest is free from count `k` on. -/
def part (k n : Nat) (l : List Byte) : List Byte := (l ++ (List.range (n - l.length)).map (fun i => Config.freeByte (k + i))).take n

/-- The bytes of words. -/
def wordsBytes (l : List Word) : List Byte := l.flatMap wordBytes

/-- Words up to a number of them, 0 after the last. -/
def upTo (n : Nat) (l : List Word) : List Word := (l ++ List.replicate (n - l.length) 0).take n

/-! Agents (R40, R43, R215 to R219). -/

/-- A stride slot: its fields, its offset. -/
def strideWords (q : Stride) : List Word := [wd (q.stride.toNat * 2 ^ 32 + q.kind % 2 ^ 16 * 2 ^ 16 + q.target % 2 ^ 16), q.off]

/-- A stride slot read back. -/
def readStride (w : Nat → Word) : Stride :=
  ⟨BitVec.ofNat 32 (bits (w 0) 32 32), bits (w 0) 16 16, bits (w 0) 0 16, w 1⟩

/-- An active level: 16 words. -/
def levelWords (l : Level) : List Word :=
  upTo 16 ([l.start, wd (l.len + l.stages % 2 ^ 16 * 2 ^ 16 + l.slots.length * 2 ^ 32), wd l.trip, wd l.iter] ++ l.slots.flatMap strideWords)

/-- An active level read back. -/
def readLevel (w : Nat → Word) : Level :=
  ⟨w 0, bits (w 1) 0 16, (w 2).toNat, bits (w 1) 16 16, (w 3).toNat, (List.range (min 6 (bits (w 1) 32 8))).map (fun j => readStride (fun i => w (4 + 2 * j + i)))⟩

/-- The state of an agent's loop sequencer, with its halt, its owed signals and the LSTG in force: 128 words. -/
def agentWords (a : Agent) : List Word :=
  let g := a.lstg.getD (0, false, false)
  let flags := b2n a.halted + 2 * a.sig.toNat + 8 * b2n a.lstg.isSome + 16 * b2n g.2.1 + 32 * b2n g.2.2 + 64 * b2n a.skipTo.isSome + 2 ^ 8 * (g.1 % 2 ^ 16)
  upTo 128 ([wd flags, a.skipTo.getD 0, wd a.levels.length, wd a.replay.length] ++ a.levels.flatMap levelWords)

/-- The replay buffer of an agent: 256 words, each with its address. -/
def replayWords (a : Agent) : List Word :=
  upTo 256 (a.replay.map (fun p => wd ((p.1 % 2 ^ 32) * 2 ^ 32 + p.2.toNat)))

/-- An agent read back; `w` is its sequencer's part and `b` its replay buffer. -/
def readAgent (a : Agent) (pc dpos : Word) (w b : Nat → Word) : Agent :=
  let f := (w 0).toNat
  { a with
    pc := pc, dpos := dpos.toNat, halted := f % 2 = 1, sig := BitVec.ofNat 2 (f / 2)
    lstg := if f / 8 % 2 = 1 then some (bits (w 0) 8 16, decide (f / 16 % 2 = 1), decide (f / 32 % 2 = 1)) else none
    skipTo := if f / 64 % 2 = 1 then some (w 1) else none
    levels := (List.range (min 6 (w 2).toNat)).map (fun i => readLevel (fun j => w (4 + 16 * i + j)))
    replay := (List.range (min 256 (w 3).toNat)).map (fun i => (pc.toNat / 4 / 2 ^ 32 * 2 ^ 32 + bits (b i) 32 32, BitVec.ofNat 32 (bits (b i) 0 32))) }

/-! Outcome queues (R39). -/

/-- An outcome: three words. -/
def outcomeWords (o : Outcome) : List Word :=
  let l := o.loop.getD (0, 0, 0)
  [o.pc, wd (b2n o.ended + 2 * b2n o.loop.isSome + 4 * (l.1 % 2 ^ 32)), wd (l.2.1 % 2 ^ 32 + l.2.2 % 2 ^ 32 * 2 ^ 32)]

/-- An outcome read back. -/
def readOutcome (w : Nat → Word) : Outcome :=
  ⟨w 0, if bit (w 1) 1 then some (bits (w 1) 2 32, bits (w 2) 0 32, bits (w 2) 32 32) else none, bit (w 1) 0⟩

/-- An outcome queue: its count and 16 places. -/
def outqWords (l : List Outcome) : List Word := upTo 64 (wd l.length :: l.flatMap outcomeWords)

/-- An outcome queue read back. -/
def readOutq (w : Nat → Word) : List Outcome := (List.range (min 16 (w 0).toNat)).map (fun i => readOutcome (fun j => w (1 + 3 * i + j)))

/-! The first part: 16 KiB. -/

/-- PC and DPOS of each agent; g, m, k and control registers; the lease; counts of the token FIFOs; outcome queues; loop sequencers; replay
buffers. -/
def firstWords (x : Cell) : List Word :=
  let e := [Engine.S, .V, .M, .X]
  upTo 64 (e.flatMap (fun n => [(x.agent n).pc, wd (x.agent n).dpos]) ++ (List.range 32).map x.greg ++ (List.range 8).map x.mreg
      ++ (List.range 16).map (fun n => (x.kreg n).setWidth 64))
    ++ upTo 16 [x.slipwin, x.vshape, x.vstat, x.arithctl, x.wallow, wd (b2n x.leaseSaved), wd x.ftop, wd x.fgen]
    ++ upTo 112 ((List.range 36).map (fun n => Tab.get 0 x.lstride n) ++ (List.range 16).map (fun n => (x.chan n).bind)
      ++ (List.range 16).map (fun n => (x.chan n).act) ++ (List.range 16).map (fun n => Tab.get 0 x.netp n)
      ++ (List.range 16).map (fun n => wd (Tab.get [] x.tokens n).length))
    ++ [1, 2, 3].flatMap (fun n => outqWords (Tab.get [] x.outq n))
    ++ upTo 128 [] ++ e.flatMap (fun n => agentWords (x.agent n)) ++ e.flatMap (fun n => replayWords (x.agent n))

/-- The registers, queues and agents of a cell as the first part of its context holds them. -/
def readFirst (w : Nat → Word) (y : Cell) : Cell :=
  { y with
    g := (List.range 32).map (fun n => (n, w (8 + n))), m := (List.range 8).map (fun n => (n, w (40 + n)))
    k := (List.range 16).map (fun n => (n, (w (48 + n)).setWidth 32))
    slipwin := w 64, vshape := w 65, vstat := w 66, arithctl := w 67, wallow := w 68, leaseSaved := bit (w 69) 0
    ftop := (w 70).toNat, fgen := (w 71).toNat
    lstride := (List.range 36).map (fun n => (n, w (80 + n))), netp := (List.range 16).map (fun n => (n, w (148 + n)))
    tokens := (List.range 16).map (fun n => (n, List.replicate (min 16 (w (164 + n)).toNat) 0))
    outq := [1, 2, 3].map (fun n => (n, readOutq (fun i => w (192 + 64 * (n - 1) + i))))
    agents := [0, 1, 2, 3].map (fun n => (n, readAgent (Tab.get Agent.reset y.agents n) (w (2 * n)) (w (2 * n + 1))
      (fun i => w (512 + 128 * n + i)) (fun i => w (1024 + 256 * n + i)))) }

/-! Channels, Guestbook, deferral queue (R173, R221, R260). -/

/-- The entries of a channel: four places of 256 bytes. -/
def chanBytes (h : Chan) : List Byte := (List.range 4).flatMap (fun i => leList 256 ((h.q[i]?.bind (·.val)).getD 0).toNat)

/-- The count of a channel, its credits and whether a binding is pending. -/
def chanWord (h : Chan) : Word := wd (h.q.length + h.credits % 256 * 2 ^ 8 + b2n h.pending * 2 ^ 16)

/-- A Guestbook entry: 26 words. -/
def gbWords (e : GbEntry) : List Word :=
  upTo 26 ([e.entry, wd (e.nval % 256 + e.nref % 256 * 2 ^ 8 + e.count % 2 ^ 16 * 2 ^ 16 + e.gen % 2 ^ 16 * 2 ^ 32)]
    ++ upTo 8 e.vals ++ (e.refs.take 4).flatMap (fun p => [wd p.1, wd p.2]))

/-- A Guestbook entry read back. -/
def readGb (w : Nat → Word) : GbEntry :=
  let v := bits (w 1) 0 8
  let r := bits (w 1) 8 8
  ⟨w 0, v, r, (List.range (min 8 v)).map (fun i => w (2 + i)), (List.range (min 4 r)).map (fun i => ((w (10 + 2 * i)).toNat, (w (11 + 2 * i)).toNat)),
    bits (w 1) 16 16, bits (w 1) 32 16⟩

/-- An entry of the deferral queue: 64 bytes; the first one's last word holds the number of entries. -/
def dqWords (n : Nat) (e : DqEntry) : List Word :=
  upTo 7 (wd (e.handle.toNat + e.width % 256 * 2 ^ 32 + e.vals.length % 256 * 2 ^ 40)
    :: (List.range 4).map (fun i => wd (e.vals.getD (2 * i) 0 % 2 ^ 32 + e.vals.getD (2 * i + 1) 0 % 2 ^ 32 * 2 ^ 32))) ++ [wd n]

/-- An entry of the deferral queue read back. -/
def readDq (w : Nat → Word) : DqEntry :=
  ⟨BitVec.ofNat 32 (bits (w 0) 0 32), bits (w 0) 32 8, (List.range (min 8 (bits (w 0) 40 8))).map (fun i => bits (w (1 + i / 2)) (32 * (i % 2)) 32)⟩

/-! The whole. -/

/-- The bytes of a cell's context; bytes without an item are free from count `k` on. -/
def contextBytes (k : Nat) (x : Cell) : List Byte :=
  part k 0x4000 (wordsBytes (firstWords x))
    ++ (List.range 32).flatMap (fun n => leList 256 (x.vreg n).toNat)
    ++ part (k + 0x4000) 0x6000 ((List.range 16).flatMap (fun n => leList 128 (x.stream n).toNat) ++ (List.range 16).flatMap (fun n => chanBytes (x.chan n))
      ++ wordsBytes ((List.range 16).map (fun n => chanWord (x.chan n))))
    ++ (List.range 1024).flatMap (fun n => wordsBytes (gbWords (x.gbEntry n)))
    ++ part (k + 0xA000) 0x40000 (wordsBytes (x.dq.flatMap (dqWords x.dq.length)))

/-- The address of a cell's context (R66). -/
def contextAt (s : State) (c : Nat) : Nat := bits (dreg s (dieOf s c) 0x204) 19 29 * 2 ^ 19 + 2 ^ 19 * c

/-- A channel read back. -/
def readChan (s : State) (a n : Nat) (h : Chan) : Chan :=
  let w := devWord s (a + 0xA800 + 8 * n)
  { h with
    q := (List.range (min 4 (bits w 0 8))).map (fun i => ⟨0, some (BitVec.ofNat 2048 (leNat (devRead s (a + 0x6800 + 1024 * n + 256 * i) 256)))⟩)
    bind := devWord s (a + 8 * (116 + n)), act := devWord s (a + 8 * (132 + n)), credits := bits w 8 8, pending := bit w 16 }

/-- A cell as its context in memory holds it, where one could be written (log 36); `kept` says that its channels and its Guestbook have stayed in
place, since no other tile has run on it. What R66 does not list comes from the cell as it was saved. -/
def readContext (s : State) (c : Nat) (kept : Bool) (y : Cell) : Cell :=
  let a := contextAt s c
  if !assigned a || retained s a then y
  else
    let z := readFirst (fun i => devWord s (a + 8 * i))
      { y with v := (List.range 32).map (fun n => (n, BitVec.ofNat 2048 (leNat (devRead s (a + 0x4000 + 256 * n) 256))))
               s := (List.range 16).map (fun n => (n, BitVec.ofNat 1024 (leNat (devRead s (a + 0x6000 + 128 * n) 128))))
               dq := (List.range (min 4096 (devWord s (a + 0x40038)).toNat)).map (fun n => readDq (fun i => devWord s (a + 0x40000 + 64 * n + 8 * i))) }
    if kept then z
    else { z with chans := (List.range 16).map (fun n => (n, readChan s a n (y.chan n)))
                  gb := (List.range 1024).map (fun n => (n, readGb (fun i => devWord s (a + 0xC000 + 208 * n + 8 * i)))) }

end Sys2Proof.Machine
end

