-- ==== Sys2Proof/Machine/FaultEvents.lean ====
section
/-!
DEFINITION. Halts and what ends them: stalled crews (R386), pre-emption (R65), the context save with its records and notification
(R66, R362 to R368), resumption (R67, R364), abort (R373, R374), the FNQ watchdog (R369, R372).
-/
namespace Sys2Proof.Machine

/-! Stalled crews (R386). -/

/-- The words of the instruction at an agent's PC, as far as it has read them. -/
def wordsHere (x : Cell) (e : Engine) : Nat := wordCount (wordHere x e)

/-- A channel wait that a stall counts: KIND 0 or 1, WAIT 1, and still unmet. -/
def chanStalls (x : Cell) (n : Nat) (pop : Bool) : Bool :=
  let h := x.chan n
  let b := effBind h
  bKind b < 2 && bWait b && (if pop then !(match h.q with | q :: _ => q.val.isSome | [] => false) else 4 ≤ h.q.length || pendingBind h)

/-- A step of the cell that waits at the array for operands or scales (R270), or was returned at the lease's cycle limit while it did (R62, R68): M then
waits at it for operands, which are still not there. -/
def stalledStep (s : State) (c : Nat) : Option (Word × Nat) :=
  let x := s.cell c
  match cellSteps s c with
  | m :: _ => if !m.begun && stepStarved s m then some (m.pc, m.dpos) else none
  | [] =>
    let a := x.agent .M
    if a.wait != .operands then none
    else match decode (wordHere x .M) (textWord x .M (a.pc.toNat / 4 + 1)) with
      | .instr w => if (opStreams w).any (fun p => sCount (x.stream p.2) = 0 || (p.1 < 2 && sEfmt (x.stream p.2) = 11)) then some (a.pc, a.dpos) else none
      | .bad _ => none

/-- What an agent's wait counts as in a stall: the number of R386 with the channel, and the word it waits at. -/
def stallOf (s : State) (c : Nat) (e : Engine) : Option (Nat × Nat × Word × Nat) :=
  let x := s.cell c
  let a := x.agent e
  let at_ := fun k ch (b : Bool) => if b then some (k, ch, a.pc, a.dpos) else none
  match a.wait with
  | .leftToken => at_ 0 0 (!hasTok x s.now (leftOf e) e)
  | .rightToken => at_ 1 0 (!hasTok x s.now (rightOf e) e)
  | .outcome => at_ 2 0 (if e = .S then outFull x else (Tab.get [] x.outq (engCode e)).isEmpty)
  | .slip => at_ 3 0 (!slipOk x e (wordsHere x e))
  | .chanPop n => at_ 4 n (chanStalls x n true)
  | .chanPush n => at_ 5 n (chanStalls x n false)
  | .leftSignal => at_ 7 0 (16 ≤ (x.tok e (leftOf e)).length)
  | .rightSignal => at_ 8 0 (16 ≤ (x.tok e (rightOf e)).length)
  | .operands => if e = .M then (stalledStep s c).map (fun p => (6, 0, p.1, p.2)) else none
  | .other => if e = .M then (stalledStep s c).map (fun p => (6, 0, p.1, p.2)) else none
  | .none => if e = .M && a.halted then (stalledStep s c).map (fun p => (6, 0, p.1, p.2)) else none

/-- The agents of a cell that have not passed HALT, and M where a step of it still waits at the array (R270). -/
def liveAgents (s : State) (c : Nat) : List Engine :=
  [Engine.S, .V, .M, .X].filter (fun e => !((s.cell c).agent e).halted || (e = .M && (stalledStep s c).isSome))

/-- Some agent of a cell has not passed HALT, and all those wait on what only the crew supplies. -/
def stalls (s : State) (c : Nat) : Bool := !(liveAgents s c).isEmpty && (liveAgents s c).all (fun e => (stallOf s c e).isSome)

/-- R386 CREW_STALL: no agent of cell `c` has passed a word for 4,096 cycles, and each has passed HALT or waits on what only the
crew supplies; every waiting agent reports. -/
def execCrewStall (c : Nat) (s : State) : Out :=
  let x := s.cell c
  if !active s c || s.now < x.lastPass + 4096 || !stalls s c then .next s
  else
    .next ((liveAgents s c).foldl (fun t e => match stallOf s c e with
      | some (k, ch, pc, dpos) => raise t c e
          { cls := 2, code := 4, aux := if k = 4 || k = 5 then (chanFlt (x.chan ch) ch 4).aux else 0, aux2 := wd k } pc dpos
      | none => t) s)

/-! Requests (R65, R364, R373). -/

/-- FIRST and KIND of a request name this gang of die `d`. -/
def namesGang (d : Nat) (v : Word) (g : Gang) : Bool := g.die = d && g.first = bits v 0 9 && g.kind = bits v 9 2

/-- A running gang begins to halt, without a report. -/
def haltGang (g : Gang) : Gang := if g.run = .running then { g with run := .halting } else g

/-- R65, R364 PREEMPTREQ: a running gang of die `d` halts; a request for another one has no effect. -/
def execPreemptreq (d : Nat) (s : State) : Out :=
  match takeWrite s (fun w => w.reg = 0x202 && w.unit = d) with
  | some (s1, w) =>
    let s2 := setDreg s1 d 0x202 (fieldWrite 0x202 (dreg s1 d 0x202) w.val)
    .next { s2 with gangs := s2.gangs.map (fun g => if namesGang d w.val g then haltGang g else g) }
  | none => .next s

/-! Quiescence and the context (R65, R66, R310). -/

/-- A command that the context save still waits for. -/
def jobHolds (s : State) (c : Nat) (j : Job) : Bool :=
  !j.lost && (j.asked || (j.begun && (!j.acks.isEmpty || !j.tickets.isEmpty || (mustFinish j && !reported s c j))))

/-- A cell of a halting gang has nothing under way (R65). -/
def cellQuiet (s : State) (c : Nat) : Bool :=
  let x := s.cell c
  let l := s.cluster (clusterOf c)
  ([ x.loads.isEmpty, x.returning.all (fun q => q.dest = .vec), x.stores.all (·.blind), x.pend.isEmpty
  , !(match x.sop with | some o => o.asked && o.ack.isNone | none => false)
  , !s.writes.any (fun w => match w.by_ with | .agent k _ => k = c | .ik _ => false)
  , !x.jobs.any (jobHolds s c), l.replay.isSome || !(stepsOf l c).any (·.begun) ] : List Bool).all id

/-- A cell gives up the array (R64 to R68): its lease or request is remembered, its steps go back to M, its tiles go to its save
area. -/
def releaseArray (s : State) (c : Nat) : State :=
  let l := clusterOf c
  let i := c % 4
  let had := (s.cluster l).lessee = some i || (s.cluster l).reqs.contains i
  let s1 := if (s.cluster l).lessee = some i then endLease s l false else s
  let s2 := returnSteps s1 c true
  let s3 := if (s2.cluster l).owner = some i then saveTiles s2 l else s2
  let x := s3.cluster l
  let s4 := s3.setCluster l { x with reqs := x.reqs.filter (· != i), owner := if x.owner = some i then none else x.owner }
  let y := s4.cell c
  s4.setCell c { y with leaseSaved := y.leaseSaved || had }

/-- A cell as its context keeps it: what was read ahead is dropped, the S word in progress keeps only what its home has done. -/
def savedCell (y : Cell) : Cell :=
  let x := y.undoAhead
  { x with returning := [], fcache := []
           sop := x.sop.filter (fun o => o.asked)
           agents := x.agents.map (fun p => (p.1, { p.2 with wait := .none })) }

/-- A write of a record, context or alarm failed (R375 code 0x05). -/
def writeFailed (s : State) (d c : Nat) : State := notify (setMreg s 0x1307 (mreg s 0x1307 ||| wd (2 ^ 62))) d (fnqEntry 3 0 0 c 0) []

/-- A cell's context is written at CTXBASE + 512 KiB × its number, under key slot 0. -/
def writeContext (s : State) (c : Nat) : State :=
  let d := dieOf s c
  let a := contextAt s c
  if !assigned a || retained s a then writeFailed s d c
  else { devWrite s a (contextBytes s.ticks (s.cell c).undoAhead) with ticks := s.ticks + 2 ^ 19 }

/-- Reports in order of detection, those of one cycle by ascending agent number (R363). -/
def reportOrder (l : List Report) : List Report :=
  l.foldl (fun r a =>
    let first := fun (b : Report) => decide (b.cycle < a.cycle) || (b.cycle == a.cycle && decide (b.agent ≤ a.agent))
    r.takeWhile first ++ a :: r.dropWhile first) []

/-- The records of a halt, each in the fault area of its agent's cell; the second part lists their SEQs. -/
def writeRecords (s : State) (l : List Report) : State × List Nat :=
  l.foldl (fun t r => match writeRecord t.1 (r.agent / 4) r with
    | (s1, some q) => (s1, t.2 ++ [q])
    | (s1, none) => (s1, t.2)) (s, [])

/-- REASON of a halt (R368). -/
def haltReason (l : List Report) : Nat := if l.any (fun r => r.cls = 0xD) then 2 else if !l.isEmpty && l.all (fun r => r.cls = 0) then 1 else 0

/-- The first 48 bytes of the first record of a halt. -/
def recordHead (l : List Report) (seqs : List Nat) : List Byte :=
  match l, seqs with
  | r :: _, q :: _ => (recordBytes r q).take 48
  | _, _ => []

/-- The waiters of a tile leave every wait list. -/
def dropWaiters (s : State) (t : TileRef) (cells : List Nat) : State :=
  let keep := fun (w : Waiter) => !(w.tile = some t && cells.contains w.cell)
  { s with dies := s.dies.map (fun p => (p.1, { p.2 with events := p.2.events.map (fun e => (e.1, { e.2 with hw := e.2.hw.filter keep, spill := e.2.spill.filter keep })) })) }

/-- ABORTREQ takes effect on a halted gang (R374): its commands, queues, barriers and requests are gone, its tile has ended. -/
def abortGang (s : State) (g : Gang) (nocev : Bool) : State :=
  match (Tab.get Cell.reset g.saved g.first).tile with
  | none => s
  | some t =>
    let mine := g.cells.filter (fun c => (s.cell c).tile = some t)
    endGang (clearCells (dropWaiters s t g.cells) mine) g t nocev

/-- R66, R366, R368 CONTEXT_SAVE: the halting gang whose first cell is `g` is quiescent: contexts, records and the notification are
written, and its clusters count towards the Gated state (R350, log 51); a waiting ABORTREQ then takes effect. -/
def execContextSave (g : Nat) (s : State) : Out :=
  match s.gangs.find? (fun h => h.first = g && h.run = .halting) with
  | none => .next s
  | some h =>
    if !h.cells.all (cellQuiet s) then .next s
    else
      let s1 := countIdle (h.cells.foldl releaseArray s) h.cells
      let s2 := h.cells.foldl writeContext s1
      let reps := reportOrder h.reports
      let w := writeRecords s2 reps
      let h1 := { h with run := .halted, saved := h.cells.map (fun c => (c, savedCell (w.1.cell c))) }
      let s3 := { w.1 with gangs := w.1.gangs.map (fun q => if q.first = h.first && q.run = .halting then h1 else q) }
      let s4 := notify s3 h.die (fnqEntry (haltReason reps) h.kind w.2.length h.first (w.2.headD 0)) (recordHead reps w.2)
      .next (match h.abort with
        | some nocev => abortGang s4 h1 nocev
        | none => s4)

/-! Resumption (R67, R364, R373). -/

/-- A cell as it resumes: the fetch cache is empty (R150), the ring of its fault area and the TLBs are as they stand; where no other
tile has run on it, what other cells did to its Guestbook stays. -/
def resumedCell (x y : Cell) (now : Nat) : Cell :=
  let z := if x.tile = y.tile then { y with gb := x.gb, chans := x.chans } else y
  { z with faultrec := x.faultrec, gbq := x.gbq, nextId := max x.nextId y.nextId, fcache := [], lastPass := now, leaseSaved := false
           stlb := x.stlb, vtlb := x.vtlb, mtlb := x.mtlb, xtlb := x.xtlb }

/-- A cell resumes with its context as memory holds it (R66) and its text as memory holds it now (R150); a lease that it held or awaited is requested
again. -/
def resumeCell (s0 : State) (c : Nat) (saved : Cell) (at_ : Nat) : State :=
  let s := expose s0 (contextAt s0 c) 0x80000
  let x := s.cell c
  let y := readContext s c (x.tile = saved.tile) saved
  let s1 := s.setCell c ((resumedCell x y at_).emptyFetch s)
  if y.leaseSaved then s1.setCluster (clusterOf c) (request (s1.cluster (clusterOf c)) (c % 4)) else s1

/-- The cells of a halted gang are free of other work, those of its clusters too where it is a party or caravan. -/
def cellsClear (s : State) (g : Gang) : Bool :=
  !s.gangs.any (fun h => h.run != .halted && (h.cells.any (fun c => occupies { g with reports := [], run := .running } c) || g.cells.any (fun c => occupies h c)))

/-- A halted gang runs again, its clusters in Run (R350). -/
def resumeGang (s : State) (g : Gang) : State :=
  let at_ := ((clustersOf g.cells).map (runFrom s)).foldl max s.now
  let s1 := wakeClusters (g.saved.foldl (fun t p => resumeCell t p.1 p.2 at_) s) g.cells
  { s1 with gangs := s1.gangs.map (fun h => if h = g then { g with run := .running, reports := [], norst := false, saved := [] } else h) }

/-- The halted gang that a request names. -/
def haltedGang (s : State) (d : Nat) (v : Word) : Option Gang := s.gangs.find? (fun g => namesGang d v g && g.run = .halted)

/-- R67, R364 RESUMEREQ: a halted gang of die `d` resumes, unless a record of its halt has RST 0; the write waits while other work
runs on the gang's cells (log 35) or the die is above its trip (R375). -/
def execResumereq (d : Nat) (s : State) : Out :=
  let ready := fun (v : Word) => match haltedGang s d v with
    | some g => g.norst || (cellsClear s g && !(s.die d).tripped)
    | none => true
  match takeWrite s (fun w => w.reg = 0x203 && w.unit = d && ready w.val) with
  | some (s1, w) =>
    let s2 := setDreg s1 d 0x203 (fieldWrite 0x203 (dreg s1 d 0x203) w.val)
    .next (match haltedGang s2 d w.val with
      | some g => if g.norst then s2 else resumeGang s2 g
      | none => s2)
  | none => .next s

/-- R364, R373, R374 ABORTREQ: the gang ends, after its halt and context save where it still runs. -/
def execAbortreq (d : Nat) (s : State) : Out :=
  match takeWrite s (fun w => w.reg = 0x20E && w.unit = d) with
  | some (s1, w) =>
    let nocev := bit w.val 11
    let s2 := setDreg s1 d 0x20E (fieldWrite 0x20E (dreg s1 d 0x20E) w.val)
    .next (match haltedGang s2 d w.val with
      | some g => abortGang s2 g nocev
      | none => { s2 with gangs := s2.gangs.map (fun g => if namesGang d w.val g then { haltGang g with abort := some nocev } else g) })
  | none => .next s

/-! The watchdog of FNQ (R369, R372). -/

/-- The bound of IKWDOG in cell cycles: 0 acts as 1 µs (R5). -/
def wdogBound (s : State) (d : Nat) : Nat := 4000 * max 1 (bits (dreg s d 0x210) 0 32)

/-- The first entry of FNQ that is due is marked as reported. -/
def markReported (due : Word × Nat × List Byte → Bool) (l : List (Word × Nat × List Byte)) : List (Word × Nat × List Byte) :=
  match l with
  | [] => []
  | e :: r => if due e then (e.1, e.2.1 + 2 ^ 80, e.2.2) :: r else e :: markReported due r

/-- R372 FNQ_WATCHDOG: an entry of die `d` that has stayed unpopped for the bound is reported once, as ALM 3 with the head of its record, and stays. -/
def execFnqWatchdog (d : Nat) (s : State) : Out :=
  let x := s.die d
  let due := fun (e : Word × Nat × List Byte) => decide (e.2.1 + wdogBound s d ≤ s.now)
  match x.fnq.find? due with
  | none => .next s
  | some e => .next (sendAlarm (s.setDie d { x with fnq := markReported due x.fnq }) 3 d e.1 e.2.2)

end Sys2Proof.Machine
end

