-- ==== Sys2Proof/Machine/Delivery.lean ====
section
/-!
DEFINITION. What packets do at this node: connections and their acknowledgements (R331, R332, R446 to R448), the effects of each TYPE
(R326, R302, R295, R301, R339, R340, R452), the ordered class (R335, R336), the host (R343) and pod time (R338).
-/
namespace Sys2Proof.Machine

/-! Routes and lateness (R334, R446). -/

/-- The port that the packet would leave by has already sent an MS above its stamp. -/
def lateOut (s : State) (k : Packet) : Bool :=
  k.cls = 1 && k.dst != selfNode s && (match route s k.dst with | some q => decide (k.stamp.toNat < (s.port q).msSent.toNat) | none => false)

/-- The record of a late packet (R452 code 0x15). -/
def lateRecord (s : State) (k : Packet) : State := nodeRecord s 0 0x15 (wd k.src) k.oseq k.stamp

/-- What goes on in a late packet's place: its CSEQ alone, so that its destination acknowledges it (log 13). -/
def filler (k : Packet) : Packet := { k with ty := 10, cls := 0, stamp := 0, oseq := 0, addr := 1, aux := 0, data := [] }

/-- A packet for another node goes on towards it; with no usable port it is not sent (R334). -/
def forward (s : State) (k : Packet) : State := if lateOut s k then launch (lateRecord s k) (filler k) else launch s k

/-! Acknowledgements (R331, R332). -/

/-- A CSEQ lies below an acknowledgement. -/
def ackCovers (q ack : Nat) : Bool := let d := (ack + 2 ^ 32 - q) % 2 ^ 32; d != 0 && decide (d < 2 ^ 31)

/-- A cell whose commands no longer await the acknowledgements that satisfy `p`. -/
def dropAcks (p : Nat × Nat → Bool) (x : Cell) : Cell := { x with jobs := x.jobs.map (fun j => { j with acks := j.acks.filter (fun a => !p a) }) }

/-- The same for every cell and every saved context. -/
def ackCells (s : State) (p : Nat × Nat → Bool) : State :=
  { s with cells := s.cells.map (fun c => (c.1, dropAcks p c.2))
           gangs := s.gangs.map (fun g => { g with saved := g.saved.map (fun c => (c.1, dropAcks p c.2)) }) }

/-- CACK from a peer: the packets below it leave the retry store, and packets that waited for room are sent. -/
def ackConn (s : State) (n ack : Nat) : State :=
  let x := s.conn n
  if x.retry.any (fun r => ackCovers r.pkt.cseq ack) then
    flushSends (ackCells (s.setConn n { x with retry := x.retry.filter (fun r => !ackCovers r.pkt.cseq ack) }) (fun a => a.1 = n && ackCovers a.2 ack))
  else s

/-- The cycle by which an acknowledgement that is owed has gone out: CONNCTL.ACKD network cycles after the application (R331). -/
def ackBy (s : State) (t : Nat) : Nat := t + net (bits (mreg s 0x1103) 0 16)

/-- R331 CONNECTION_ACK: what has been applied of node `n`'s packets is acknowledged in a TYPE 10 packet, CONNCTL.ACKD network cycles
after the oldest application at the latest. -/
def execConnectionAck (n : Nat) (s : State) : Out :=
  let t := touchConn s n
  let x := t.conn n
  if x.ackDue.isNone then .next s
  else
    let s1 := t.setConn n { x with ackDue := none }
    if n = selfNode s then .next (ackConn s1 n (ackOf s1 n))
    else .next (launch s1 { plainPacket 10 n 0 0 [] with src := selfNode s, cseq := x.send, cack := ackOf s1 n, epoch := x.epoch })

/-! Lost connections (R447, R448). -/

/-- CONNTO.CRTO in cell cycles. -/
def crto (s : State) : Nat := net (bits (mreg s 0x110D) 0 32)
/-- CONNTO.CRMAX. -/
def crmax (s : State) : Nat := max 1 (bits (mreg s 0x110D) 40 8)

/-- The requests of a list that wait on node `n`, and are asked again on the connection that starts afresh (log 13). -/
def reask (s : State) (r : ReadReq) : State :=
  match r.who with
  | .load c id => match Tab.look s.cells c with
    | some x => s.setCell c { x with loads := x.loads.map (fun l => if l.id = id then { l with waiting := false } else l) }
    | none => s
  | .job c dpos _ => match Tab.look s.cells c with
    | some x => s.setCell c { x with jobs := x.jobs.map (fun j => if j.dpos = dpos then { j with asked := false } else j) }
    | none => s
  | .ik d => let x := s.die d; s.setDie d { x with ik := { x.ik with sop := none } }

/-- An address of the fabric remote window names node `n` (R71). -/
def farNode (n : Nat) (va : Word) : Bool :=
  canonical va && !paged va && decide (2 ^ 54 + n * 2 ^ 30 ≤ winOff va) && decide (winOff va < 2 ^ 54 + (n + 1) * 2 ^ 30)

/-- A begun command has still to send to node `n`, or to read there. -/
def stillTo (s : State) (n : Nat) (j : Job) : Bool :=
  j.begun && !j.spent && (match j.word with
    | .xmove .. | .xmoveExt .. | .xscat .. => farNode n j.a || farNode n j.b
    | .xsend .. | .xsendo .. => farNode n j.a || (List.range (sendCnt j)).any (fun i => sendNode j i = n && (j.sub ≤ i || decide (j.done + 4096 < sendLen j)))
    | .xred .. => farNode n j.a || redHome (redDesc s (aperture j.b).1) = n
    | .xcoll .. => (List.range (coTotal j.record - j.done)).any (fun i =>
        let x := coTransfer j.record (j.done + i)
        farNode n x.1 || (if coClass j.record = 2 then redHome (redDesc s (aperture x.2.1).1) = n else x.2.2 = n))
    | _ => false)

/-- A command needs the connection to node `n`: a packet of it is not acknowledged, a read of it is not answered, or it has still to send or read there. -/
def needs (s : State) (n c : Nat) (j : Job) : Bool :=
  j.acks.any (fun a => a.1 = n) || s.reads.any (fun r => r.node = n && (match r.who with | .job k i _ => k = c && i = j.dpos | _ => false)) || stillTo s n j

/-- A cell whose commands of these positions are stopped for good. -/
def loseJobs (x : Cell) (l : List Nat) : Cell := { x with jobs := x.jobs.map (fun j => if l.contains j.dpos then { j with lost := true, asked := false } else j) }

/-- The fault of a command that a lost connection stops: DLV 2, RST 0. -/
def lostFlt (n cause gone : Nat) : Flt := { cls := 0xC, code := 0x20, addr := wd n, aux := wd cause, aux2 := wd gone, dlv := 2, rst := false }

/-- The commands of a cell that a lost connection stops report it, the oldest in the record of its X agent (R363). -/
def stopJobs (s : State) (n cause gone c : Nat) : State :=
  let l := (s.cell c).jobs.filter (needs s n c)
  l.foldl (fun t j => raise t c .X (lostFlt n cause gone) j.pc j.dpos) (s.setCell c (loseJobs (s.cell c) (l.map (·.dpos))))

/-- A command in the saved context of a halted gang needs the connection: the record of its X agent is written at once, unless it has one in that halt,
and the gang cannot resume. -/
def stopSaved (s : State) (n cause gone : Nat) (g : Gang) : State :=
  let hit := g.saved.filter (fun p => p.2.jobs.any (needs s n p.1))
  let t := hit.foldl (fun t p => match p.2.jobs.find? (needs s n p.1) with
    | some j =>
      if g.reports.any (fun r => r.agent = agentNo p.1 .X) then t
      else
        let w := writeRecord t p.1 ⟨0xC, 0x20, agentNo p.1 .X, 2, false, j.pc, wd n, wd cause, j.dpos, t.podtime, wd gone, t.now⟩
        notify w.1 g.die (fnqEntry 0 g.kind 1 g.first (w.2.getD 0)) []
    | none => t) s
  if hit.isEmpty then s
  else { t with gangs := t.gangs.map (fun h => if h.first = g.first && h.run = .halted then
    { h with norst := true, saved := h.saved.map (fun p => (p.1, loseJobs p.2 ((p.2.jobs.filter (needs s n p.1)).map (·.dpos)))) } else h) }

/-- An alarm that this node has sent (R372): an ordinary write of 64 bytes to ALMDST of an enabled host. -/
def isAlarm (s : State) (k : Packet) : Bool :=
  k.ty = 0 && k.cls = 0 && k.addr.toNat = bits (mreg s 0x1306) 0 30 && k.data.length = 64
    && [0, 1, 2, 3].any (fun i => let h := mreg s (0x1108 + i); bit h 63 && bits h 0 12 = k.dst)

/-- The write of an alarm has failed (R375 code 0x05): WRFAIL and a die alarm. -/
def alarmFailed (s : State) : State := writeFailed s 0 (4 * firstCluster s 0)

/-- The blocks that engines hold, without the packets of a node that brought them. -/
def forgetSrc (l : Tab Cluster) (n : Nat) : Tab Cluster :=
  l.map (fun p => (p.1, { p.2 with blocks := p.2.blocks.map (fun b => if (b.src.map (·.1)) = some n then { b with src := none } else b) }))

/-- The connection to node `n` is lost: the commands that need it stop, posted writes still held are discarded, and it starts
afresh. -/
def loseConn (s : State) (n cause : Nat) : State :=
  let x := s.conn n
  let gone := (x.retry.filter (fun r => r.store.isSome)).length
  let s0 := (s.gangs.filter (fun g => g.run = .halted)).foldl (fun t g => stopSaved t n cause gone g) s
  let s1 := (s.cells.map (·.1)).foldl (fun t c => stopJobs t n cause gone c) s0
  let s2 := (s.reads.filter (fun r => r.node = n)).foldl reask s1
  let s3 := { (ackCells s2 (fun a => a.1 = n)).setConn n { Conn.reset with epoch := x.epoch + 1 } with
    reads := s2.reads.filter (fun r => r.node != n), hostq := s2.hostq.filter (fun k => k.src != n), clusters := forgetSrc s2.clusters n }
  let s4 := nodeRecord s3 0 0x20 (wd n) (wd cause) (wd gone)
  if x.retry.any (fun r => r.store.isNone && r.job.isNone && isAlarm s r.pkt) then alarmFailed s4 else s4

/-- A line of the retry store that holds a packet's copy is poisoned. -/
def retryPoisoned (s : State) (r : Retry) : Bool := poisoned s (copyAt s r.place) (64 * copyLines r.pkt)

/-- The packet as its copy in the retry store holds it (R332, R447). -/
def copyOf (s : State) (r : Retry) : Packet := packetOf (devRead s (copyAt s r.place) (64 * copyLines r.pkt))

/-- A packet is sent again from its copy, with its CSEQ; a late one goes on as its CSEQ alone, which its copy then holds. -/
def resend (s : State) (n : Nat) (r : Retry) : State :=
  let c := copyOf s r
  let late := lateOut s c
  let k := { (if late then filler c else c) with cack := ackOf s n }
  let s0 := expose s (copyAt s r.place) (64 * copyLines r.pkt)
  let x := s0.conn n
  let s1 := s0.setConn n { x with retry := x.retry.map (fun q => if q = r then { q with pkt := k, sent := s.now, times := q.times + 1 } else q) }
  launch (if late then lateRecord (devWrite s1 (copyAt s r.place) (packetBytes k)) c else s1) k

/-- R447, R448 CONNECTION_RESEND: packet `i` of those that node `n` has not acknowledged is sent again after CRTO, or the connection is
lost. -/
def execConnectionResend (n i : Nat) (s : State) : Out :=
  let t := if (s.conn n).retry.isEmpty then s else touchConn s n
  let x := t.conn n
  if n = selfNode s then .next s
  else if x.bad then .next (loseConn t n 3)
  else match x.retry[i]? with
  | none => .next s
  | some r =>
    if s.now < r.sent + crto s then .next s
    else if crmax s ≤ r.times then .next (loseConn t n 1)
    else if retryPoisoned t r then .next (loseConn t n 2)
    else .next (resend t n r)

/-! Writes and reads of this node's slice (R302, R351, R424). -/

/-- The cells that a run of a node slice touches. -/
def sliceCells (o n : Nat) : List Nat := (List.range ((o + max n 1 - 1) / 2 ^ 21 + 1 - o / 2 ^ 21)).map (fun i => o / 2 ^ 21 + i)

/-- What keeps a packet from a run of the slice: a cell beyond the configured count, or a die in Retention (R452 codes 0x24, 0x23). -/
def sliceRefused (s : State) (k : Packet) (o n : Nat) : Option (State × Bool) :=
  match (sliceCells o n).find? (fun c => decide (cellCount s ≤ c)) with
  | some c => some (nodeRecord s 0 0x24 (wd k.src) (wd (c % 512 + k.ty * 2 ^ 12)) k.addr, true)
  | none => match (sliceCells o n).find? (fun c => retained s (cellHome c)) with
    | some c => some (nodeRecord s 0 0x23 (wd k.src) (wd (dieOf s c + k.ty * 2 ^ 4)) k.addr, false)
    | none => none

/-- TYPE 0 and 1: the bytes are written, and the event of TYPE 1 is signalled after them, in the table of the die that the offset names; so is REVN of
a result (TYPE 4), by the offset of its last packet: R340 says only 'there' (log 13, DESIGN CHOICE). -/
def netWrite (s : State) (k : Packet) (ev : Option Nat) : State :=
  let o := k.addr.toNat % 2 ^ 30
  match sliceRefused s k o k.data.length with
  | some p => p.1
  | none =>
    let s1 := writeHome (exposePart s (sliceHome o) k.data.length) (sliceHome o) k.data none
    match ev with
    | some e => eventSignal s1 (dieOf s (o / 2 ^ 21)) e
    | none => s1

/-- TYPE 2: a submission of elements enters its engine with the next tickets (R91); it has applied once its block has. -/
def netScatter (s : State) (k : Packet) : State :=
  let o := k.addr.toNat % 2 ^ 30
  match sliceRefused s k o 1 with
  | some p => owe p.1 k.src
  | none => (scEnter s (clusterOf (o / 2 ^ 21)) (scElems (sliceHome o) k.aux (recsOf k.data)) (some (k.src, k.cseq, k.cls))).1

/-- TYPE 5: an arrival, applied after those that its scheduler holds (R301). -/
def netArrive (s : State) (k : Packet) : State :=
  let d := bits k.aux 12 2
  let x := s.die d
  let a : Arrive := ⟨bits k.aux 14 6, bits k.aux 20 16, k.addr.toNat, k.src, none⟩
  (x.arrivals ++ [a]).foldl (fun t q => match arriveOne t d q with
    | some t1 => arrivalDone t1 q
    | none => let y := t.die d; t.setDie d { y with arrivals := y.arrivals ++ [q] }) (s.setDie d { x with arrivals := [] })

/-- The fault of a word whose read of another node met a poisoned word at offset `o` (R431). -/
def remotePoison (n o : Nat) : Flt :=
  let a := wd (2 ^ 64 - 2 ^ 56 + 2 ^ 54 + n * 2 ^ 30 + o)
  { cls := 0xB, code := 1, addr := a, aux2 := a, dlv := 3, rst := false }

/-- TYPE 9: the answer to a read; ADDR names the request's CSEQ in [31:0], and its bit 32 a poisoned word at the offset in [62:33] (log 13). -/
def netResponse (s : State) (k : Packet) : State :=
  let q := bits k.addr 0 32
  let bad := bit k.addr 32
  let at_ := bits k.addr 33 30
  match s.reads.find? (fun r => r.node = k.src && r.cseq = q) with
  | none => s
  | some r =>
    let s1 := { s with reads := s.reads.filter (fun t => t != r) }
    match r.who with
    | .load c id =>
      if bad then match (s1.cell c).loads.find? (fun l => l.id = id) with
        | some l => fault (s1.setCell c (dropLoad (s1.cell c) l)) c l.eng (remotePoison k.src at_)
        | none => s1
      else loadResponse s1 c id k.data
    | .job c dpos o =>
      if bad then match jobAt s1 c dpos with
        | some j => jobFlt s1 c { j with asked := false } (remotePoison k.src at_)
        | none => s1
      else jobResponse s1 c dpos o k.data
    | .ik d =>
      let x := s1.die d
      if bad then ikFault (s1.setDie d { x with ik := { x.ik with sop := none } }) d (remotePoison k.src at_)
      else s1.setDie d { x with ik := { x.ik with sop := some { SOp.idle with bytes := some k.data, asked := true } } }

/-! Reductions at HOME (R339, R340). -/

/-- Op of a descriptor (R340, R92). -/
def redCombine (ty op a v : Nat) : Nat :=
  let w := if ty = 3 then 64 else 32
  if ty = 0 || ty = 4 then (if op = 0 then (fAdd fp32 0 a v).1 else fMinMax fp32 (op = 2) a v)
  else if op = 0 then (a + v) % 2 ^ w
  else
    let less := if ty = 2 then decide (v < a) else decide (intValue 2 w v < intValue 2 w a)
    if op = 1 then (if less then v else a) else (if less then a else v)

/-- The value of an element as the buffer is sent: rounded to BF16 for TYPE 4. -/
def redValue (ty acc : Nat) : Nat := if ty = 4 then (convert 6 8 0 acc).1 else acc

/-- NCON. -/
def redCount (l : List Byte) : Nat := bits (wordAt l 0) 32 13
/-- BUFOFF. -/
def redBuf (l : List Byte) : Nat := (wordAt l 0x10).toNat
/-- SIZE. -/
def redSize (l : List Byte) : Nat := (wordAt l 8).toNat

/-- One contribution to the element at offset `o` of descriptor `d`: combined, or held for the next round. The element is kept in the
reduction store too (log 13). -/
def redTake (s : State) (d o v : Nat) : State :=
  let l := redDesc s d
  let e := Tab.get ⟨0, 0⟩ s.redux (redBuf l + o)
  if redCount l ≤ e.count then { s with redHeld := s.redHeld ++ [(d, o, v)] }
  else
    let x := if redType l = 4 then v * 2 ^ 16 else v
    let acc := if e.count = 0 then x else redCombine (redType l) (redOp l) e.acc.toNat x
    let s1 := devWrite s (bits (mreg s 0x1107) 0 48 + 2 ^ 24 + redBuf l + o) (leList (redWidth (redType l)) (redValue (redType l) acc))
    { s1 with redux := Tab.set s1.redux (redBuf l + o) ⟨e.count + 1, wd acc⟩ }

/-- The elements of a descriptor's buffer. -/
def redElems (s : State) (l : List Byte) : List (Nat × RedElem) := s.redux.filter (fun p => decide (redBuf l ≤ p.1) && decide (p.1 < redBuf l + redSize l))

/-- Every element has its contributions. -/
def redFull (s : State) (l : List Byte) : Bool :=
  let e := redElems s l
  e.length * redWidth (redType l) = redSize l && e.all (fun p => decide (redCount l ≤ p.2.count))

/-- The packets of a result: to each result node, the buffer in pieces of up to 4 KiB. Above the offset, ADDR of the last one names REVN in [63:48],
and its bit 47 says that it is to be signalled (log 13). -/
def redPackets (s : State) (l : List Byte) : List Packet :=
  let b := (redElems s l).flatMap (fun p => leList (redWidth (redType l)) (redValue (redType l) p.2.acc.toNat))
  let n := (b.length + 4095) / 4096
  let rev := if bit (wordAt l 0) 45 then wd (bits (wordAt l 0) 16 16 * 2 ^ 48 + 2 ^ 47) else 0
  (List.range (min 5 (bits (wordAt l 0x20) 60 4))).flatMap (fun i => (List.range n).map (fun q =>
    { plainPacket 4 (bits (wordAt l 0x20) (12 * i) 12) (wd ((wordAt l 0x18 + wd (4096 * q)).toNat % 2 ^ 30) + (if q + 1 = n then rev else 0)) 0 ((b.drop (4096 * q)).take 4096) with
      cls := 1, stamp := s.podtime, oseq := s.oseq }))

/-- Full buffers are sent and cleared, and the contributions held for them start the next round; `fuel` bounds the rounds. -/
def redFinish (fuel : Nat) (s : State) (d : Nat) : State :=
  match fuel with
  | 0 => s
  | f + 1 =>
    let l := redDesc s d
    if !redFull s l then s
    else
      let s1 := (redPackets s l).foldl sendDev { s with oseq := s.oseq + 1 }
      let s2 := { s1 with redux := s1.redux.filter (fun p => !(decide (redBuf l ≤ p.1) && decide (p.1 < redBuf l + redSize l))), redHeld := [] }
      redFinish f (s1.redHeld.foldl (fun t h => redTake t h.1 h.2.1 h.2.2) s2) d

/-- TYPE 3: a contribution at HOME; one that does not agree with the descriptor here is discarded and recorded (R452 code 0x21). -/
def netReduce (s0 : State) (k : Packet) : State :=
  let d := bits k.addr 24 8
  let s := expose s0 (descAt s0 d) 64
  let o := bits k.addr 0 24
  let l := redDesc s d
  let w := redWidth (redType l)
  let store := bits (mreg s 0x1107) 0 48
  if retained s store then nodeRecord s 0 0x23 (wd k.src) (wd (homeDie s store + 3 * 2 ^ 4)) k.addr
  else if redHome l != selfNode s || bits k.addr 32 8 != redType l * 4 + redOp l || badReduce l o k.data.length then nodeRecord s 0 0x21 (wd k.src) (wd d) 0
  else
    let s1 := (List.range (k.data.length / w)).foldl (fun t i => redTake t d (o + w * i) (leNat ((k.data.drop (w * i)).take w))) s
    redFinish (s1.redHeld.length + 1) s1 d

/-- What a packet does when it applies, but for TYPE 2, whose elements have yet to apply. -/
def effectNow (s : State) (k : Packet) : State :=
  if k.ty = 0 then netWrite s k none
  else if k.ty = 1 then netWrite s k (some (bits k.aux 0 16))
  else if k.ty = 3 then netReduce s k
  else if k.ty = 4 then netWrite s k (if bit k.addr 47 then some (bits k.addr 48 16) else none)
  else if k.ty = 5 then netArrive s k
  else if k.ty = 9 then netResponse s k
  else s

/-- The list with the first store of a number that has left for a node, and is not marked yet, applied. -/
def markApplied (l : List Store) (id : Nat) : List Store :=
  match l with
  | [] => []
  | q :: r => if q.id = id && q.left && !q.applied && leavesNode q then { q with applied := true } :: r else q :: markApplied r id

/-- A TYPE 0 packet says that the next one of its connection belongs to the same write (R141, log 13). -/
def goesOn (k : Packet) : Bool := k.ty = 0 && k.cls = 0 && bit k.addr 63

/-- A store of this node into its own slice has applied with its last packet (R334). -/
def ownApplied (s : State) (k : Packet) : State :=
  if k.src != selfNode s || k.ty != 0 || goesOn k then s
  else match (s.conn k.src).retry.findSome? (fun r => if r.pkt.cseq = k.cseq then r.store else none) with
    | some p => match Tab.look s.cells p.1 with
      | some x => s.setCell p.1 { x with stores := markApplied x.stores p.2 }
      | none => s
    | none => s

/-- A packet applies, and its acknowledgement is due; elements enter their engine. -/
def effect (s : State) (k : Packet) : State := if k.ty = 2 then netScatter s k else owe (ownApplied (effectNow s k) k) k.src

/-! Taking packets in CSEQ order (R158, R331). -/

/-- The key (STAMP, SRC, OSEQ) of an ordered packet does not rank after another. -/
def keyLe (a b : Nat × Nat × Nat) : Bool :=
  a.1 < b.1 || (a.1 = b.1 && (a.2.1 < b.2.1 || (a.2.1 = b.2.1 && a.2.2 ≤ b.2.2)))

/-- The key of a packet. -/
def keyOf (k : Packet) : Nat × Nat × Nat := (k.stamp.toNat, k.src, k.oseq.toNat)

/-- The packet ranks at or below one that this node has delivered. -/
def lateIn (s : State) (k : Packet) : Bool := match s.delivered with | some p => keyLe (keyOf k) p | none => false

/-- The next packet of a connection: an ordinary one applies, an ordered one joins those that await delivery, a register packet or a
read awaits its event. -/
def applyNext (s : State) (n : Nat) (k : Packet) : State :=
  let x := s.conn n
  let s1 := s.setConn n { x with recv := (x.recv + 1) % 2 ^ 32, early := x.early.erase k }
  if k.cls = 1 then (if lateIn s1 k then owe (lateRecord s1 k) n else { s1 with ordered := s1.ordered ++ [(s1.now, k)] })
  else if 6 ≤ k.ty && k.ty ≤ 8 then { s1 with hostq := s1.hostq ++ [k] }
  else effect s1 k

/-- The packets of a write that starts at a CSEQ have all come (R141). -/
def allHere (fuel : Nat) (l : List Packet) (q : Nat) : Bool :=
  match fuel with
  | 0 => false
  | f + 1 => match l.find? (fun k => k.cseq = q) with
    | none => false
    | some k => !goesOn k || allHere f l ((q + 1) % 2 ^ 32)

/-- Some packet of an ordinary connection has been taken and has not had its effect: the packets after it wait (R158). -/
def waitsEffect (s : State) (n : Nat) : Bool := (notApplied s).any (fun p => p.1 = n && p.2.2 != 1)

/-- The packets of a connection that have come are taken in CSEQ order, up to one that is missing, belongs to a write of which some
are missing, or awaits its effect. -/
def settle (fuel : Nat) (s : State) (n : Nat) : State :=
  match fuel with
  | 0 => s
  | f + 1 =>
    let x := s.conn n
    if waitsEffect s n || !allHere (x.early.length + 1) x.early x.recv then s
    else match x.early.find? (fun k => k.cseq = x.recv) with
      | none => s
      | some k => settle f (applyNext s n k) n

/-- R93 SCATTER_BLOCK_APPLY: the engine of cluster `l` applies its oldest block; the packets that waited for those of it follow (R158). -/
def execScatterBlockApply (l : Nat) (s : State) : Out :=
  let s1 := scNext s l
  .next (match (s.cluster l).blocks.head?.bind (·.src) with
    | some p => settle ((s1.conn p.1).early.length) s1 p.1
    | none => s1)

/-- The peer has started the connection afresh (R448): this end starts at CSEQ 0 with it, and what it has outstanding is lost (log 13). -/
def restart (s : State) (n e : Nat) : State :=
  let x := s.conn n
  let t := if x.retry.isEmpty && !s.reads.any (fun r => r.node = n) then { s with hostq := s.hostq.filter (fun k => k.src != n), clusters := forgetSrc s.clusters n }
    else loseConn s n 1
  t.setConn n { Conn.reset with epoch := e }

/-- A packet for this node: its CACK counts at once; a duplicate is acknowledged again and discarded (R446). Where the state that it brings in is
poisoned, the connection is lost (R447). -/
def takePacket (s : State) (k : Packet) : State :=
  let t0 := touchConn s k.src
  let t := if (t0.conn k.src).epoch < k.epoch then restart t0 k.src k.epoch else t0
  let s1 := ackConn t k.src k.cack
  let x := s1.conn k.src
  if (t0.conn k.src).bad then loseConn t0 k.src 3
  else if k.epoch < x.epoch then owe t k.src
  else if k.ty = 10 && k.addr = 0 then s1
  else if 2 ^ 31 ≤ (k.cseq + 2 ^ 32 - x.recv) % 2 ^ 32 then owe s1 k.src
  else if x.early.any (fun q => q.cseq = k.cseq) then s1
  else settle (x.early.length + 1) (s1.setConn k.src { x with early := x.early ++ [k] }) k.src

/-! Ordered delivery (R303, R335, R336). -/

/-- The stamps that hold this node's injection milestone: ordered messages under way, and ordered packets that wait for room. -/
def heldStamps (s : State) : List Nat :=
  (s.cells.flatMap (fun p => p.2.jobs.filterMap (fun j => j.stamp)) ++ s.gangs.flatMap (fun g => g.saved.flatMap (fun p => p.2.jobs.filterMap (fun j => j.stamp)))
    ++ (s.sendq.filter (fun k => k.cls = 1)).map (fun k => k.stamp)).map (fun w => w.toNat)

/-- The milestone of this node's own injection. -/
def injection (s : State) : Nat := (heldStamps s).foldl min s.podtime.toNat

/-- The ports that count as inputs: enabled and not down. -/
def inputs (s : State) : List Nat := (List.range 18).filter (fun p => bit (s.port p).ctl 63 && (s.port p).state != 3)

/-- The lowest milestone of this node's inputs and its own injection. -/
def floorMs (s : State) : Nat := ((inputs s).map (fun p => (s.port p).msRecv.toNat)).foldl min (injection s)

/-- The ordered packet of least key; of one message the first taken. -/
def firstOrdered (s : State) : Option (Nat × Packet) :=
  s.ordered.foldl (fun b p => match b with
    | none => some p
    | some q => if keyLe (keyOf q.2) (keyOf p.2) then some q else some p) none

/-- The ordered packets that are in this node and cannot be taken yet: those turned round inside it, and those behind a missing CSEQ. -/
def onTheWay (s : State) : List Packet := (s.selfq ++ s.conns.flatMap (fun c => c.2.early)).filter (fun k => k.cls = 1)

/-- A packet is held (R336): every milestone has yet to pass its stamp, one that ranks before it or belongs to its message is on its way in this node, or
elements of an ordered packet delivered before it have not applied (R159). -/
def heldBack (s : State) (k : Packet) : Bool :=
  decide (floorMs s ≤ k.stamp.toNat) || (onTheWay s).any (fun q => keyLe (keyOf q) (keyOf k))
    || s.clusters.any (fun c => c.2.blocks.any (fun b => match b.src with | some p => p.2.2 = 1 | none => false))

/-- R336 ORDERED_DELIVERY: the first packet in key order is delivered once every milestone has passed its stamp. -/
def execOrderedDelivery (s : State) : Out :=
  match firstOrdered s with
  | none => .next s
  | some p =>
    if s.now ≤ p.1 || heldBack s p.2 then .next s
    else .next (effect { s with ordered := s.ordered.erase p, delivered := some (keyOf p.2) } p.2)

/-! The host and reads of other nodes (R326, R343). -/

/-- A node named in an enabled HOSTi, once boot is complete (R346). -/
def hostEnabled (s : State) (n : Nat) : Bool :=
  s.booted && [0, 1, 2, 3].any (fun i => let h := mreg s (0x1108 + i); bit h 63 && bits h 0 12 = n)

/-- The packet at a place of the host queue, if it is of the TYPE. -/
def hostPacket (s : State) (i ty : Nat) : Option Packet := (s.hostq[i]?).filter (fun k => k.ty = ty)

/-- A packet of the host queue has applied: the packets of its connection that waited for it follow. -/
def hostDone (s : State) (k : Packet) : State :=
  let s1 := owe { s with hostq := s.hostq.erase k } k.src
  settle ((s1.conn k.src).early.length) s1 k.src

/-- The register that a packet names: ADDR [12:0]. -/
def hostReg (k : Packet) : Nat := bits k.addr 0 13
/-- The die that a register packet names. -/
def hostDie (k : Packet) : Nat := bits k.addr 14 2

/-- The record of R452 code 0x22. -/
def hostRefused (s : State) (k : Packet) (why : Nat) : State := nodeRecord s 0 0x22 (wd k.src) (wd (hostReg k)) (wd why)

/-- R343 HOST_REGISTER_WRITE: the TYPE 6 packet at place `i` of the host queue writes QTAILn, or is refused. -/
def execHostRegisterWrite (i : Nat) (s : State) : Out :=
  match hostPacket s i 6 with
  | none => .next s
  | some k =>
    let n := hostReg k
    let s1 := if !hostEnabled s k.src then hostRefused s k 0
      else if inRun n 0x4C0 64 then takeTail s (hostDie k) (n - 0x4C0) (leNat (k.data.take 8) % 2 ^ 16) k.src
      else hostRefused s k 1
    .next (hostDone s1 k)

/-- What a register that R343 opens reads as. -/
def hostRead (s : State) (k : Packet) : Option Word :=
  let n := hostReg k
  if inRun n 0x480 64 then some (readDie s (hostDie k) n)
  else if n = 6 then some s.podtime
  else if inRun n 0x1200 64 then some (readModule s n)
  else none

/-- The answer to a request, as a TYPE 9 packet to its node; `bad` is the offset of a poisoned word that it meets. -/
def respond (s : State) (k : Packet) (bad : Option Nat) (b : List Byte) : State :=
  let p := match bad with | some o => o % 2 ^ 30 * 2 ^ 33 + 2 ^ 32 | none => 0
  sendDev s (plainPacket 9 k.src (wd (k.cseq % 2 ^ 32 + p)) 0 b)

/-- R343 HOST_REGISTER_READ: the TYPE 7 packet at place `i` of the host queue is answered; a register that is not open reads 0. -/
def execHostRegisterRead (i : Nat) (s : State) : Out :=
  match hostPacket s i 7 with
  | none => .next s
  | some k =>
    let s1 := if !hostEnabled s k.src then hostRefused s k 0
      else match hostRead s k with
        | some v => respond s k none (wordBytes v)
        | none => respond (hostRefused s k 1) k none (wordBytes 0)
    .next (hostDone s1 k)

/-- The bytes of this node's slice that answer a request: those that a load of its own cell sees (R145, R334), else the home's. -/
def readFor (s : State) (k : Packet) (h n : Nat) : List Byte :=
  match s.reads.findSome? (fun r => if k.src = selfNode s && r.node = k.src && r.cseq = k.cseq then (match r.who with
    | .load c i => some (c, i)
    | .job c i _ => (jobAt s c i).map (fun j => (c, j.seen))
    | _ => none) else none) with
  | some p => loadBytes s p.1 p.2 h n none
  | none => readHome s h n none

/-- R326 READ_REQUEST: the TYPE 8 packet at place `i` of the host queue reads this node's slice and is answered; ADDR holds the offset and above bit 31
the length (log 13). -/
def execReadRequest (i : Nat) (s : State) : Out :=
  match hostPacket s i 8 with
  | none => .next s
  | some k =>
    let o := k.addr.toNat % 2 ^ 30
    let n := min 4096 (bits k.addr 32 13)
    let s1 := match sliceRefused s k o n with
      | some (t, true) => respond t k none (List.replicate n 0)
      | some (t, false) => t
      | none =>
        let h := sliceHome o
        if poisoned s h n then respond (expose s h n) k (some (poisonAt s h n - 2 ^ 60)) []
        else respond (expose s h n) k none (readFor (expose s h n) k h n)
    .next (hostDone s1 k)

/-! Pod time (R338). -/

/-- PTCTL.MASTER. -/
def isMaster (s : State) : Bool := bit (mreg s 0x1101) 0

/-- Timing words of a lower-numbered master reach this node. -/
def hearsLower (s : State) : Bool := match s.heard with | some m => decide (m < selfNode s) | none => false

/-- The master and the time that this node's lanterns carry: its own number or the master it follows, and its count; a master that hears a
lower-numbered one sends none. -/
def timingWord (s : State) : Option (Nat × Word) :=
  if isMaster s then (if hearsLower s then none else some (selfNode s, s.podtime)) else s.heard.map (fun m => (m, s.podtime))

/-- PTCTL.LOCKED falls (R452 code 0x16). -/
def unlock (s : State) : State := if s.locked then nodeRecord { s with locked := false } 0 0x16 0 0 s.podtime else s

/-- This master gives way to a lower-numbered one (R452 code 0x17). -/
def giveWay (s : State) (m : Nat) : State := nodeRecord (unlock { s with heard := some m }) 0 0x17 (wd m) 0 s.podtime

/-- How far this node's count lies from the time that a timing word gives as it arrives at a port. -/
def skew (s : State) (p : Nat) (t : Word) : Int := (t + wd (Config.linkDelay p) - s.podtime).toInt

/-- The count is disciplined towards a master's: LOCKED while it lies within 32 units of it, and slewed by one unit at most in 4,096 (R338, log 37). -/
def discipline (s : State) (d : Int) : State :=
  let s1 := if -32 ≤ d && d ≤ 32 then { s with locked := true } else unlock s
  if d = 0 || s.now < s.slewAt + 4096 then s1 else { s1 with slew := some (decide (0 < d)), slewAt := s.now }

/-- A timing word arrives at a port: the lowest-numbered master is followed. -/
def hear (s : State) (p : Nat) (w : Option (Nat × Word)) : State :=
  match w with
  | none => s
  | some m =>
    if m.1 = selfNode s || (isMaster s && selfNode s < m.1) || (match s.heard with | some h => decide (h < m.1) | none => false) then s
    else if isMaster s && !hearsLower s then giveWay s m.1
    else discipline { s with heard := some m.1 } (skew s p m.2)

/-- R338 TIME_MASTER_SET: a write sets PTCTL.MASTER; with no lower-numbered master heard the node is LOCKED at once. -/
def execTimeMasterSet (s : State) : Out :=
  match takeWrite s (fun w => w.reg = 0x1101 && bit w.val 0 && !isMaster s) with
  | some (s1, w) =>
    let s2 := setMreg s1 0x1101 (fieldWrite 0x1101 (mreg s1 0x1101) w.val)
    .next (if hearsLower s2 then giveWay s2 (s2.heard.getD 0) else { s2 with locked := true })
  | none => .next s

/-- R452 LOCK_LOST: the bounds of R338 no longer hold on a node that follows a master, or no master's timing words reach it: it then follows none, so that
it may follow a higher-numbered one. A master that gave way follows the lower one until its MASTER is cleared. -/
def execLockLost (s : State) : Out :=
  if !isMaster s then .next (unlock { s with heard := none })
  else if s.locked && hearsLower s then .next (unlock s)
  else .next s

end Sys2Proof.Machine
end

