-- ==== Sys2Proof/Machine/Fetch.lean ====
section
/-!
DEFINITION. How an agent and the Innkeeper look at the next word of the text (R38, R182, R379), what they do with a
word that is no instruction (R377, R189) and with one that cannot be fetched (R380, R381).
-/
namespace Sys2Proof.Machine

/-- The extension word lies on another page than the first (R381). -/
def crossesPage (pc : Word) : Bool := pc.toNat / 2 ^ 16 != (pc.toNat + 4) / 2 ^ 16

/-- The text word at `va` for an agent: from its replay buffer while it loops, else through the fetch cache. -/
def agentWord (s : State) (c : Nat) (e : Engine) (va : Word) (second : Bool) : State × Res (BitVec 32) :=
  match Tab.look ((s.cell c).agent e).replay (va.toNat / 4) with
  | some w => (s, .ok w)
  | none => fetchWord s (.agent c e) va second

/-- An agent reads its next word, and the extension only where the word is its own (R379, R381). -/
def agentFetch (s : State) (c : Nat) (e : Engine) : State × Res (BitVec 32 × BitVec 32) :=
  let pc := ((s.cell c).agent e).pc
  match agentWord s c e pc false with
  | (s1, .flt f) => (s1, .flt f)
  | (s1, .ok w) =>
    if wordTag w == engCode e && eBit w then
      match agentWord s1 c e (pc + 4) (crossesPage pc) with
      | (s2, .flt f) => (s2, .flt f)
      | (s2, .ok x) => (s2, .ok (w, x))
    else (s1, .ok (w, 0))

/-- The words read while a loop runs go into the replay buffer. -/
def keepReplay (s : State) (c : Nat) (e : Engine) (w : BitVec 32 × BitVec 32) : State :=
  let x := s.cell c
  let a := x.agent e
  if a.levels.isEmpty then s
  else
    let k := a.pc.toNat / 4
    let r := Tab.set a.replay k w.1
    s.setCell c (x.setAgent e { a with replay := if wordTag w.1 == engCode e && eBit w.1 then Tab.set r (k + 1) w.2 else r })

/-- What an agent does at the word it has read (R38, R39, R216, R217). V, M and X read [7:3] of an LSTG with E = 1 as well, which is no instruction
for S (R379). -/
def choose (s : State) (c : Nat) (e : Engine) (w x : BitVec 32) : Instr :=
  let a := (s.cell c).agent e
  let own := wordTag w == engCode e
  if a.skipTo.isSome then .skipWord
  else match (if e = .S then none else lstgFields w) with
    | some f => .lstg f.1 (BitVec.ofBool f.2.1) (BitVec.ofBool f.2.2)
    | none =>
      if own && (lstgFields w).isSome then (match decode w x with | .instr i => i | .bad _ => .notAnInstruction)
      else if !own && !isAllAgent w then .skipWord
      else if !stageOk a then .skipWord
      else if !own then .outcomeTake
      else match decode w x with
        | .instr i => i
        | .bad _ => .notAnInstruction

/-- The Innkeeper reads its next instruction (R26, R237), and the extension of every word whose E is 1. R237 does not say whether it reads that of another
engine's word, which is no instruction on it: here it does, so where the next page cannot be fetched the fault is the fetch's (log 66, DESIGN CHOICE). -/
def ikFetch (s : State) (d : Nat) : State × Res (BitVec 32 × BitVec 32) :=
  let pc := (s.die d).ik.pc
  match fetchWord s (.ik d) pc false with
  | (s1, .flt f) => (s1, .flt f)
  | (s1, .ok w) =>
    if eBit w then
      match fetchWord s1 (.ik d) (pc + 4) (crossesPage pc) with
      | (s2, .flt f) => (s2, .flt f)
      | (s2, .ok x) => (s2, .ok (w, x))
    else (s1, .ok (w, 0))

/-- What the Innkeeper does at a word (R237): a word of another engine is no instruction on it. -/
def ikChoose (w x : BitVec 32) : Instr :=
  if wordTag w != 0 then .notAnInstruction
  else match decode w x with
    | .instr i => i
    | .bad _ => .notAnInstruction

/-- The code of R378 for a word that is no instruction. -/
def badCode (w x : BitVec 32) : Nat :=
  match decode w x with
  | .bad b => b.code
  | .instr _ => 1

/-- The word is no word of the Innkeeper's whatever its fields hold (R237): another engine's, or a closure, frame or channel word, LOOP,
LSTG, APPLY or HALT. -/
def ikExcluded (w : BitVec 32) : Bool :=
  let o := (fld w 18 7).toNat
  wordTag w != 0 || (decide (0x48 ≤ o) && decide (o ≤ 0x4E)) || (decide (0x5C ≤ o) && decide (o ≤ 0x5F)) || (decide (0x6A ≤ o) && decide (o ≤ 0x6D))

/-- Traps on invalid or on overflow or zero divide keep V from issuing past a word that has not landed (R412). -/
def trapWait (x : Cell) (e : Engine) : Bool := e = .V && bits x.arithctl 0 3 != 0 && !x.pend.isEmpty

/-- R189, R377 NOT_AN_INSTRUCTION: the agent whose tag the word bears reports class 0x01 when it would issue it; the
Innkeeper takes its entry. -/
def execNotAnInstruction (s : State) : Out :=
  match s.cur with
  | .ik d =>
    match ikFetch s d with
    | (s1, .flt f) => .next (ikFault s1 d f)
    | (s1, .ok w) => .next (ikBad s1 d (if ikExcluded w.1 then 1 else badCode w.1 w.2))
  | .agent c e =>
    let s0 := flushSig s c e
    match agentFetch s0 c e with
    | (s1, .flt f) => .next (fault s1 c e f)
    | (s1, .ok w) =>
      match blocked s1 c e (fld w.1 25 4) (wordCount w.1) with
      | some v => .next (waits s1 c e v)
      | none => if trapWait (s1.cell c) e then .next (waits s1 c e .other)
          else .next (fault s1 c e { cls := 1, code := badCode w.1 w.2, aux := auxOf w })

/-- R380, R381 FETCH_TRANSLATION_FAULT: the word at PC, or the extension of the agent's own word, cannot be fetched. -/
def execFetchTranslationFault (s : State) : Out :=
  match s.cur with
  | .ik d =>
    match ikFetch s d with
    | (s1, .flt f) => .next (ikFault s1 d f)
    | (s1, .ok _) => .next s1
  | .agent c e =>
    let s0 := flushSig s c e
    match blocked s0 c e 0 0 with
    | some v => .next (waits s0 c e v)
    | none => if trapWait (s0.cell c) e then .next (waits s0 c e .other) else match agentFetch s0 c e with
      | (s1, .flt f) => .next (fault s1 c e f)
      | (s1, .ok _) => .next s1

end Sys2Proof.Machine
end

