-- ==== Sys2Proof/Machine/Link.lean ====
section
/-!
DEFINITION. Fabric ports (R324 to R328, R335, R341, R342, R440 to R444, R449, R450): sealing and sending flits, receiving them, link
retry, lanes, widths, the milestone of each input, and the slot tables of the on-die network (R329).
-/
namespace Sys2Proof.Machine

/-! Parts of a port. -/

/-- The port is enabled and up. -/
def portUp (x : Port) : Bool := bit x.ctl 63 && x.state = 0
/-- Key slot `n` of a port. -/
def slotKey (x : Port) (n : Nat) : LinkKey := Tab.get LinkKey.reset x.keys n
/-- The WIDTH code of so many lanes: the largest width of R324 that they support. -/
def widthCode (n : Nat) : Nat := if 8 ≤ n then 0 else if 4 ≤ n then 1 else if 2 ≤ n then 2 else 3
/-- The width a port runs at: that of PORTCTLp, or less where its lanes support less. -/
def portWidth (x : Port) : Nat := max (bits x.ctl 0 2) (widthCode x.lanes)
/-- A field that saturates at 65,535. -/
def sat16 (n : Nat) : Nat := min 65535 (n + 1)
/-- LINKCTL.LRTO in cell cycles. -/
def lrto (s : State) : Nat := net (max 1 (bits (mreg s 0x110C) 0 16))
/-- LINKCTL.RMAX. -/
def rmax (s : State) : Nat := max 1 (bits (mreg s 0x110C) 16 8)
/-- LANTCTL.MSBOUND. -/
def msBound (s : State) : Nat := bits (mreg s 0x1102) 32 32

/-- A flit is a key marker. -/
def isMarker (f : Flit) : Bool := f.kind = 3

/-! The image of a flit (R325, R341). -/

/-- Bytes filled up with zeros to the 224 of a payload. -/
def payload (b : List Byte) : List Byte := (b ++ List.replicate 224 0).take 224

/-- The link header. -/
def flitHeader (f : Flit) : List Byte :=
  wordBytes f.ms ++ wordBytes (wd (f.kind % 2 ^ 4 * 2 ^ 60 + f.slot % 2 * 2 ^ 59 + f.lseq % 2 ^ 24 * 2 ^ 32 + f.lack % 2 ^ 24 * 2 ^ 8))

/-- The IV of a slot at a counter: the salt, then the counter, most significant byte first. -/
def flitIv (k : LinkKey) (ctr : Nat) : List Byte := leList 4 k.salt.toNat ++ (leList 8 ctr).reverse

/-- A flit sealed under a slot at a counter: header, encrypted payload, tag. -/
def sealFlit (k : LinkKey) (ctr : Nat) (f : Flit) : List Byte :=
  let rk := roundKeys (leList 32 k.key.toNat)
  let c := gcmCrypt rk (flitIv k ctr) f.body
  flitHeader f ++ c ++ gcmTag rk (flitIv k ctr) (flitHeader f) c

/-- The header fields of an image. -/
def flitOf (b body : List Byte) : Flit :=
  let w := wordAt b 8
  ⟨wordAt b 0, bits w 60 4, bits w 59 1, bits w 32 24, bits w 8 24, body⟩

/-- An image opened under a slot at a counter, if its tag checks. -/
def openFlit (k : LinkKey) (ctr : Nat) (b : List Byte) : Option Flit :=
  let rk := roundKeys (leList 32 k.key.toNat)
  let c := (b.drop 16).take 224
  if b.length = 256 && b.drop 240 == gcmTag rk (flitIv k ctr) (b.take 16) c then some (flitOf b (gcmCrypt rk (flitIv k ctr) c)) else none

/-! Sealing and sending (R325, R327, R335, R341, R342, R449). -/

/-- The MS that a port sends: never below the one before; at most the node's milestones and the ordered packets queued here. -/
def milestone (s : State) (p : Nat) : Nat :=
  let x := s.port p
  max x.msSent.toNat (((x.txq.filter (fun k => k.cls = 1)).map (fun k => k.stamp.toNat)).foldl min (floorMs s))

/-- The slot that TXS names is loaded and may seal one more flit: 2^40 - 1 of them, and a marker after those. -/
def canSeal (x : Port) (marker : Bool) : Bool :=
  (slotKey x x.txs).loaded && (decide ((slotKey x x.txs).tx < 2 ^ 40 - 1) || (marker && decide ((slotKey x x.txs).tx < 2 ^ 40)))

/-- The retry buffer has room (R327). -/
def hasRoom (x : Port) : Bool := x.buf.length < 1024

/-- NEAR becomes 1 once TXCNT has reached THRESH, and signals EVN of the port's die. -/
def watchNear (s : State) (p : Nat) : State :=
  let x := s.port p
  if x.near || (slotKey x x.txs).tx < bits x.lkctl 0 40 then s
  else
    let s1 := s.setPort p { x with near := true }
    if bit x.lkctl 47 then eventSignal s1 (dieOfPort p) (bits x.lkctl 48 16) else s1

/-- A new flit is sealed and sent, with what goes beside it; a slot that has sealed 2^40 - 1 flits with no XKEYSW under way is recorded (R452 code 0x13). -/
def sendFlit (s : State) (p kind : Nat) (b beside : List Byte) : State :=
  let x := s.port p
  let k := slotKey x x.txs
  let ms := wd (milestone s p)
  let f : Flit := ⟨ms, kind, x.txs, x.lseq, x.lack, b⟩
  let image := sealFlit k k.tx f
  let s1 := watchNear (s.setPort p { x with
    lseq := (x.lseq + 1) % 2 ^ 24, msSent := ms, lastTx := max x.lastTx s.now, buf := x.buf ++ [⟨f, image, 0⟩], wireOut := x.wireOut ++ [image ++ beside]
    ackTime := if x.buf.isEmpty && x.ackTime + lrto s ≤ s.now then s.now else x.ackTime
    keys := Tab.set x.keys x.txs { k with tx := k.tx + 1, sealed := true } }) p
  if k.tx + 2 = 2 ^ 40 && x.switching.isNone then nodeRecord s1 (dieOfPort p) 0x13 (wd p) (wd x.txs) (wd (k.tx + 1)) else s1

/-- The old slot retires once every flit before the marker is acknowledged, and XKEYSW completes (R309). -/
def finishSwitch (s : State) (p : Nat) : State :=
  let x := s.port p
  match x.mark, x.switching with
  | some m, some (c, i) =>
    if x.buf.any (fun h => h.flit.lseq = m) && (x.buf.head?.map (fun h => h.flit.lseq)) != some m then s
    else
      let s1 := s.setPort p { x with mark := none, switching := none, near := false }
      match Tab.look s1.cells c with
      | some y => s1.setCell c (markReached y y.tile i)
      | none => s1
  | _, _ => s

/-- The marker of an XKEYSW is due: every packet queued before it has left, or its slot seals nothing else. -/
def markerDue (x : Port) : Bool := x.switching.isSome && x.mark.isNone && (x.ahead = 0 || !canSeal x false)

/-- The payload of a key marker (R342). -/
def markerBody (slot : Nat) (kid : BitVec 32) : List Byte := payload ([BitVec.ofNat 8 slot, 0, 0, 0] ++ leList 4 kid.toNat)

/-- The marker is sent under the old slot; later flits are sealed under the other one (R309). -/
def sendMarker (s : State) (p : Nat) : State :=
  let x := s.port p
  let s1 := sendFlit s p 3 (markerBody (1 - x.txs) (slotKey x (1 - x.txs)).kid) []
  let y := s1.port p
  finishSwitch (s1.setPort p { y with txs := 1 - x.txs, mark := some x.lseq }) p

/-- The payload of flit `n` of a packet (R326): the first begins with the packet header. -/
def flitBody (k : Packet) (n : Nat) : List Byte := payload ((packetBytes k).drop (224 * n))

/-- R326 PACKET_TRANSMIT: port `p` sends the next flit of the first packet queued, or a key marker that is due. A width change takes effect before
the first flit of a packet (R324). -/
def execPacketTransmit (p : Nat) (s : State) : Out :=
  let x := s.port p
  if 18 ≤ p || !portUp x || !hasRoom x then .next s
  else if markerDue x then (if canSeal x true then .next (sendMarker s p) else .next s)
  else match x.txq with
    | [] => .next s
    | k :: _ =>
      if !canSeal x false then .next s
      else
        let s0 := if x.part = 0 then s.setPort p { x with width := portWidth x } else s
        let s1 := sendFlit s0 p (if x.part = 0 then 0 else 1) (flitBody k x.part) []
        let y := s1.port p
        if flitCount k.data.length ≤ x.part + 1 then .next (s1.setPort p { y with txq := y.txq.tail, part := 0, ahead := y.ahead - 1 })
        else .next (s1.setPort p { y with part := x.part + 1 })

/-- The payload of a lantern: 224 zero bytes (R328). -/
def lanternBody : List Byte := payload []

/-- A timing word as it goes with a lantern, beside the 256 bytes of the flit: the master with bit 63 set, then the time. R338 puts timing words on lanterns, and
neither the header of R325 nor the payload of R328 has a place for them: that they go beside the flit is a DESIGN CHOICE (log 22). -/
def timingBytes (w : Option (Nat × Word)) : List Byte :=
  match w with
  | some m => wordBytes (wd (2 ^ 63 + m.1 % 2 ^ 12)) ++ wordBytes m.2
  | none => []

/-- The timing word that has come with a lantern. -/
def lanternWord (b : List Byte) : Option (Nat × Word) := if bit (wordAt b 0) 63 then some (bits (wordAt b 0) 0 12, wordAt b 8) else none

/-- LANTCTL.LANTP in cell cycles: 0 acts as 1 (R337). -/
def lanternPeriod (s : State) : Nat := net (max 1 (bits (mreg s 0x1102) 0 16))

/-- The transmit side of a port is idle and can send a lantern. -/
def lanternReady (x : Port) : Bool := portUp x && hasRoom x && x.txq.isEmpty && !markerDue x && canSeal x false

/-- R328 LANTERN: an idle port sends a lantern, with the timing word of R338 beside it, LANTP network cycles after its last flit at the latest. -/
def execLantern (p : Nat) (s : State) : Out :=
  if 18 ≤ p || !lanternReady (s.port p) then .next s else .next (sendFlit s p 2 lanternBody (timingBytes (timingWord s)))

/-! Receiving (R327, R440, R441, R450). -/

/-- LACK from the peer: the flits it covers leave the retry buffer. -/
def takeLack (s : State) (p lack : Nat) : State :=
  let x := s.port p
  match x.buf with
  | [] => s
  | h :: _ =>
    let n := (lack + 2 ^ 24 - h.flit.lseq) % 2 ^ 24
    if n = 0 || x.buf.length < n then s
    else finishSwitch (s.setPort p { x with buf := x.buf.drop n, acked := lack, ackTime := s.now }) p

/-- The LACK of a flit lies below the oldest flit held (R441). -/
def staleLack (x : Port) (f : Flit) : Bool :=
  match x.buf with
  | [] => false
  | h :: _ => let n := (h.flit.lseq + 2 ^ 24 - f.lack) % 2 ^ 24; n != 0 && n < 2 ^ 23

/-- A flit opened: its header names the slot that receives, which is loaded, and its tag checks at the counter that is `d` accepted flits on
from the slot's (R341). -/
def openAt (x : Port) (d : Nat) (b : List Byte) : Option Flit :=
  let k := slotKey x x.rxs
  if k.loaded && (flitOf b []).slot = x.rxs then openFlit k (k.rx + d) b else none

/-- A flit that does not come next and is discarded, opened at the counter of its LSEQ: where its tag checks there its LACK counts (R327, R441, R455,
log 13). -/
def discarded (x : Port) (b : List Byte) : Option Flit :=
  let back := (x.expect + 2 ^ 24 - (flitOf b []).lseq) % 2 ^ 24
  let ahead := (2 ^ 24 - back) % 2 ^ 24
  let k := slotKey x x.rxs
  if back ≤ k.rx && back < 2 ^ 23 then openAt { x with keys := Tab.set x.keys x.rxs { k with rx := k.rx - back } } 0 b else openAt x ahead b

/-- The LACK of a discarded flit: it covers flits held, or lies below the oldest of them (R441). -/
def lackOnly (s : State) (p : Nat) (b : List Byte) : State :=
  match discarded (s.port p) b with
  | some f => let x := s.port p; takeLack (s.setPort p { x with stale := x.stale || staleLack x f }) p f.lack
  | none => s

/-- The packet whose flits have come is whole. -/
def wholePacket (l : List Flit) : Bool :=
  match l with
  | [] => false
  | f :: _ => if f.kind = 0 then decide (l.length = flitCount (bits (wordAt f.body 0) 21 13)) else true

/-- A received MS: the last one accepted on the input, and the end of a stall (R444). -/
def takeMs (s : State) (x : Port) (ms : Word) : Port :=
  { x with msRecv := ms, episode := x.episode && decide (msBound s < s.podtime.toNat - ms.toNat) }

/-- A flit is accepted: its counter, LSEQ, MS and LACK count. -/
def accept (s : State) (p : Nat) (f : Flit) : State :=
  let x := s.port p
  let y := takeMs s { x with
    expect := (x.expect + 1) % 2 ^ 24, keys := Tab.set x.keys x.rxs { slotKey x x.rxs with rx := (slotKey x x.rxs).rx + 1 }, stale := x.stale || staleLack x f, authBad := false } f.ms
  takeLack (s.setPort p y) p f.lack

/-- LACK advances past everything accepted. -/
def ackAll (s : State) (p : Nat) : State := let x := s.port p; s.setPort p { x with lack := x.expect }

/-- LACK advances past a lantern or marker, but not over the flits of a packet that has not come whole (R440). -/
def ackPast (s : State) (p : Nat) : State := if (s.port p).rxq.isEmpty then ackAll s p else s

/-- A marker names a slot that is loaded with its KID and has sealed nothing since (R450). -/
def markerOk (x : Port) (slot kid : Nat) : Bool := let k := slotKey x slot; k.loaded && !k.sealed && k.kid.toNat = kid

/-- A marker that is refused is recorded once (R452 code 0x14) and discarded, without advancing LACK. -/
def refuseMarker (s : State) (p lseq slot kid : Nat) : State :=
  let x := s.port p
  if x.refused = some lseq then s else nodeRecord (s.setPort p { x with refused := some lseq }) (dieOfPort p) 0x14 (wd p) (wd slot) (wd kid)

/-- A flit that comes next in LSEQ order and passes its tag check; one of a KIND not used is accepted and has no effect (log 13). A packet's first flit
comes at the width that is asked for then (R324); the timing word `w` came with a lantern. -/
def takeFlit (s : State) (p : Nat) (f : Flit) (w : Option (Nat × Word)) : State :=
  if f.kind = 3 then
    let slot := (byteAt f.body 0).toNat
    let kid := leNat ((f.body.drop 4).take 4)
    if markerOk (s.port p) slot kid then
      let s1 := ackPast (accept s p f) p
      let y := s1.port p
      s1.setPort p { y with rxs := slot, refused := none }
    else refuseMarker s p f.lseq slot kid
  else if f.kind = 0 then
    let s1 := accept s p f
    let y := s1.port p
    s1.setPort p { y with rxq := [f], rwidth := portWidth y }
  else if f.kind = 1 then
    let s1 := accept s p f
    let y := s1.port p
    s1.setPort p { y with rxq := y.rxq ++ [f] }
  else hear (ackPast (accept s p f) p) p (if f.kind = 2 then w else none)

/-- R327, R441 FLIT_RECEIVE: the next flit that has come in on port `p` is accepted or discarded. While a whole packet waits to be taken
the flit waits. -/
def execFlitReceive (p : Nat) (s : State) : Out :=
  let x := s.port p
  match x.wireIn with
  | [] => .next s
  | b :: r =>
    if 18 ≤ p || wholePacket x.rxq then .next s
    else
      let y := { x with wireIn := r }
      let g := b.take 256
      if !portUp x then .next (s.setPort p y)
      else if (flitOf g []).lseq != x.expect then .next (lackOnly (s.setPort p y) p g)
      else match openAt x 0 g with
        | none => .next (s.setPort p { y with authf := sat16 x.authf, authBad := true })
        | some f => .next (takeFlit (s.setPort p y) p f (lanternWord (b.drop 256)))

/-- The packet that the flits of a port make up. -/
def assemble (l : List Flit) : Option Packet :=
  match l with
  | [] => none
  | f :: _ => if f.kind = 0 then some (packetOf (l.flatMap (fun g => g.body))) else none

/-- R440 PACKET_RECEIVE: the whole packet that port `p` holds is applied here or forwarded, once; 18 names the packets that are
turned round inside the module (R334, log 13). -/
def execPacketReceive (p : Nat) (s : State) : Out :=
  if p = 18 then
    match s.selfq with
    | [] => .next s
    | k :: r => .next (takePacket { s with selfq := r } k)
  else
    let x := s.port p
    if !wholePacket x.rxq then .next s
    else
      let s1 := ackAll (s.setPort p { x with rxq := [] }) p
      match assemble x.rxq with
      | some k => .next (if k.dst = selfNode s then takePacket s1 k else forward s1 k)
      | none => .next s1

/-! Link retry and broken links (R441, R443). -/

/-- The LSEQ of the oldest flit held, or the next one. -/
def oldestLseq (x : Port) : Nat := (x.buf.head?.map (fun h => h.flit.lseq)).getD x.lseq

/-- The link is broken (R452 code 0x11): `why` is 1 lanes, 2 the retry limit, 3 authentication. -/
def breakLink (s : State) (p why : Nat) : State :=
  let x := s.port p
  nodeRecord (s.setPort p { x with state := 2 }) (dieOfPort p) 0x11 (wd p) (wd why) (wd (oldestLseq x))

/-- The peer may be refusing a marker (R450): the oldest flit held is one, or one follows what is held of a packet that is not whole (R440, R449). -/
def markerHeld (x : Port) : Bool :=
  let l := x.buf.map (·.flit)
  let before := l.takeWhile (fun f => !isMarker f)
  l.any isMarker && (before.isEmpty || (before.tail.all (fun f => f.kind = 1) && !wholePacket before))

/-- The cell cycles that `n` flits take at a width code: 16/7 network cycles each at 8 lanes (R324). -/
def flitTime (w n : Nat) : Nat := net ((16 * n * 2 ^ w + 6) / 7)

/-- Every unacknowledged flit is sent again, byte for byte; while the peer may be refusing a marker the resends are not counted (R450, log 13). -/
def resendAll (x : Port) (now : Nat) : Port :=
  let n := if markerHeld x then 0 else 1
  { x with buf := x.buf.map (fun h => { h with resent := h.resent + n }), wireOut := x.wireOut ++ x.buf.map (fun h => h.image)
           resend := sat16 x.resend, ackTime := now, stale := false, lastTx := now + flitTime x.width x.buf.length }

/-- R441 LINK_RESEND: LACK has stood for LRTO, or an old LACK has come: the flits held are sent again, or the link is broken, for authentication
where nothing has been accepted since a tag check failed (log 13). -/
def execLinkResend (p : Nat) (s : State) : Out :=
  let x := s.port p
  if 18 ≤ p || !portUp x || x.buf.isEmpty || !(x.stale || decide (x.ackTime + lrto s ≤ s.now)) then .next s
  else if x.buf.any (fun h => decide (rmax s ≤ h.resent)) then .next (breakLink s p (if x.authBad then 3 else 2))
  else .next (s.setPort p (resendAll x s.now))

/-- The receive counter of slot `n` goes back by `k` flits. -/
def rxBack (x : Port) (n k : Nat) : Port := { x with keys := Tab.set x.keys n { slotKey x n with rx := (slotKey x n).rx - k } }

/-- The receiving side drops the flits of a packet that is not whole, and each slot's counter and LSEQ go back to the first of them (R442), and so
does a marker that came between them (R449). -/
def dropPartial (x : Port) : Port :=
  match x.rxq with
  | [] => x
  | f :: _ =>
    let n := (x.expect + 2 ^ 24 - f.lseq) % 2 ^ 24
    let k := (x.rxq.filter (fun g => g.slot = f.slot)).length + 1
    if wholePacket x.rxq then x
    else if f.slot = x.rxs then rxBack { x with rxq := [], expect := f.lseq } x.rxs n
    else rxBack (rxBack { x with rxq := [], expect := f.lseq, rxs := f.slot } x.rxs (n - k)) f.slot k

/-- The flits held of the packet that is partly sent. -/
def partFlits (x : Port) : Nat :=
  if x.part = 0 then 0 else (x.buf.reverse.takeWhile (fun h => h.flit.kind != 0)).length + 1

/-- The longest time that retraining takes, in cell cycles (R442). -/
def retrainTime : Nat := net 2000

/-- The port retrains at the width that its lanes support: its sequence bears the abort bit where a packet has been partly sent, whose flits are sent again. -/
def retrain (s : State) (p : Nat) (x : Port) (all : Bool) : State :=
  let w := portWidth x
  s.setPort p { x with
    state := 1, retrainBy := s.now + retrainTime, width := w, rwidth := w
    again := if all then x.buf.length else if x.state = 1 then x.again else min x.buf.length (partFlits x)
    trainOut := ⟨x.part != 0 || (x.state = 1 && x.trainOut.abort), x.state = 1 && x.trainOut.restart, true⟩ }

/-- R442 LANE_FAILURE: `n` lanes of port `p` fail; it retrains at the width that the others support, and a packet partly sent is
aborted, or the link is broken. A link that is broken or down loses the lanes and stays so. -/
def execLaneFailure (p n : Nat) (s : State) : Out :=
  let x := s.port p
  if 18 ≤ p || n = 0 || x.lanes = 0 then .next s
  else if 2 ≤ x.state then .next (s.setPort p { x with lanes := x.lanes - n })
  else
    let y := { x with lanes := x.lanes - n }
    if y.lanes = 0 then .next (breakLink (s.setPort p { y with again := 0 }) p 1)
    else .next (retrain s p { y with narrow := if x.width < portWidth y then sat16 x.narrow else x.narrow } false)

/-- The peer's link state has begun anew (R443): so does this end's, its retry buffer is discarded, and a marker in it is to be sent again. -/
def restartLink (x : Port) : Port :=
  let lost := match x.mark with | some m => x.buf.any (fun h => h.flit.lseq = m) | none => false
  { x with lseq := 0, expect := 0, lack := 0, acked := 0, buf := [], rxq := [], part := 0, again := 0, stale := false, refused := none
           txs := if lost then 1 - x.txs else x.txs, mark := if lost then none else x.mark, ahead := if lost then 0 else x.ahead }

/-- The retraining sequence of the peer is taken: its link state anew, or the packet that it aborts dropped (R442, R443). -/
def takeTrain (x : Port) : Port :=
  let y := if x.trainIn.restart then restartLink x else if x.trainIn.abort then dropPartial x else x
  { y with trainIn := ⟨false, false, true⟩, trainOut := ⟨false, false, true⟩ }

/-- R442, R443 RETRAIN_COMPLETE: port `p` is up again, the peer's sequence is taken, and the flits of the aborted packet are sent again first. Where the link does
not train, the next smaller width is tried, and at width 1 the link is broken. -/
def execRetrainComplete (p : Nat) (s : State) : Out :=
  let x := s.port p
  if 18 ≤ p || x.state != 1 then .next s
  else if !x.trainIn.trains then
    if 3 ≤ portWidth x then .next (breakLink (s.setPort p { x with trainIn := { x.trainIn with trains := true }, again := 0 }) p 1)
    else
      let y := { x with lanes := 8 / 2 ^ (portWidth x + 1), trainIn := { x.trainIn with trains := true }, narrow := sat16 x.narrow }
      .next (s.setPort p { y with retrainBy := s.now + retrainTime, width := portWidth y, rwidth := portWidth y })
  else
    let y := takeTrain x
    .next (s.setPort p { y with
      state := 0, width := portWidth x, rwidth := portWidth x, again := 0, ackTime := if x.trainIn.restart then s.now else x.ackTime
      lastTx := if y.again = 0 then x.lastTx else s.now + flitTime (portWidth x) y.again
      wireOut := y.wireOut ++ (y.buf.drop (y.buf.length - y.again)).map (fun h => h.image) })

/-- R443 LANES_RETURN: `n` lanes of a broken link return; it retrains and sends again what it holds. A port that is down works with them once it is
enabled. A port that is up retrains where its peer begins its link state anew. -/
def execLanesReturn (p n : Nat) (s : State) : Out :=
  let x := s.port p
  let y := { x with lanes := min 8 (x.lanes + n) }
  if 18 ≤ p || x.lanes + n = 0 then .next s
  else if x.state = 3 || !bit x.ctl 63 then .next (s.setPort p y)
  else if x.state = 0 && x.trainIn.restart then .next (retrain s p x false)
  else if x.state < 2 then .next s
  else .next (retrain s p { y with ackTime := s.now, stale := false, buf := x.buf.map (fun h => { h with resent := 0 }) } true)

/-! PORTCTLp (R324, R345, R443). -/

/-- The pending write that changes EN of port `p` to `en`. -/
def takeEn (s : State) (p : Nat) (en : Bool) : Option (State × RegWrite) :=
  takeWrite s (fun w => w.reg = 0x1120 + p && bit w.val 63 = en && bit (s.port p).ctl 63 != en)

/-- R443 PORT_DISABLE: port `p` is down and discards its retry buffer; a marker in it is to be sent again (log 13). -/
def execPortDisable (p : Nat) (s : State) : Out :=
  if 18 ≤ p then .next s
  else match takeEn s p false with
    | some (s1, w) =>
      let x := s1.port p
      let lost := match x.mark with | some m => x.buf.any (fun h => h.flit.lseq = m) | none => false
      .next (s1.setPort p { x with
        ctl := fieldWrite w.reg x.ctl w.val, state := 3, buf := [], rxq := [], part := 0, again := 0, stale := false
        txs := if lost then 1 - x.txs else x.txs, mark := if lost then none else x.mark, ahead := if lost then 0 else x.ahead })
    | none => .next s

/-- R443 PORT_ENABLE: port `p` leaves the down state and retrains; LSEQ and LACK begin again at 0. -/
def execPortEnable (p : Nat) (s : State) : Out :=
  if 18 ≤ p then .next s
  else match takeEn s p true with
    | some (s1, w) =>
      let x := { s1.port p with ctl := fieldWrite w.reg (s1.port p).ctl w.val }
      .next (s1.setPort p { x with
        state := if x.lanes = 0 then 2 else 1, retrainBy := s1.now + retrainTime, width := portWidth x, rwidth := portWidth x, lseq := 0, expect := 0, lack := 0, acked := 0, ackTime := s1.now
        buf := [], rxq := [], part := 0, again := 0, stale := false, refused := none, trainOut := ⟨false, true, true⟩ })
    | none => .next s

/-- R8, R453 REGISTER_WRITE: the oldest pending write of a register without an event of its own takes effect at its
owner; one of LKCTLp may make NEAR 1 (R342). -/
def execRegisterWrite (s : State) : Out :=
  match takeWrite s (fun w => !ownEvent s w) with
  | some (s1, w) =>
    let s2 := writeShared s1 w.reg w.unit w.val
    let s3 := if inRun w.reg 0x1140 18 then watchNear s2 (w.reg - 0x1140) else s2
    .next (if w.reg = 0x1304 then { s3 with report := some (w.by_, w.val) } else s3)
  | none => .next s

/-- R324 PORT_WIDTH_CHANGE: the width that PORTCTLp asks for takes effect in each direction that stands at a packet boundary; the first flit of the
next packet waits for it in any case. -/
def execPortWidthChange (p : Nat) (s : State) : Out :=
  let x := s.port p
  if 18 ≤ p || !portUp x then .next s
  else .next (s.setPort p { x with width := if x.part = 0 then portWidth x else x.width
                                   rwidth := if x.rxq.isEmpty || wholePacket x.rxq then portWidth x else x.rwidth })

/-! Stalled milestones (R444). -/

/-- R444 MILESTONE_STALL: PODTIME and the last MS of input `p` are compared; a lag above MSBOUND is recorded once (R452 code 0x10). -/
def execMilestoneStall (p : Nat) (s : State) : Out :=
  let x := s.port p
  let lag := s.podtime.toNat - x.msRecv.toNat
  if !(inputs s).contains p then .next s
  else if lag ≤ msBound s then .next (s.setPort p { x with episode := false })
  else if x.episode then .next s
  else .next (nodeRecord (s.setPort p { x with episode := true }) (dieOfPort p) 0x10 (wd p) (wd lag) x.msRecv)

/-! Slot tables (R329). -/

/-- `n` words of an image, numbered from `i`. -/
def slotWords (n i : Nat) (b : List Byte) : Tab (BitVec 32) :=
  match n with
  | 0 => []
  | k + 1 => (i, BitVec.ofNat 32 (leNat (b.take 4))) :: slotWords k (i + 1) (b.drop 4)

/-- The slot tables of a die's 40 routers as the image at SLTBASE holds them: entry t of router k at number 256 k + t. -/
def slotImage (s : State) (d : Nat) : Tab (BitVec 32) := slotWords 10240 0 (devRead s (bits (dreg s d 0x205) 0 48) 40960)

/-- The first cell cycle of the slot-0 cycle after this cycle: a table turns once in 256 network cycles. -/
def nextSlot0 (now : Nat) : Nat := (now / 512 + 1) * 512

/-- R329 SLOT_TABLE_LOAD: a write of SLTCMD[0] = 1 loads the tables of die `d`, which wait for the next slot-0 cycle. -/
def execSlotTableLoad (d : Nat) (s : State) : Out :=
  match takeWrite s (fun w => w.reg = 0x206 && w.unit = d && bit w.val 0) with
  | some (s1, w) =>
    let s2 := setDreg s1 d 0x206 (fieldWrite 0x206 (dreg s1 d 0x206) w.val)
    .next ((expose s2 (bits (dreg s2 d 0x205) 0 48) 40960).setDie d { (expose s2 (bits (dreg s2 d 0x205) 0 48) 40960).die d with newSlots := some (nextSlot0 s.now, slotImage s2 d) })
  | none => .next s

/-- R329 SLOT_TABLE_SWITCH: as the slot-0 cycle of the on-die network begins, the tables loaded last take effect together. -/
def execSlotTableSwitch (d : Nat) (s : State) : Out :=
  let x := s.die d
  match x.newSlots with
  | some t => if d < 4 && t.1 ≤ s.now then .next (s.setDie d { x with slots := t.2, newSlots := none }) else .next s
  | none => .next s

end Sys2Proof.Machine
end

