-- ==== Sys2Proof/Machine/Xmss.lean ====
section
/-!
DEFINITION. XMSS-SHAKE256_20_256 (R347): RFC 8391 with the hash functions of SP 800-208, n = 32, h = 20, w = 16, as general
knowledge gives them (log 8): verifying a signature, and making one under a key's two secrets.
-/
namespace Sys2Proof.Machine

/-- An address: the type of a hash, its four words, and which key or mask it asks for. -/
def xAdrs (ty a b c k : Nat) : List Byte :=
  List.replicate 12 0 ++ [ty, a, b, c, k].flatMap (fun n => (leList 4 n).reverse)

/-- A keyed hash with its prefix. -/
def xHash (pre : Byte) (key m : List Byte) : List Byte := shake256 (List.replicate 31 0 ++ [pre] ++ key ++ m)

/-- The pseudorandom bytes of an address under the public seed. -/
def xPrf (seed adrs : List Byte) : List Byte := xHash 3 seed adrs

/-! One-time signatures. -/

/-- `n` steps of chain `c` of leaf `leaf` from step `i` on. -/
def xChain (seed : List Byte) (leaf c : Nat) : Nat → Nat → List Byte → List Byte
  | 0, _, v => v
  | n + 1, i, v =>
    xChain seed leaf c n (i + 1) (xHash 0 (xPrf seed (xAdrs 0 leaf c i 0)) (xorL v (xPrf seed (xAdrs 0 leaf c i 1))))

/-- The 67 digits that are signed: those of the 32 bytes, then the three of their checksum. -/
def xDigits (m : List Byte) : List Nat :=
  let d := m.flatMap (fun b => [b.toNat / 16, b.toNat % 16])
  let c := (d.map (fun x => 15 - x)).foldl (· + ·) 0
  d ++ [c / 256 % 16, c / 16 % 16, c % 16]

/-- Parts of 32 bytes. -/
def xPart (l : List Byte) (i : Nat) : List Byte := (l.drop (32 * i)).take 32

/-- The hash of two nodes; `ty` 1 in the tree of one leaf, 2 in the tree of all leaves. -/
def xPair (seed : List Byte) (ty leaf height index : Nat) (l r : List Byte) : List Byte :=
  let k := fun i => xPrf seed (xAdrs ty leaf height index i)
  xHash 1 (k 0) (xorL l (k 1) ++ xorL r (k 2))

/-- One level of a leaf's tree: pairs are hashed, an odd last node goes up as it is. -/
def xLevel (seed : List Byte) (leaf height : Nat) : Nat → List (List Byte) → List (List Byte)
  | i, a :: b :: r => xPair seed 1 leaf height i a b :: xLevel seed leaf height (i + 1) r
  | _, l => l

/-- The leaf that 67 chain ends make: the root of their tree, seven levels up. -/
def xLeaf (seed : List Byte) (leaf : Nat) (ends : List (List Byte)) : List Byte :=
  ((List.range 7).foldl (fun l h => xLevel seed leaf h 0 l) ends).headD []

/-! Verifying. -/

/-- The 32 bytes that are signed: message, randomness and leaf under the root. -/
def xDigest (root r : List Byte) (leaf : Nat) (m : List Byte) : List Byte :=
  xHash 2 (r ++ root ++ (leList 32 leaf).reverse) m

/-- The root that a leaf and its authentication path of `n` more nodes lead to, from level `k` on. -/
def xClimb (seed auth : List Byte) (leaf : Nat) : Nat → Nat → List Byte → List Byte
  | 0, _, v => v
  | n + 1, k, v =>
    let a := xPart auth k
    xClimb seed auth leaf n (k + 1)
      (if leaf / 2 ^ k % 2 = 0 then xPair seed 2 0 k (leaf / 2 ^ (k + 1)) v a else xPair seed 2 0 k (leaf / 2 ^ (k + 1)) a v)

/-- The root that a signature of 2,820 bytes over digits leads to. -/
def xRoot (seed sig : List Byte) (digits : List Nat) : List Byte :=
  let leaf := beNat (sig.take 4)
  let ots := sig.drop 36
  let ends := (List.range 67).map (fun i => let d := digits.getD i 0; xChain seed leaf i (15 - d) d (xPart ots i))
  xClimb seed (sig.drop 2180) leaf 20 0 (xLeaf seed leaf ends)

/-- A signature over a message verifies under a root and seed. -/
def xmssVerify (root seed m sig : List Byte) : Bool :=
  sig.length = 2820 && decide (beNat (sig.take 4) < 2 ^ 20)
    && xRoot seed sig (xDigits (xDigest root ((sig.drop 4).take 32) (beNat (sig.take 4)) m)) == root

/-! Signing. -/

/-- The secret start of a chain. -/
def xSecret (secret seed : List Byte) (leaf i : Nat) : List Byte := xHash 4 secret (seed ++ xAdrs 0 leaf i 0 0)

/-- Node `i` of height `h` of the tree of all leaves. -/
def xNode (secret seed : List Byte) : Nat → Nat → List Byte
  | 0, i => xLeaf seed i ((List.range 67).map (fun c => xChain seed i c 15 0 (xSecret secret seed i c)))
  | h + 1, i => xPair seed 2 0 h i (xNode secret seed h (2 * i)) (xNode secret seed h (2 * i + 1))

/-- The sibling of the node of height `h` above a leaf. -/
def xSibling (leaf h : Nat) : Nat := let n := leaf / 2 ^ h; if n % 2 = 0 then n + 1 else n - 1

/-- The signature under a leaf: index, randomness, one-time signature, authentication path. -/
def xmssSign (secret nonce root seed : List Byte) (leaf : Nat) (m : List Byte) : List Byte :=
  let r := xHash 3 nonce (leList 32 leaf).reverse
  let d := xDigits (xDigest root r leaf m)
  (leList 4 leaf).reverse ++ r
    ++ (List.range 67).flatMap (fun i => xChain seed leaf i (d.getD i 0) 0 (xSecret secret seed leaf i))
    ++ (List.range 20).flatMap (fun h => xNode secret seed h (xSibling leaf h))

end Sys2Proof.Machine
end

