-- ==== Sys2Proof/Machine/Lifecycle.lean ====
section
/-!
DEFINITION. Boot (R346 to R349), power states (R350, R351), wear and the power controller (R352, R353), health faults (R375), the
deconfiguration record (R354), the wear log and signed reports (R355 to R357).
-/
namespace Sys2Proof.Machine

/-! Wear and guard-bands (R352, R354, R375). -/

/-- The physical number of a logical cluster: 32 × die + cluster. -/
def physOf (s : State) (l : Nat) : Nat := s.configured.getD l 0
/-- The logical clusters of a die. -/
def clustersOfDie (s : State) (d : Nat) : List Nat := (List.range (clusterCount s)).filter (fun l => dieOfCluster s l = d)
/-- GBD of a logical cluster, in mV. -/
def gbd (s : State) (l : Nat) : Nat := gbdOf (s.cluster l).delay

/-- The deconfiguration record with a cluster appended; unchanged where it is listed, or where its die would have no cluster left. -/
def deconfWith (l : List Nat) (p : Nat) : Option (List Nat) :=
  if l.contains p then some l
  else if (List.range 32).all (fun k => 32 * (p / 32) + k = p || l.contains (32 * (p / 32) + k)) then none
  else some (l ++ [p])

/-- A request for a cluster to be deconfigured at the next boot. -/
def requestDeconf (s : State) (p : Nat) : State := { s with flash := { s.flash with deconf := (deconfWith s.flash.deconf p).getD s.flash.deconf } }

/-- GBSTAT of a die: the largest GBD of its clusters that have not been stopped. -/
def setGuard (s : State) (d : Nat) : State :=
  setDreg s d 0x207 (wd ((((clustersOfDie s d).filter (fun l => gbd s l ≤ 72 && !(s.cluster l).stopped)).map (gbd s)).foldl max 0))

/-- The health record of a cell: AGENT is the cell's S agent (log 39). -/
def healthReport (s : State) (code : Nat) (rst : Bool) (c : Nat) (x : Cell) : Report :=
  let a := x.agent .S
  ⟨0xD, code, agentNo c .S, 3, rst, a.pc, 0, wd (physOf s (clusterOf c)), a.dpos, s.podtime, 0, s.now⟩

/-- A health record on every cell of a gang, which halts. -/
def healthHalt (s : State) (g : Gang) (code : Nat) (rst : Bool) : State :=
  setGang s { g with run := .halting, reports := g.reports ++ g.cells.map (fun c => healthReport s code rst c (s.cell c)), norst := g.norst || !rst }

/-- A gang that has halted before cannot resume where its cluster or die is stopped for good: its health records are written and notified now
(log 39). -/
def healthStop (s : State) (g : Gang) (code : Nat) : State :=
  let w := writeRecords s (g.saved.map (fun p => healthReport s code false p.1 p.2))
  let s1 := { w.1 with gangs := w.1.gangs.map (fun h => if h = g then { h with norst := true } else h) }
  notify s1 g.die (fnqEntry 2 g.kind w.2.length g.first (w.2.headD 0)) (recordHead (g.saved.map (fun p => healthReport s code false p.1 p.2)) w.2)

/-- Gangs that satisfy `p` halt for the module's health, with RST 0 those too that had halted before; with none of them running a die alarm is raised
(R368). -/
def healthHalts (s : State) (d code : Nat) (rst : Bool) (aux : Word) (p : Gang → Bool) : State :=
  let l := s.gangs.filter (fun g => g.run != .halted && p g)
  let s0 := if rst then s else (s.gangs.filter (fun g => g.run = .halted && p g)).foldl (fun t g => healthStop t g code) s
  if l.isEmpty then dieRecord s0 d .S { cls := 0xD, code := code, aux := aux, rst := rst, dlv := 3 }
  else l.foldl (fun t g => healthHalt t g code rst) s0

/-- A cluster is fenced: CLFENCE, LASTCL and a deconfiguration request (R375, R376). -/
def fence (s : State) (l : Nat) : State :=
  let p := physOf s l
  let s1 := setDreg s (p / 32) 0x211 (dreg s (p / 32) 0x211 ||| wd (2 ^ (p % 32)))
  requestDeconf (setMreg s1 0x1307 (setBits (mreg s1 0x1307) 0 7 p)) p

/-- The health of one cluster at a reading (R375 codes 0x01 and 0x02), each reported once. -/
def checkCluster (s : State) (l : Nat) : State :=
  let p := physOf s l
  if 72 < gbd s l && !(s.cluster l).stopped then
    let s1 := fence (s.setCluster l { s.cluster l with stopped := true }) l
    healthHalts s1 (p / 32) 2 false (wd p) (fun g => g.cells.any (fun c => clusterOf c = l))
  else if 60 < gbd s l && !fenced s l then dieRecord (fence s l) (p / 32) .S { cls := 0xD, code := 1, aux := wd p, dlv := 3 }
  else s

/-- The monitors are read: guard-bands and the health of every cluster. -/
def readMonitors (s : State) : State := (List.range (clusterCount s)).foldl checkCluster ([0, 1, 2, 3].foldl setGuard s)

/-- The cell cycles of an hour (R5). -/
def hourCycles : Nat := 14400000000000

/-- R352, R375 WEAR_MONITOR_READING: the hourly reading. -/
def execWearMonitorReading (s : State) : Out :=
  if s.booted && s.hourAt + hourCycles ≤ s.now then .next (readMonitors { s with hours := s.hours + 1, hourAt := s.now }) else .next s

/-- R354 DECONF_REQUEST: a write of DECONF[63] = 1; a request that would leave a die with no cluster is not recorded, and DECONF[62]
shows it. -/
def execDeconfRequest (s : State) : Out :=
  match takeWrite s (fun w => w.reg = 0x1303 && bit w.val 63) with
  | some (s1, w) =>
    let p := bits w.val 0 7
    let v := w.val &&& wd (rwMask 0x1303)
    .next (match deconfWith s1.flash.deconf p with
      | some _ => setMreg (requestDeconf s1 p) 0x1303 v
      | none => setMreg s1 0x1303 (v ||| wd (2 ^ 62)))
  | none => .next s

/-! Temperature and rails (R375). -/

/-- R375 TEMPERATURE_TRIP: die `d` has passed 105 °C: its gangs halt, to be resumed below 95 °C. -/
def execTemperatureTrip (d : Nat) (s : State) : Out :=
  let x := s.die d
  if 4 ≤ d || x.tripped then .next s else .next (healthHalts (s.setDie d { x with tripped := true }) d 3 true (wd (32 * d)) (fun g => g.die = d))

/-- R375 TEMPERATURE_CLEAR: die `d` has fallen below 95 °C. -/
def execTemperatureClear (d : Nat) (s : State) : Out := if d < 4 then .next (s.setDie d { s.die d with tripped := false }) else .next s

/-- R375 RAIL_FAULT: the rail of die `d` has left its tolerance: as for code 0x02 its clusters are fenced and stopped, and its gangs halt for
good. -/
def execRailFault (d : Nat) (s : State) : Out :=
  if d < 4 then
    let s1 := (clustersOfDie s d).foldl (fun t l => fence (t.setCluster l { t.cluster l with stopped := true }) l) s
    .next (healthHalts s1 d 4 false (wd (32 * d)) (fun g => g.die = d))
  else .next s

/-! Power (R350, R351, R353). -/

/-- R350 CLUSTER_GATE: cluster `l` has run no tile for 4,096 cycles and enters Gated. -/
def execClusterGate (l : Nat) (s : State) : Out :=
  let x := s.cluster l
  if s.booted && l < clusterCount s && !x.gated && clusterIdle s l && x.idleFrom + 4096 ≤ s.now then .next (s.setCluster l { x with gated := true }) else .next s

/-- R351 RETENTION_REQUEST: a write of PWRCTL sets RET for die `d`. -/
def execRetentionRequest (d : Nat) (s : State) : Out :=
  match takeWrite s (fun w => w.reg = 0x1301 && d < 4 && bit w.val (44 + d) && !bit (mreg s 0x1301) (44 + d)) with
  | some (s1, w) => .next (setMreg s1 0x1301 (fieldWrite 0x1301 (mreg s1 0x1301) w.val))
  | none => .next s

/-- A place that Retention of die `d` puts out of service. -/
def onDie (s : State) (d : Nat) (l : Loc) : Bool := match l with | .home h => homeKind h != 4 && homeDie s h = d | _ => false

/-- An access of another die's agents that was checked before, of the die's stores, scratchpads or bonded DRAM, is still under way. -/
def reaches (s : State) (d : Nat) : Bool :=
  s.cells.any (fun c =>
    c.2.loads.any (fun q => q.accs.any (fun g => g.any (fun a => onDie s d a.loc)))
      || c.2.stores.any (fun q => !q.applied && q.parts.any (fun g => g.any (fun p => onDie s d p.1.loc)))
      || c.2.jobs.any (fun j => (j.racc ++ j.wacc).any (fun g => g.any (fun a => onDie s d a.loc))))
    || s.clusters.any (fun p => p.2.blocks.any (fun b => b.elems.any (fun e => onDie s d (.home e.addr))))

/-- R350, R351 RETENTION_ENTRY: with RET set, no queue of die `d` served and no tile of it running or halted, its clusters, die scratchpad
and Innkeeper lose power, once the accesses of the die's memory that were checked before are over (log 40, DEDUCED: R351 refuses an access
at its word). R350 describes only a RET set while no queue has EN = 1; that one set before acts once every EN is 0 is a DESIGN CHOICE (log 66). -/
def execRetentionEntry (d : Nat) (s : State) : Out :=
  let x := s.die d
  if 4 ≤ d || x.retention || !bit (mreg s 0x1301) (44 + d) || s.gangs.any (fun g => g.die = d) || reaches s d || (List.range 64).any (fun q => bit (qcfgOf x q) 7) then .next s
  else .next (s.setDie d { x with retention := true, ik := { x.ik with running := false } })

/-- A home byte of a die's scratchpads, whose contents Retention does not keep. -/
def lostHome (s : State) (d a : Nat) : Bool := homeKind a < 3 && homeDie s a = d

/-- An Innkeeper after Retention: its registers hold free values, and it begins at the entry point of system software (log 40). -/
def wokenIk (s : State) (x : Innkeeper) : Innkeeper :=
  { x with g := (List.range 32).map (fun i => (i, (Config.freeVec (s.ticks + i)).setWidth 64)), pc := s.flash.fw.entry, running := !x.nest, tlb := [], sop := none }

/-- R351 RETENTION_EXIT: RET of die `d` is clear: every word of its scratchpads reads 0 with a valid check code. -/
def execRetentionExit (d : Nat) (s : State) : Out :=
  let x := s.die d
  if 4 ≤ d || !x.retention || bit (mreg s 0x1301) (44 + d) then .next s
  else
    .next { s.setDie d { x with retention := false, ik := wokenIk s x.ik } with
      mem := s.mem.filter (fun p => !lostHome s d p.1), poison := s.poison.filter (fun a => !lostHome s d a)
      latent := s.latent.filter (fun p => !lostHome s d p.1), ticks := s.ticks + 32 }

/-- GBSUM. -/
def gbSum (s : State) : Nat := ([0, 1, 2, 3].map (fun d => bits (dreg s d 0x207) 0 8)).foldl (· + ·) 0

/-- The index of F: the first f of 4.0, 3.75, 3.5, 3.25, 3.0 GHz that saves OVER, else the last (R353). -/
def freqIndex (gb cap : Nat) : Nat :=
  let over16 : Int := 8 * ((gb : Int) - 80) + 16 * (2350 - (min 2400 cap : Nat))
  ((List.range 4).find? (fun i => decide (over16 ≤ ((1050 * i : Nat) : Int)))).getD 4

/-- MARGIN, rounded up. -/
def marginUp (gb : Nat) : Nat := (60 + ((gb : Int) - 79) / 2).toNat

/-- The cell cycles of a millisecond (R5). -/
def msCycles : Nat := 4000000

/-- R353 POWER_CONTROL_TICK: every millisecond MARGIN and the matrix-array clock limit are computed. -/
def execPowerControlTick (s : State) : Out :=
  if s.now < s.powerAt + msCycles then .next s
  else .next (setMreg { s with powerAt := s.now } 0x1302 (wd (marginUp (gbSum s) % 2 ^ 16 * 2 ^ 16 + freqIndex (gbSum s) (bits (mreg s 0x1301) 0 12))))

/-! Boot (R346). -/

/-- The 32 bytes of a hash. -/
def hashBytes (v : BitVec 256) : List Byte := leList 32 v.toNat

/-- Step 2: the image's XMSS signature verifies under the vendor's key in the fuses, and VERSION is not below the fused minimum (R346, R347). -/
def verified (s : State) : Bool :=
  xmssVerify (hashBytes s.fuses.vendor.root) (hashBytes s.fuses.vendor.seed) s.flash.fw.image s.flash.fw.sig
    && s.fuses.minVersion.toNat ≤ s.flash.fw.version.toNat

/-- The clusters that the deconfiguration record leaves, in physical order (R20). -/
def keptClusters (s : State) : List Nat := (List.range 128).filter (fun p => !s.flash.deconf.contains p)

/-- Clusters renumbered: what each has of its own is its wear. -/
def renumber (s : State) (l : List Nat) : Tab Cluster :=
  (l.zip (List.range l.length)).map (fun p =>
    let x := s.cluster (s.configured.idxOf p.1)
    (p.2, { Cluster.reset with delay := x.delay, delay720 := x.delay720 }))

/-- A port at boot: slot 0 holds the record's key; a port for which it gives none has EN cleared. -/
def bootPort (s : State) (p : Nat) : State :=
  let x := s.port p
  match Tab.look s.flash.keys p with
  | some k =>
    if s.flash.fitted.toNat / 2 ^ p % 2 = 1 then s.setPort p { x with keys := [(0, { k with loaded := true, tx := 0, rx := 0, sealed := false })], txs := 0, rxs := 0 }
    else s.setPort p { x with ctl := setBits x.ctl 63 1 0, state := 3 }
  | none => s.setPort p { x with ctl := setBits x.ctl 63 1 0, state := 3 }

/-- CLFENCE as a boot leaves it: the clusters whose deconfiguration was refused, since a die keeps its last one, stay fenced (R375). -/
def keptFences (s : State) (d : Nat) : Word :=
  wd ((List.range 32).foldl (fun v k => if bit (dreg s d 0x211) k && (deconfWith s.flash.deconf (32 * d + k)).isNone then v + 2 ^ k else v) 0)

/-- Steps 1 to 5, up to the wait for LOCKED. -/
def bootFirmware (s : State) : State :=
  let l := keptClusters s
  let s1 := { s with meas := BitVec.ofNat 256 (leNat (shake256 s.flash.fw.image)), clusters := renumber s l, configured := l
                     keySlots := Tab.set s.keySlots 0 (some s.flash.memkey0), bootStep := 5, bootAt := s.now }
  let s2 := readMonitors ([0, 1, 2, 3].foldl (fun t d => setDreg t d 0x211 (keptFences s d)) s1)
  let s3 := if s.flash.master = selfNode s then { setMreg s2 0x1101 1 with locked := true } else s2
  (List.range 18).foldl bootPort s3

/-- Step 6: DONE is set and every Innkeeper enters system software. -/
def finishBoot (s : State) : State :=
  let ik := fun (t : State) d => let x := t.die d; t.setDie d { x with ik := { x.ik with pc := s.flash.fw.entry, running := true } }
  let s1 := [0, 1, 2, 3].foldl ik { s with booted := true, bootStep := 6 }
  (List.range (clusterCount s)).foldl (fun t l => t.setCluster l { t.cluster l with idleFrom := s.now }) s1

/-- R346 BOOT: steps 1 to 5 on an image that verifies; then step 6 as soon as PTCTL.LOCKED is 1. -/
def execBoot (s : State) : Out :=
  if s.booted then .next s
  else if s.bootStep = 0 then (if verified s then .next (bootFirmware s) else .next s)
  else if s.locked then .next (finishBoot s)
  else .next s

/-- R346 BOOT_LOCK_TIMEOUT: LOCKED is still 0 after 10 s, and boot goes on to step 6. -/
def execBootLockTimeout (s : State) : Out :=
  if !s.booted && s.bootStep = 5 && !s.locked && s.bootAt + 40000000000 ≤ s.now then .next (finishBoot s) else .next s

/-! The wear log (R355, R356). -/

/-- The configured cluster with the largest DELAY; that of two alike the one with the lower logical number counts is a DESIGN CHOICE (log 66). -/
def worst (s : State) : Cluster :=
  (List.range (clusterCount s)).foldl (fun w l => if w.delay < (s.cluster l).delay then s.cluster l else w) (s.cluster 0)

/-- RL of R355, in hours. -/
def residual (d d720 : Nat) : Nat := if 20000 ≤ d then 0 else if d ≤ d720 then 87600 else min 87600 ((20000 - d) * 720 / (d - d720))

/-- WEARCTL.FULL: the log holds 131,072 records. -/
def logFull (s : State) : Bool := decide (131072 ≤ s.flash.log.length)

/-- The next wear record (R356). -/
def wearBytes (s : State) : List Byte :=
  let w := worst s
  let gb := ([0, 1, 2, 3].map (fun d => bits (dreg s d 0x207) 0 8 * 2 ^ (8 * d))).foldl (· + ·) 0
  wordBytes (wd (min 131072 s.flash.log.length * 2 ^ 32 + s.hours % 2 ^ 32)) ++ wordBytes (wd (w.delay % 2 ^ 20 * 2 ^ 44 + gb))
    ++ wordBytes (wd (residual w.delay w.delay720 * 2 ^ 32 + clusterCount s % 256 * 2 ^ 24)) ++ wordBytes s.energy
    ++ (match s.flash.log.getLast? with | some p => shake256 p | none => List.replicate 32 0)

/-- The newest wear record: the live one where the log is full. From the time the log fills until a live record is computed it is the last one logged: R357
does not say what a report carries then (log 66, DESIGN CHOICE). -/
def newest (s : State) : List Byte := if s.flash.live.isEmpty then (s.flash.log.getLast?).getD (List.replicate 64 0) else s.flash.live

/-- A record is due: RECP hours have passed since the newest one. The spec does not say when the first is due; that an empty log makes one due at once is a
DESIGN CHOICE (log 66). -/
def recordDue (s : State) : Bool :=
  (s.flash.log.isEmpty && s.flash.live.isEmpty) || bits (wordAt (newest s) 0) 0 32 + max 1 (bits (mreg s 0x1305) 0 16) ≤ s.hours

/-- R356 WEAR_RECORD: a wear record is appended to the log, or kept as the live record of a full one. -/
def execWearRecord (s : State) : Out :=
  if !s.booted || !recordDue s then .next s
  else if logFull s then .next { s with flash := { s.flash with live := wearBytes s } }
  else .next { s with flash := { s.flash with log := s.flash.log ++ [wearBytes s] } }

/-! Reports (R347, R349, R357). -/

/-- STATUS of a report. -/
def reportStatus (s : State) : Nat := if 2 ^ 20 ≤ s.fuses.leaf then 2 else if logFull s then 1 else 0

/-- Bytes 0x000 to 0x0FF of a report. -/
def reportHead (s : State) (nonce : List Byte) : List Byte :=
  wordBytes (wd (3076 * 2 ^ 32 + reportStatus s * 2 ^ 16 + 1)) ++ nonce ++ leList 32 s.meas.toNat ++ wordBytes (capWord s 0)
    ++ (newest s ++ List.replicate 64 0).take 64 ++ wordBytes (s.flash.node.setWidth 64) ++ List.replicate 104 0

/-- The 2,820 bytes of a signature under leaf `i` of the identity key (R347, R349, log 8). -/
def signature (s : State) (i : Nat) (m : List Byte) : List Byte :=
  xmssSign (hashBytes s.fuses.secret) (hashBytes s.fuses.nonce) (hashBytes s.fuses.identity.root) (hashBytes s.fuses.identity.seed) i m

/-- The places of a report's bytes in lines of 64. -/
def reportLines (a : Word) : List (Word × Nat) := (List.range 48).map (fun i => (a + wd (64 * i), 64)) ++ [(a + wd 3072, 4)]

/-- A report at address `a` for a requester; one that cannot be written there is dropped (log 38). LEAF rises before the signature is
released (R349). -/
def writeReport (s : State) (who : Actor) (a : Word) : State :=
  match checkMany s who .S 1 false false [(a + 8, 32)] with
  | (_, .flt _) => s
  | (s1, .ok r) =>
    match checkMany s1 who .S 1 true false (reportLines a) with
    | (_, .flt _) => s
    | (s2, .ok w) =>
      let c := (who.cell?).getD 0
      let head := reportHead s2 ((r.flatMap (fun q => q.accs)).flatMap (fun k => (accBytes s2 c s2.ticks k).getD []))
      let b := head ++ (if reportStatus s2 = 2 then List.replicate 2820 0 else signature s2 s2.fuses.leaf head)
      let s3 := if reportStatus s2 = 2 then s2 else { s2 with fuses := { s2.fuses with leaf := s2.fuses.leaf + 1 } }
      (deal (w.flatMap (fun q => q.accs)) b).foldl (fun t p => applyAcc t c p) (markAll s3 w)

/-- R357 ATTESTATION_REPORT: the report that ATTCMD asked for is written, and then ATTCMD[0] is set. -/
def execAttestationReport (s : State) : Out :=
  match s.report with
  | none => .next s
  | some (who, v) =>
    let a := v &&& ~~~ (wd 255)
    .next { setMreg (writeReport s who a) 0x1304 (a ||| 1) with report := none }

end Sys2Proof.Machine
end

