-- ==== Sys2Proof/Machine/Dispatch.lean ====
section
/-!
DEFINITION. One arm per constructor of Instr: the call of its meaning.
-/
namespace Sys2Proof.Machine

def exec (i : Instr) (s : State) : Host.Outcome State Fault Refusal :=
  match i with
  | .add t d a b => Sys2Proof.Machine.execAdd t d a b s
  | .sub t d a b => Sys2Proof.Machine.execSub t d a b s
  | .mul t d a b => Sys2Proof.Machine.execMul t d a b s
  | .mulh t d a u b => Sys2Proof.Machine.execMulh t d a u b s
  | .div t d a u b => Sys2Proof.Machine.execDiv t d a u b s
  | .rem t d a u b => Sys2Proof.Machine.execRem t d a u b s
  | .andr t d a b => Sys2Proof.Machine.execAndr t d a b s
  | .orr t d a b => Sys2Proof.Machine.execOrr t d a b s
  | .xorr t d a b => Sys2Proof.Machine.execXorr t d a b s
  | .shl t d a b => Sys2Proof.Machine.execShl t d a b s
  | .shr t d a b => Sys2Proof.Machine.execShr t d a b s
  | .sar t d a b => Sys2Proof.Machine.execSar t d a b s
  | .ror t d a b => Sys2Proof.Machine.execRor t d a b s
  | .minr t d a u b => Sys2Proof.Machine.execMinr t d a u b s
  | .maxr t d a u b => Sys2Proof.Machine.execMaxr t d a u b s
  | .slt t d a u b => Sys2Proof.Machine.execSlt t d a u b s
  | .seq t d a b => Sys2Proof.Machine.execSeq t d a b s
  | .clz t d a => Sys2Proof.Machine.execClz t d a s
  | .ctz t d a => Sys2Proof.Machine.execCtz t d a s
  | .popc t d a => Sys2Proof.Machine.execPopc t d a s
  | .bext t d a b => Sys2Proof.Machine.execBext t d a b s
  | .bins t d a b => Sys2Proof.Machine.execBins t d a b s
  | .addi t d a j => Sys2Proof.Machine.execAddi t d a j s
  | .addiExt t d a x => Sys2Proof.Machine.execAddiExt t d a x s
  | .andi t d a j => Sys2Proof.Machine.execAndi t d a j s
  | .andiExt t d a x => Sys2Proof.Machine.execAndiExt t d a x s
  | .ori t d a j => Sys2Proof.Machine.execOri t d a j s
  | .oriExt t d a x => Sys2Proof.Machine.execOriExt t d a x s
  | .xori t d a j => Sys2Proof.Machine.execXori t d a j s
  | .xoriExt t d a x => Sys2Proof.Machine.execXoriExt t d a x s
  | .shli t d a j => Sys2Proof.Machine.execShli t d a j s
  | .shliExt t d a x => Sys2Proof.Machine.execShliExt t d a x s
  | .shri t d a j => Sys2Proof.Machine.execShri t d a j s
  | .shriExt t d a x => Sys2Proof.Machine.execShriExt t d a x s
  | .sari t d a j => Sys2Proof.Machine.execSari t d a j s
  | .sariExt t d a x => Sys2Proof.Machine.execSariExt t d a x s
  | .slti t d a j => Sys2Proof.Machine.execSlti t d a j s
  | .sltiExt t d a x => Sys2Proof.Machine.execSltiExt t d a x s
  | .li t d j => Sys2Proof.Machine.execLi t d j s
  | .liExt t d x => Sys2Proof.Machine.execLiExt t d x s
  | .lih t d j => Sys2Proof.Machine.execLih t d j s
  | .lihExt t d x => Sys2Proof.Machine.execLihExt t d x s
  | .muli t d a j => Sys2Proof.Machine.execMuli t d a j s
  | .muliExt t d a x => Sys2Proof.Machine.execMuliExt t d a x s
  | .ldI8 t d a j => Sys2Proof.Machine.execLdI8 t d a j s
  | .ldI8Ext t d a x => Sys2Proof.Machine.execLdI8Ext t d a x s
  | .ldI16 t d a j => Sys2Proof.Machine.execLdI16 t d a j s
  | .ldI16Ext t d a x => Sys2Proof.Machine.execLdI16Ext t d a x s
  | .ldI32 t d a j => Sys2Proof.Machine.execLdI32 t d a j s
  | .ldI32Ext t d a x => Sys2Proof.Machine.execLdI32Ext t d a x s
  | .ld64 t d a j => Sys2Proof.Machine.execLd64 t d a j s
  | .ld64Ext t d a x => Sys2Proof.Machine.execLd64Ext t d a x s
  | .ldN8 t d a j => Sys2Proof.Machine.execLdN8 t d a j s
  | .ldN8Ext t d a x => Sys2Proof.Machine.execLdN8Ext t d a x s
  | .ldN16 t d a j => Sys2Proof.Machine.execLdN16 t d a j s
  | .ldN16Ext t d a x => Sys2Proof.Machine.execLdN16Ext t d a x s
  | .ldN32 t d a j => Sys2Proof.Machine.execLdN32 t d a j s
  | .ldN32Ext t d a x => Sys2Proof.Machine.execLdN32Ext t d a x s
  | .st8 t b a j => Sys2Proof.Machine.execSt8 t b a j s
  | .st8Ext t b a x => Sys2Proof.Machine.execSt8Ext t b a x s
  | .st16 t b a j => Sys2Proof.Machine.execSt16 t b a j s
  | .st16Ext t b a x => Sys2Proof.Machine.execSt16Ext t b a x s
  | .st32 t b a j => Sys2Proof.Machine.execSt32 t b a j s
  | .st32Ext t b a x => Sys2Proof.Machine.execSt32Ext t b a x s
  | .st64 t b a j => Sys2Proof.Machine.execSt64 t b a j s
  | .st64Ext t b a x => Sys2Proof.Machine.execSt64Ext t b a x s
  | .pref t a j => Sys2Proof.Machine.execPref t a j s
  | .prefExt t a x => Sys2Proof.Machine.execPrefExt t a x s
  | .sldr t r a j => Sys2Proof.Machine.execSldr t r a j s
  | .sldrExt t r a x => Sys2Proof.Machine.execSldrExt t r a x s
  | .sstr t r a j => Sys2Proof.Machine.execSstr t r a j s
  | .sstrExt t r a x => Sys2Proof.Machine.execSstrExt t r a x s
  | .qsync t => Sys2Proof.Machine.execQsync t s
  | .fence t r => Sys2Proof.Machine.execFence t r s
  | .tok t => Sys2Proof.Machine.execTok t s
  | .capture t k a => Sys2Proof.Machine.execCapture t k a s
  | .kdup t d k => Sys2Proof.Machine.execKdup t d k s
  | .kdrop t k => Sys2Proof.Machine.execKdrop t k s
  | .kst t k a j => Sys2Proof.Machine.execKst t k a j s
  | .kstExt t k a x => Sys2Proof.Machine.execKstExt t k a x s
  | .kld t k a j => Sys2Proof.Machine.execKld t k a j s
  | .kldExt t k a x => Sys2Proof.Machine.execKldExt t k a x s
  | .frame t d a => Sys2Proof.Machine.execFrame t d a s
  | .frpop t a => Sys2Proof.Machine.execFrpop t a s
  | .sysrd t g c => Sys2Proof.Machine.execSysrd t g c s
  | .syswr t g c => Sys2Proof.Machine.execSyswr t g c s
  | .trap t n => Sys2Proof.Machine.execTrap t n s
  | .eret t => Sys2Proof.Machine.execEret t s
  | .cpush t c a => Sys2Proof.Machine.execCpush t c a s
  | .cpop t d p c => Sys2Proof.Machine.execCpop t d p c s
  | .kpush t c k => Sys2Proof.Machine.execKpush t c k s
  | .kpop t k c => Sys2Proof.Machine.execKpop t k c s
  | .j t o => Sys2Proof.Machine.execJ t o s
  | .jExt t o x => Sys2Proof.Machine.execJExt t o x s
  | .jl t o => Sys2Proof.Machine.execJl t o s
  | .jlExt t o x => Sys2Proof.Machine.execJlExt t o x s
  | .beq t a b o => Sys2Proof.Machine.execBeq t a b o s
  | .beqExt t a b x => Sys2Proof.Machine.execBeqExt t a b x s
  | .bne t a b o => Sys2Proof.Machine.execBne t a b o s
  | .bneExt t a b x => Sys2Proof.Machine.execBneExt t a b x s
  | .blt t a b o => Sys2Proof.Machine.execBlt t a b o s
  | .bltExt t a b x => Sys2Proof.Machine.execBltExt t a b x s
  | .bge t a b o => Sys2Proof.Machine.execBge t a b o s
  | .bgeExt t a b x => Sys2Proof.Machine.execBgeExt t a b x s
  | .bltn t a b o => Sys2Proof.Machine.execBltn t a b o s
  | .bltnExt t a b x => Sys2Proof.Machine.execBltnExt t a b x s
  | .bgen t a b o => Sys2Proof.Machine.execBgen t a b o s
  | .bgenExt t a b x => Sys2Proof.Machine.execBgenExt t a b x s
  | .jr t a => Sys2Proof.Machine.execJr t a s
  | .jtab t a b n => Sys2Proof.Machine.execJtab t a b n s
  | .jtabExt t a b n => Sys2Proof.Machine.execJtabExt t a b n s
  | .loop t a n => Sys2Proof.Machine.execLoop t a n s
  | .lstg g f l => Sys2Proof.Machine.execLstg g f l s
  | .apply t k => Sys2Proof.Machine.execApply t k s
  | .halt t => Sys2Proof.Machine.execHalt t s
  | .skipWord => Sys2Proof.Machine.execSkipWord s
  | .outcomeTake => Sys2Proof.Machine.execOutcomeTake s
  | .vshape t x => Sys2Proof.Machine.execVshape t x s
  | .vadd t d a b m => Sys2Proof.Machine.execVadd t d a b m s
  | .vsub t d a b m => Sys2Proof.Machine.execVsub t d a b m s
  | .vmul t d a b m => Sys2Proof.Machine.execVmul t d a b m s
  | .vfma t d a b m => Sys2Proof.Machine.execVfma t d a b m s
  | .vfms t d a b m => Sys2Proof.Machine.execVfms t d a b m s
  | .vdiv t d a b m => Sys2Proof.Machine.execVdiv t d a b m s
  | .vsqrt t d a m => Sys2Proof.Machine.execVsqrt t d a m s
  | .vmin t d a b m => Sys2Proof.Machine.execVmin t d a b m s
  | .vmax t d a b m => Sys2Proof.Machine.execVmax t d a b m s
  | .vabs t d a m => Sys2Proof.Machine.execVabs t d a m s
  | .vneg t d a m => Sys2Proof.Machine.execVneg t d a m s
  | .vadds t d a b m => Sys2Proof.Machine.execVadds t d a b m s
  | .vsubs t d a b m => Sys2Proof.Machine.execVsubs t d a b m s
  | .vand t d a b m => Sys2Proof.Machine.execVand t d a b m s
  | .vor t d a b m => Sys2Proof.Machine.execVor t d a b m s
  | .vxor t d a b m => Sys2Proof.Machine.execVxor t d a b m s
  | .vshl t d a b m => Sys2Proof.Machine.execVshl t d a b m s
  | .vshr t d a b m => Sys2Proof.Machine.execVshr t d a b m s
  | .vsar t d a b m => Sys2Proof.Machine.execVsar t d a b m s
  | .vmulh t d a b m => Sys2Proof.Machine.execVmulh t d a b m s
  | .vcmpeq t d a b m => Sys2Proof.Machine.execVcmpeq t d a b m s
  | .vcmplt t d a b m => Sys2Proof.Machine.execVcmplt t d a b m s
  | .vcmple t d a b m => Sys2Proof.Machine.execVcmple t d a b m s
  | .vmand t d a b => Sys2Proof.Machine.execVmand t d a b s
  | .vmor t d a b => Sys2Proof.Machine.execVmor t d a b s
  | .vmxor t d a b => Sys2Proof.Machine.execVmxor t d a b s
  | .vmnot t d a => Sys2Proof.Machine.execVmnot t d a s
  | .vsel t d a b => Sys2Proof.Machine.execVsel t d a b s
  | .vcvt t d a m q y => Sys2Proof.Machine.execVcvt t d a m q y s
  | .vq8q t d a m q y => Sys2Proof.Machine.execVq8q t d a m q y s
  | .vq8d t d a m q y => Sys2Proof.Machine.execVq8d t d a m q y s
  | .vz4q t d a m q y => Sys2Proof.Machine.execVz4q t d a m q y s
  | .vz4d t d a m q y => Sys2Proof.Machine.execVz4d t d a m q y s
  | .vrsum t a m g => Sys2Proof.Machine.execVrsum t a m g s
  | .vrmin t a m g => Sys2Proof.Machine.execVrmin t a m g s
  | .vrmax t a m g => Sys2Proof.Machine.execVrmax t a m g s
  | .vperm t d a b m => Sys2Proof.Machine.execVperm t d a b m s
  | .vbcast t d m g => Sys2Proof.Machine.execVbcast t d m g s
  | .vslide t d a b m => Sys2Proof.Machine.execVslide t d a b m s
  | .vzip t d a b m => Sys2Proof.Machine.execVzip t d a b m s
  | .vunzip t d a m => Sys2Proof.Machine.execVunzip t d a m s
  | .vld t d m g x => Sys2Proof.Machine.execVld t d m g x s
  | .vst t a m g x => Sys2Proof.Machine.execVst t a m g x s
  | .vlds t d r m => Sys2Proof.Machine.execVlds t d r m s
  | .vsts t a r m => Sys2Proof.Machine.execVsts t a r m s
  | .vgath t d b m g x => Sys2Proof.Machine.execVgath t d b m g x s
  | .vscat t a b m g x => Sys2Proof.Machine.execVscat t a b m g x s
  | .vmvg t a g => Sys2Proof.Machine.execVmvg t a g s
  | .defer t a n m => Sys2Proof.Machine.execDefer t a n m s
  | .vdrain t d n => Sys2Proof.Machine.execVdrain t d n s
  | .vapply t d a n m => Sys2Proof.Machine.execVapply t d a n m s
  | .banklend t g => Sys2Proof.Machine.execBanklend t g s
  | .bankret t g => Sys2Proof.Machine.execBankret t g s
  | .viota t d m => Sys2Proof.Machine.execViota t d m s
  | .vmpop t a g => Sys2Proof.Machine.execVmpop t a g s
  | .vWriteLanding c j => Sys2Proof.Machine.execVWriteLanding c j s
  | .vectorLoadLanding c j => Sys2Proof.Machine.execVectorLoadLanding c j s
  | .mma t c a b x y z h => Sys2Proof.Machine.execMma t c a b x y z h s
  | .mmas t c a b x y z h r => Sys2Proof.Machine.execMmas t c a b x y z h r s
  | .mdrain t c z g f => Sys2Proof.Machine.execMdrain t c z g f s
  | .mswap t c b => Sys2Proof.Machine.execMswap t c b s
  | .mfclr t c f g u => Sys2Proof.Machine.execMfclr t c f g u s
  | .mlease t => Sys2Proof.Machine.execMlease t s
  | .mrel t => Sys2Proof.Machine.execMrel t s
  | .tstart t c => Sys2Proof.Machine.execTstart t c s
  | .mkat t a b x y k => Sys2Proof.Machine.execMkat t a b x y k s
  | .skcfg t u g => Sys2Proof.Machine.execSkcfg t u g s
  | .skfold t a b x y u => Sys2Proof.Machine.execSkfold t a b x y u s
  | .skshrink t u => Sys2Proof.Machine.execSkshrink t u s
  | .skmerge t u g x => Sys2Proof.Machine.execSkmerge t u g x s
  | .skemit t u g x => Sys2Proof.Machine.execSkemit t u g x s
  | .skstat t u g x => Sys2Proof.Machine.execSkstat t u g x s
  | .stepBegin l => Sys2Proof.Machine.execStepBegin l s
  | .stepRetire l => Sys2Proof.Machine.execStepRetire l s
  | .scalePush l => Sys2Proof.Machine.execScalePush l s
  | .sketchPanelBoundary l => Sys2Proof.Machine.execSketchPanelBoundary l s
  | .rollbackReplay l => Sys2Proof.Machine.execRollbackReplay l s
  | .leaseGrant l => Sys2Proof.Machine.execLeaseGrant l s
  | .leaseCycleLimit l => Sys2Proof.Machine.execLeaseCycleLimit l s
  | .xmove t a b c d => Sys2Proof.Machine.execXmove t a b c d s
  | .xmoveExt t a b c d r ww u p q => Sys2Proof.Machine.execXmoveExt t a b c d r ww u p q s
  | .xfoot t a r ww u p q => Sys2Proof.Machine.execXfoot t a r ww u p q s
  | .xscat t a b c r ww u p q => Sys2Proof.Machine.execXscat t a b c r ww u p q s
  | .xbar t l => Sys2Proof.Machine.execXbar t l s
  | .xevset t a b => Sys2Proof.Machine.execXevset t a b s
  | .xevsig t a => Sys2Proof.Machine.execXevsig t a s
  | .eventOverflowWalk d e => Sys2Proof.Machine.execEventOverflowWalk d e s
  | .xevwait t a => Sys2Proof.Machine.execXevwait t a s
  | .xtail t a b => Sys2Proof.Machine.execXtail t a b s
  | .xsend t a b c d r ww u p q => Sys2Proof.Machine.execXsend t a b c d r ww u p q s
  | .xsendo t a b c d r ww u p q => Sys2Proof.Machine.execXsendo t a b c d r ww u p q s
  | .xred t a b c r ww u p q => Sys2Proof.Machine.execXred t a b c r ww u p q s
  | .xcoll t a b r ww u p q => Sys2Proof.Machine.execXcoll t a b r ww u p q s
  | .xsubmit t a b c r ww u p q => Sys2Proof.Machine.execXsubmit t a b c r ww u p q s
  | .xarrive t a b => Sys2Proof.Machine.execXarrive t a b s
  | .xkeyld t a b c r ww u p q => Sys2Proof.Machine.execXkeyld t a b c r ww u p q s
  | .xkeysw t a => Sys2Proof.Machine.execXkeysw t a s
  | .commandBegin c j => Sys2Proof.Machine.execCommandBegin c j s
  | .transferChunk c j => Sys2Proof.Machine.execTransferChunk c j s
  | .commandComplete c j => Sys2Proof.Machine.execCommandComplete c j s
  | .scatterBlockApply l => Sys2Proof.Machine.execScatterBlockApply l s
  | .loadPerform c => Sys2Proof.Machine.execLoadPerform c s
  | .loadReturn c j => Sys2Proof.Machine.execLoadReturn c j s
  | .storeApply c j => Sys2Proof.Machine.execStoreApply c j s
  | .postedWriteAck c j => Sys2Proof.Machine.execPostedWriteAck c j s
  | .multicastLanding c => Sys2Proof.Machine.execMulticastLanding c s
  | .guestbookRequest c => Sys2Proof.Machine.execGuestbookRequest c s
  | .guestbookAck c => Sys2Proof.Machine.execGuestbookAck c s
  | .syswrAck a => Sys2Proof.Machine.execSyswrAck a s
  | .channelRebind c n => Sys2Proof.Machine.execChannelRebind c n s
  | .crewStall c => Sys2Proof.Machine.execCrewStall c s
  | .pageWalk d v => Sys2Proof.Machine.execPageWalk d v s
  | .streamTlbPrefetch c e => Sys2Proof.Machine.execStreamTlbPrefetch c e s
  | .tlbinvPage => Sys2Proof.Machine.execTlbinvPage s
  | .tlbinvAll => Sys2Proof.Machine.execTlbinvAll s
  | .tlbinvComplete => Sys2Proof.Machine.execTlbinvComplete s
  | .keySlotLoad => Sys2Proof.Machine.execKeySlotLoad s
  | .scrub a => Sys2Proof.Machine.execScrub a s
  | .schedulerDecision d => Sys2Proof.Machine.execSchedulerDecision d s
  | .tileEnd c => Sys2Proof.Machine.execTileEnd c s
  | .queueAgeing d q => Sys2Proof.Machine.execQueueAgeing d q s
  | .qtailWrite d q => Sys2Proof.Machine.execQtailWrite d q s
  | .arrival d => Sys2Proof.Machine.execArrival d s
  | .preemptreq d => Sys2Proof.Machine.execPreemptreq d s
  | .contextSave g => Sys2Proof.Machine.execContextSave g s
  | .resumereq d => Sys2Proof.Machine.execResumereq d s
  | .abortreq d => Sys2Proof.Machine.execAbortreq d s
  | .fnqRead d r => Sys2Proof.Machine.execFnqRead d r s
  | .fnqWatchdog d => Sys2Proof.Machine.execFnqWatchdog d s
  | .innkeeperExceptionEntry d => Sys2Proof.Machine.execInnkeeperExceptionEntry d s
  | .packetTransmit p => Sys2Proof.Machine.execPacketTransmit p s
  | .flitReceive p => Sys2Proof.Machine.execFlitReceive p s
  | .packetReceive p => Sys2Proof.Machine.execPacketReceive p s
  | .lantern p => Sys2Proof.Machine.execLantern p s
  | .linkResend p => Sys2Proof.Machine.execLinkResend p s
  | .laneFailure p n => Sys2Proof.Machine.execLaneFailure p n s
  | .retrainComplete p => Sys2Proof.Machine.execRetrainComplete p s
  | .portDisable p => Sys2Proof.Machine.execPortDisable p s
  | .portEnable p => Sys2Proof.Machine.execPortEnable p s
  | .portWidthChange p => Sys2Proof.Machine.execPortWidthChange p s
  | .connectionAck n => Sys2Proof.Machine.execConnectionAck n s
  | .connectionResend n j => Sys2Proof.Machine.execConnectionResend n j s
  | .orderedDelivery => Sys2Proof.Machine.execOrderedDelivery s
  | .milestoneStall p => Sys2Proof.Machine.execMilestoneStall p s
  | .hostRegisterWrite j => Sys2Proof.Machine.execHostRegisterWrite j s
  | .hostRegisterRead j => Sys2Proof.Machine.execHostRegisterRead j s
  | .readRequest j => Sys2Proof.Machine.execReadRequest j s
  | .timeMasterSet => Sys2Proof.Machine.execTimeMasterSet s
  | .lockLost => Sys2Proof.Machine.execLockLost s
  | .slotTableLoad d => Sys2Proof.Machine.execSlotTableLoad d s
  | .slotTableSwitch d => Sys2Proof.Machine.execSlotTableSwitch d s
  | .networkFlitArrive c n => Sys2Proof.Machine.execNetworkFlitArrive c n s
  | .boot => Sys2Proof.Machine.execBoot s
  | .bootLockTimeout => Sys2Proof.Machine.execBootLockTimeout s
  | .clusterGate l => Sys2Proof.Machine.execClusterGate l s
  | .retentionRequest d => Sys2Proof.Machine.execRetentionRequest d s
  | .retentionEntry d => Sys2Proof.Machine.execRetentionEntry d s
  | .retentionExit d => Sys2Proof.Machine.execRetentionExit d s
  | .powerControlTick => Sys2Proof.Machine.execPowerControlTick s
  | .wearMonitorReading => Sys2Proof.Machine.execWearMonitorReading s
  | .temperatureTrip d => Sys2Proof.Machine.execTemperatureTrip d s
  | .temperatureClear d => Sys2Proof.Machine.execTemperatureClear d s
  | .railFault d => Sys2Proof.Machine.execRailFault d s
  | .deconfRequest => Sys2Proof.Machine.execDeconfRequest s
  | .wearRecord => Sys2Proof.Machine.execWearRecord s
  | .attestationReport => Sys2Proof.Machine.execAttestationReport s
  | .registerWrite => Sys2Proof.Machine.execRegisterWrite s
  | .notAnInstruction => Sys2Proof.Machine.execNotAnInstruction s
  | .fetchTranslationFault => Sys2Proof.Machine.execFetchTranslationFault s
  | .lanesReturn p n => Sys2Proof.Machine.execLanesReturn p n s

end Sys2Proof.Machine
end

