-- ==== Sys2Proof/Machine/Turns.lean ====
section
/-!
DEFINITION. Whose turn it is (log 1): the head of State's agenda or the schedule; the order of what happens in one cycle (log 28); the events whose cycle the
spec fixes and which no turn may pass over; and what the mover does at its turn.
-/
namespace Sys2Proof.Machine

/-- The turn that comes next, and the state with it taken. -/
def nextTurn (s : State) : State × Turn :=
  match s.agenda with
  | t :: r => ({ s with agenda := r }, t)
  | [] => ({ s with ticks := s.ticks + 1 }, Config.schedule s.ticks)

/-- What `n` cycles add to PODTIME: one less or one more where the count is slewed (R338). -/
def podSteps (s : State) (n : Nat) : Nat := match s.slew with | some true => n + 1 | some false => n - 1 | none => n

/-- `n` cycles pass; PODTIME counts them (R338). -/
def advance (s : State) (n : Nat) : State :=
  if n = 0 then s else { s with now := s.now + n, rank := 0, moved := [], podtime := s.podtime + wd (podSteps s n), slew := none }

/-! The order within a cycle (log 28): every move has a rank, and none is made in a cycle in which one of a higher rank has been made. -/

/-- Place `n` of a phase of the cycle. -/
def place (phase n : Nat) : Nat := phase * 2 ^ 20 + n

/-- The rank of an agent's turn: the agents of a cell in the order S, V, M, X, but S last where its word writes VSHAPE by SYSWR (R240). -/
def agentRank (s : State) (c : Nat) (e : Engine) : Nat :=
  let last := e = .S && (match agentFetch { s with cur := .agent c .S } c .S with
    | (_, .ok w) => (match decode w.1 w.2 with | .instr (.syswr _ _ n) => decide (n.toNat = 1) | _ => false)
    | _ => false)
  place 2 (8 * c + (match e with | .S => if last then 5 else 0 | .V => 2 | .M => 3 | .X => 4))

/-- The rank of an Innkeeper's turn: with the agents, but before what lands where its word writes VSTAT by SYSWR (R117). -/
def ikRank (s : State) (d : Nat) : Nat :=
  match ikFetch { s with cur := .ik d } d with
  | (_, .ok w) => (match decode w.1 w.2 with
    | .instr (.syswr _ _ n) => if n.toNat = 2 then place 1 (1 + d) else place 2 (4096 + d)
    | _ => place 2 (4096 + d))
  | _ => place 2 (4096 + d)

/-- The agent number of the writer whose register write an event takes (R233). -/
def writerOf (s : State) (i : Instr) : Nat :=
  match exec i s with
  | .next t => ((s.writes.zip t.writes).findSome? (fun p => if !p.1.taken && p.2.taken then some p.1.by_.num else none)).getD 0
  | _ => 0

/-- A home address lies in the store of a cell. -/
def inCell (c h : Nat) : Bool := decide (cellHome c ≤ h) && decide (h < cellHome c + 2 ^ 21)

/-- Some access of a store goes to the cell's own store. -/
def ownStore (c : Nat) (q : Store) : Bool := q.path = 0 || (q.parts.any (fun g => g.any (fun p => match p.1.loc with
  | .home h => inCell c h
  | _ => false)))

/-- The next write of a command goes to its own cell's store. -/
def ownChunk (s : State) (c : Nat) (j : Job) : Bool :=
  match j.word with
  | .xmove .. | .xmoveExt .. =>
    (granHomes s c true (j.b + wd (j.done / mvRowb j) * mvDstride j + wd (j.done % mvRowb j))).all (inCell c)
  | _ => true

/-- The rank of the beginning of a command: XEVSETs, then signals, then new waiters (R298); barriers, arrivals and submissions begin after the
writes of the cycle, so that a barrier may begin in the cycle in which the last of them applies (R315). -/
def beginRank (s : State) (c i : Nat) : Nat :=
  let n := agentNo c .X
  match jobAt s c i with
  | some j => (match j.word with
    | .xevset .. | .xbar .. | .xarrive .. | .xsubmit .. | .xkeysw .. => place 9 n
    | .xevsig .. | .xtail .. => place 10 n
    | .xevwait .. => place 13 (1024 + n)
    | _ => place 4 n)
  | none => place 4 n

/-- The rank of a chunk: a write to the cell's own store, to another one, or of records into a ring (R140, R300). -/
def chunkRank (s : State) (c i : Nat) : Nat :=
  let n := agentNo c .X
  match jobAt s c i with
  | some j => (match j.word with
    | .xsubmit .. => place 12 (64 + n)
    | _ => if ownChunk s c j then place 7 n else place 8 n)
  | none => place 7 n

/-- The rank of a store that applies (R140). -/
def storeRank (s : State) (c i : Nat) : Nat :=
  match leftStore (s.cell c) i with
  | some q => if ownStore c q then place (if q.eng = .S then 5 else 6) c else place 8 (agentNo c q.eng)
  | none => place 5 c

/-- The rank of the end of a step or panel: an M write of the home cell, or one to another home from the cell (R140). -/
def stepRank (s : State) (l : Nat) : Nat :=
  match (s.cluster l).steps.find? (·.begun) with
  | some m => if (stepFp s m).2.all (fun r => inCell m.cell r.base) then place 7 (agentNo m.cell .M) else place 8 (agentNo m.cell .M)
  | none => place 7 0

/-- The rank of a block of scatter elements: one that a packet brought in stands with the packets of its source (R91, R140). -/
def blockRank (s : State) (l : Nat) : Nat :=
  match (s.cluster l).blocks.head?.bind (·.src) with
  | some p => place 11 (4 * p.1 + 3)
  | none => place 1 0

/-- The rank of an event. -/
def eventRank (s : State) (i : Instr) : Nat :=
  match i with
  | .multicastLanding c => place 0 c
  | .vWriteLanding c _ | .vectorLoadLanding c _ => place 2 (8 * c + 1)
  | .guestbookRequest c => place 3 (match nextReq (s.cell c).gbq with | some q => 4 * q.cell | none => 0)
  | .commandBegin c i => beginRank s c i
  | .storeApply c i => storeRank s c i
  | .transferChunk c i => chunkRank s c i
  | .stepRetire l | .sketchPanelBoundary l => stepRank s l
  | .leaseCycleLimit l => place 8 (2 ^ 12 + 4 * l)
  | .leaseGrant l => place 8 (2 ^ 12 + 4 * l + 1)
  | .commandComplete c _ => place 10 (agentNo c .X)
  | .abortreq _ | .contextSave _ | .packetTransmit _ | .lantern _ => place 10 (2 ^ 12)
  | .scatterBlockApply l => blockRank s l
  | .qtailWrite _ _ | .preemptreq _ | .resumereq _ | .tlbinvPage | .tlbinvAll | .keySlotLoad | .timeMasterSet | .deconfRequest
  | .retentionRequest _ | .slotTableLoad _ | .portDisable _ | .portEnable _ | .registerWrite => place 8 (writerOf s i)
  | .packetReceive p => place 11 (4 * (if p = 18 then (s.selfq.head?.map (·.src)).getD 0 else ((assemble (s.port p).rxq).map (·.src)).getD 0))
  | .orderedDelivery => place 11 (4 * ((firstOrdered s).map (·.2.src)).getD 0 + 1)
  | .hostRegisterWrite i | .hostRegisterRead i | .readRequest i => place 11 (4 * ((s.hostq[i]?.map (·.src)).getD 0) + 2)
  | .arrival d | .tileEnd d => place 12 d
  | .queueAgeing d q => place 13 (64 * d + q)
  | .schedulerDecision d => place 13 (256 + d)
  | .loadPerform c => place 14 c
  | _ => place 1 0

/-- Several moves of one rank may be made in a cycle: landings, granules of a transfer, packets sent, and what has no place in an order. -/
def repeats (r : Nat) : Bool :=
  decide (r ≤ place 1 0) || (decide (place 2 0 ≤ r) && decide (r < place 2 4096) && r % 8 = 1)
    || (decide (place 7 0 ≤ r) && decide (r < place 8 (2 ^ 12)) && r % 4 = 3) || r = place 10 (2 ^ 12)

/-- The cycle and rank at which a move due at `t` with rank `r` can be made: in a cycle whose place for it has passed it waits for the next. -/
def moment (s : State) (t r : Nat) : Nat × Nat :=
  let late := r < s.rank || (r = s.rank && !repeats r)
  (if t ≤ s.now then (if late then s.now + 1 else s.now) else t, r)

/-- The mover has made a turn in this cycle (R199, R238). -/
def hasMoved (s : State) (m : Move) : Bool :=
  match m with
  | .agent c e => s.moved.contains (.agent c e)
  | .innkeeper d => s.moved.contains (.ik d)
  | .event _ => false

/-- The first of two moments. -/
def sooner (a b : Nat × Nat) : Bool := decide (a.1 < b.1) || (decide (a.1 = b.1) && decide (a.2 < b.2))

/-- The rank of a turn. -/
def turnRank (s : State) (m : Move) : Nat :=
  match m with
  | .agent c e => agentRank s c e
  | .innkeeper d => ikRank s d
  | .event i => eventRank s i

/-- The moment of a turn due at `t`: an agent or an Innkeeper makes one turn a cycle. -/
def turnMoment (s : State) (t : Nat) (m : Move) : Nat × Nat :=
  let r := turnRank s m
  if decide (t ≤ s.now) && hasMoved s m then (s.now + 1, r) else moment s t r

/-! Dated events. -/

/-- The dated events of a cell: multicast landings (R75), latest V landings (R170), bindings that take effect (R174), a stall of its crew (R386). -/
def cellDue (s : State) (c : Nat) (x : Cell) : List (Nat × Instr) :=
  x.stores.filterMap (fun q => if q.applied then none else q.due.map (fun n => (n, Instr.multicastLanding c)))
    ++ x.pend.filterMap (fun p => p.due.map (fun n => (n, Instr.vWriteLanding c p.id)))
    ++ (x.chans.filter (fun p => decide (p.1 < 16) && p.2.q.isEmpty && p.2.pending)).map (fun p => (s.now + 1, Instr.channelRebind c p.1))
    ++ (if active s c && stalls s c then [(x.lastPass + 4096, Instr.crewStall c)] else [])

/-- The dated events of a cluster: the end of the step or panel that the array performs (R132, R271), the end of a lease at its cycle limit (R62),
a grant (R63), and its gating (R350). -/
def clusterDue (s : State) (l : Nat) (x : Cluster) : List (Nat × Instr) :=
  (match x.steps.find? (·.begun) with
  | some m => if x.replay.isSome then [] else [(m.ends, if lastPanel s l m then Instr.stepRetire l else Instr.sketchPanelBoundary l)]
  | none => [])
    ++ (if limitEnds x then [(x.granted + 4096, Instr.leaseCycleLimit l)] else [])
    ++ (if grantActs s l then [(s.now, Instr.leaseGrant l)] else [])
    ++ (if s.booted && l < clusterCount s && !x.gated && clusterIdle s l then [(x.idleFrom + 4096, Instr.clusterGate l)] else [])

/-- The dated events of a die: ageing (R60), its scheduler's decisions (R61), slot tables (R329), unread entries of FNQ (R372). -/
def dieDue (s : State) (d : Nat) (x : Die) : List (Nat × Instr) :=
  if 4 ≤ d then []
  else (List.range 64).filterMap (fun q => (ageDue s d q).map (fun n => (n, Instr.queueAgeing d q)))
    ++ (if decides s d then [(s.now, Instr.schedulerDecision d)] else [])
    ++ (match x.newSlots with | some t => [(t.1, Instr.slotTableSwitch d)] | none => [])
    ++ x.fnq.map (fun e => (e.2.1 + wdogBound s d, Instr.fnqWatchdog d))

/-- The dated events of a port: its lantern (R328), a link resend (R441), the end of retraining (R442), a stalled milestone (R444). -/
def portDue (s : State) (p : Nat) (x : Port) : List (Nat × Instr) :=
  if 18 ≤ p then []
  else (if lanternReady x then [(x.lastTx + lanternPeriod s, Instr.lantern p)] else [])
    ++ (if portUp x && !x.buf.isEmpty then [(if x.stale then s.now else x.ackTime + lrto s, Instr.linkResend p)] else [])
    ++ (if x.state = 1 then [(x.retrainBy, Instr.retrainComplete p)] else [])
    ++ (if !(inputs s).contains p then []
        else
          let lag := s.podtime.toNat - x.msRecv.toNat
          if x.episode then (if lag ≤ msBound s then [(s.now, Instr.milestoneStall p)] else [])
          else [(s.now + (msBound s + 1 - lag), Instr.milestoneStall p)])

/-- The dated events of a connection: its acknowledgement (R331), resends (R447). -/
def connDue (s : State) (n : Nat) (x : Conn) : List (Nat × Instr) :=
  (match x.ackDue with | some t => [(ackBy s t, Instr.connectionAck n)] | none => [])
    ++ (if n = selfNode s then []
        else if x.bad then [(s.now, Instr.connectionResend n 0)]
        else (x.retry.zip (List.range x.retry.length)).map (fun r => (r.1.sent + crto s, Instr.connectionResend n r.2)))

/-- The dated events of the module: the power controller (R353), the hourly reading (R352), a wear record (R356), the bound of boot's wait (R346). -/
def moduleDue (s : State) : List (Nat × Instr) :=
  [(s.powerAt + msCycles, Instr.powerControlTick)]
    ++ (if s.booted then [(s.hourAt + hourCycles, Instr.wearMonitorReading)] else [])
    ++ (if s.booted && recordDue s then [(s.now, Instr.wearRecord)] else [])
    ++ (if !s.booted && s.bootStep = 5 && !s.locked then [(s.bootAt + 40000000000, Instr.bootLockTimeout)] else [])

/-- Every dated event with the moment at which it comes. -/
def allDue (s : State) : List ((Nat × Nat) × Instr) :=
  (s.cells.flatMap (fun p => cellDue s p.1 p.2) ++ s.clusters.flatMap (fun p => clusterDue s p.1 p.2) ++ s.dies.flatMap (fun p => dieDue s p.1 p.2)
    ++ s.ports.flatMap (fun p => portDue s p.1 p.2) ++ s.conns.flatMap (fun p => connDue s p.1 p.2) ++ moduleDue s).map
    (fun p => (moment s p.1 (eventRank s p.2), p.2))

/-- The dated event that comes first, of two at one moment the earlier in the list. -/
def soonest (l : List ((Nat × Nat) × Instr)) : Option ((Nat × Nat) × Instr) :=
  l.foldl (fun r p => match r with
    | none => some p
    | some q => if sooner p.1 q.1 then some p else some q) none

/-- The first dated event that comes before a moment. -/
def firstDue (s : State) (m : Nat × Nat) : Option ((Nat × Nat) × Instr) := (soonest (allDue s)).filter (fun p => !sooner m p.1)

/-- An event that the device takes on a turn of its own: not a word of the text, and not one of the four things that
a mover does at its own word. -/
def ownTurn (i : Instr) : Bool :=
  (encode i).isNone && i != .skipWord && i != .outcomeTake && i != .notAnInstruction && i != .fetchTranslationFault

/-- What a turn comes to: an instruction or event run in a state, nothing, or a mover that does not exist. -/
inductive Plan where
  | run (s : State) (i : Instr)
  | idle (s : State)
  | none

/-- A hidden error of a cell's structures is met (R429): an uncorrectable one is counted and reported with R431 code 0x03; an entry of the
fetch cache or of a TLB is counted and dropped, to be fetched or walked again. -/
def meetUpset (s : State) (c : Nat) (e : Engine) (u : Nat × Nat) : State :=
  let x := { s.cell c with upset := none }
  let keep := fun (t : List Trans) => t.filter (fun q => !(decide (q.base ≤ 65536 * u.2) && decide (65536 * u.2 < q.base + q.size)))
  if u.1 < 14 then
    let a := if e = .M then mNext s c else (s.cell c).agent e
    raise (countInteg (s.setCell c x) (dieOf s c) 32 16) c e { cls := 0xB, code := 3, aux := wd (u.1 + 256 * (u.2 % 65536)), dlv := 3, rst := false } a.pc a.dpos
  else if u.1 = 14 then countInteg (s.setCell c { x with fcache := Tab.erase x.fcache u.2 }) (dieOf s c) 0 32
  else countInteg (s.setCell c { x with stlb := keep x.stlb, vtlb := keep x.vtlb, mtlb := keep x.mtlb, xtlb := keep x.xtlb }) (dieOf s c) 0 32

/-- The record of R431 code 0x03 that a cell of a halted gang gets for an error in a table of its die; the structure in AUX is a free
value, since only the cell's own structures are numbered (log 60). -/
def tableReport (s : State) (c : Nat) : Report :=
  let a := (s.cell c).agent .S
  ⟨0xB, 3, agentNo c .S, 3, false, a.pc, 0, (Config.freeVec s.ticks).setWidth 64, a.dpos, s.podtime, 0, s.now⟩

/-- An uncorrectable error of a die's event table, slot tables or scale FIFOs (R429): a die alarm, and the die's gangs halt with code 0x03,
RST 0; an agent that has a record in that halt gets no second one (R428). -/
def tableUpset (s : State) (d : Nat) : State :=
  let t := (s.gangs.filter (fun g => g.die = d && g.run != .halted)).foldl (fun t g =>
    setGang t { g with run := .halting, norst := true, reports := g.reports ++ (g.cells.filter (fun c => !g.reports.any (fun q => q.agent = agentNo c .S))).map (tableReport s) }) s
  notify { t with ticks := t.ticks + 1 } d (fnqEntry 3 0 0 (4 * firstCluster s d) 0) []

/-- The first hidden error of a die is met; one that is corrected is counted alone. -/
def meetDieUpset (s : State) (d n : Nat) (r : List Nat) : State :=
  let s1 := s.setDie d { s.die d with upsets := r }
  if n = 0 then countInteg s1 d 0 32
  else if n = 1 then tableUpset (countInteg s1 d 32 16) d
  else countInteg (s1.setDie d { s1.die d with lltlb := (s1.die d).lltlb.eraseIdx (n - 2) }) d 0 32

/-- The turn of an agent. -/
def agentTurn (s : State) (c : Nat) (e : Engine) : Plan :=
  let s0 := { s with cur := .agent c e }
  if !active s0 c || ((s0.cell c).agent e).halted then .idle (flushSig s0 c e)
  else match (s0.cell c).upset, (s0.die (dieOf s0 c)).upsets with
    | some u, _ => .idle (meetUpset s0 c e u)
    | none, n :: r => .idle (meetDieUpset s0 (dieOf s0 c) n r)
    | none, [] => match agentFetch s0 c e with
      | (_, .flt _) => .run s0 .fetchTranslationFault
      | (s1, .ok w) => .run (keepReplay (keepG s1 c e w.1) c e w) (choose s1 c e w.1 w.2)

/-- The turn of an Innkeeper: an FNQ entry is taken first where no entry is being served and no word is in progress (R371). -/
def ikTurn (s : State) (d : Nat) : Plan :=
  let s0 := { s with cur := .ik d }
  let k := (s0.die d).ik
  if !k.running then .idle s0
  else match (s0.die d).upsets with
    | n :: r => .idle (meetDieUpset s0 d n r)
    | [] =>
      if fnqDue s0 d then .run s0 (.innkeeperExceptionEntry d)
      else match ikFetch s0 d with
        | (_, .flt _) => .run s0 .fetchTranslationFault
        | (s1, .ok w) => .run s1 (ikChoose w.1 w.2)

/-- The turn of a mover. -/
def moveTurn (s : State) (m : Move) : Plan :=
  match m with
  | .agent c e => if c < 512 then agentTurn s c e else .none
  | .innkeeper d => if d < 4 then ikTurn s d else .none
  | .event i => if ownTurn i then .run s i else .idle s

/-- The state with the clock at a moment. -/
def at_ (s : State) (m : Nat × Nat) : State := { advance s (m.1 - s.now) with rank := m.2 }

/-- The mover has made its turn of this cycle. -/
def markMoved (s : State) (m : Move) : State :=
  match m with
  | .agent c e => { s with moved := .agent c e :: s.moved }
  | .innkeeper d => { s with moved := .ik d :: s.moved }
  | .event _ => s

/-- What comes next: a dated event that comes before the turn, the rest of its wait kept, or the turn at its moment. -/
def plan (s : State) : Plan :=
  let p := nextTurn s
  let goal := s.now + p.2.wait
  let m := turnMoment s goal p.2.move
  match firstDue s m with
  | some q => .run (at_ { p.1 with agenda := ⟨goal - q.1.1, p.2.move⟩ :: p.1.agenda } q.1) q.2
  | none => moveTurn (markMoved (at_ p.1 m) p.2.move) p.2.move

end Sys2Proof.Machine
end

