-- ==== Sys2Proof/Machine/Step.lean ====
section
/-!
DEFINITION. One step of the machine: the turn that comes next and what it runs; and the placing of one instruction where
the next step fetches it.
-/
namespace Sys2Proof.Machine

/-- One step (log 1): a turn runs an instruction or event, changes nothing that a program sees, or names a mover that
does not exist. -/
def step (s : State) : Host.Outcome State Fault Refusal :=
  match plan s with
  | .run s1 i => exec i s1
  | .idle s1 => .next s1
  | .none => .fault .noSuchUnit

/-- A cell with a tile whose agents stand at address 0x10000 of the text; the agents other than `e` have passed it, and the fetch cache is empty. -/
def placedCell (x : Cell) (e : Engine) (mem : List Host.Cell) (key : Tab (BitVec 512)) : Cell :=
  let a := { Agent.reset with pc := 0x10000 }
  let p : Trans := ⟨0x10000, 0x10000, 0x10000, 0, true, true, true, 0x20000⟩
  let ahead := fun f => if f = e then a else { a with dpos := 100 }
  { x with tile := some ⟨0, 0, 0, 0⟩, stlb := [p], fcache := [], text := mem, textKey := key
           agents := [(0, ahead .S), (1, ahead .V), (2, ahead .M), (3, ahead .X)] }

/-- `s` with one instruction where the next step fetches it (log 20): a tile of logical cell 0 runs, its text page is
mapped, key slot 0 is loaded, its cell holds the lease, the agent that the word names has the turn, in a cycle that begins. -/
def State.withFetchWord (s : State) (nbits w : Nat) : State :=
  let v := w % 2 ^ nbits
  let e := engineOf (v / 2 ^ 30)
  let mem := memPutAll s.mem 0x10000 (leList 8 v)
  { s with
    mem := mem
    keySlots := Tab.set s.keySlots 0 (some 0)
    cells := Tab.set s.cells 0 (placedCell (s.cell 0) e mem s.lineKey)
    clusters := Tab.set s.clusters 0 { s.cluster 0 with lessee := some 0, owner := some 0 }
    gangs := [⟨0, 0, [0], 0, .running, [], false, none, []⟩]
    rank := 0
    moved := []
    agenda := [⟨0, .agent 0 e⟩] }

end Sys2Proof.Machine
end

