-- ==== Sys2Proof/Safety.lean ====
section
/-!
DEFINITION. What claims call a safe state and a run.
-/
namespace Sys2Proof.Machine

/-- The states that a run of `n` steps may pass through from `s`; a run that stops stays where it is. -/
def runFor (n : Nat) (s : State) : State :=
  match n with
  | 0 => s
  | k + 1 => match step s with
    | .next t => runFor k t
    | _ => s

/-- The form that memory keeps in every step (log 5): addresses strictly rising, no entry 0. -/
def MemOk (s : State) : Prop := Memory.wf s.mem = true

/-- The step goes on: no fault and no refusal. -/
def Goes (s : State) : Prop := ∃ t, step s = .next t

end Sys2Proof.Machine
end

