-- ==== Sys2Proof/Certificates/Slice0/Obligations.lean ====
section
/-!
DEFINITION. What is claimed of the model, stated for the provers: encodings, the result and the frame of every word, the effect of
every event, and invariants of the step.
-/

namespace Sys2Proof.Claims
open Sys2Proof.Machine

/-! What the statements about words share. -/

/-- The agent of engine `e` of cell `c` has the turn, and nothing holds back a word of `n` words with token bits `t`
(R40, R42, R43): the signals it owes are put first. -/
def Issues (s : State) (c : Nat) (e : Engine) (t : BitVec 4) (n : Nat) : Prop :=
  s.cur = .agent c e ∧ blocked (flushSig s c e) c e t n = none

/-- Everything but cell `c` is as it was. -/
def OnlyCell (s u : State) (c : Nat) : Prop := { u with cells := s.cells } = s ∧ ∀ k, k ≠ c → u.cell k = s.cell k

/-- Every byte of memory reads as it did. -/
def MemSame (s u : State) : Prop := ∀ a, memGet u.mem a = memGet s.mem a

/-- The agent of engine `e` went past `n` words: its position rose by as many, its next word outside a loop is the one
after them, and the other agents of the cell stand where they stood. -/
def Passed (x y : Cell) (e : Engine) (n : Nat) : Prop :=
  (y.agent e).dpos = (x.agent e).dpos + n ∧ ((x.agent e).levels = [] → (y.agent e).pc = (x.agent e).pc + wd (4 * n))
    ∧ ∀ f, f ≠ e → y.agent f = x.agent f

/-- A cell in which a word was passed, apart from what the word wrote: `y` with the parts that passing a word may change
(agents, tokens, the cycle of the last word passed) put back. -/
def unpassed (x y : Cell) : Cell := { y with agents := x.agents, tokens := x.tokens, lastPass := x.lastPass }

/-- Everything but the g registers and the PC of die `d`'s Innkeeper is as it was. -/
def OnlyIk (s u : State) (d : Nat) : Prop :=
  { u with dies := s.dies } = s ∧ (∀ k, k ≠ d → u.die k = s.die k)
    ∧ { u.die d with ik := { (u.die d).ik with g := (s.die d).ik.g, pc := (s.die d).ik.pc } } = s.die d

/-- The word `i` of `n` words, passed by the S agent of a cell, writes gd with a value for which `P` holds of the g registers before
it, and nothing else; so it does on an Innkeeper, where token bits are ignored (R237). g0 discards what is written (R168). -/
def Computes (i : Instr) (t : BitVec 4) (n : Nat) (d : BitVec 5) (rs : List (BitVec 5)) (P : (BitVec 5 → Word) → Word → Prop) : Prop :=
  (∀ s c, Issues s c .S t n → regsFree (s.cell c) rs = true → ∃ u v, exec i s = .next u
    ∧ P (fun r => (s.cell c).greg r.toNat) v
    ∧ (u.cell c).greg d.toNat = (if d = 0 then 0 else v)
    ∧ (∀ r : BitVec 5, r ≠ d → (u.cell c).greg r.toNat = (s.cell c).greg r.toNat)
    ∧ { unpassed (s.cell c) (u.cell c) with g := (s.cell c).g } = s.cell c
    ∧ Passed (s.cell c) (u.cell c) .S n ∧ OnlyCell s u c ∧ MemSame s u)
  ∧ (∀ s k, s.cur = .ik k → ∃ u v, exec i s = .next u
    ∧ P (fun r => (s.die k).ik.greg r.toNat) v
    ∧ (u.die k).ik.greg d.toNat = (if d = 0 then 0 else v)
    ∧ (∀ r : BitVec 5, r ≠ d → (u.die k).ik.greg r.toNat = (s.die k).ik.greg r.toNat)
    ∧ (u.die k).ik.pc = (s.die k).ik.pc + wd (4 * n) ∧ OnlyIk s u k ∧ MemSame s u)

/-- x below y in the view that SUB selects (R201). -/
def Below (u : BitVec 1) (x y : Word) : Prop := if u = 0 then x.toInt < y.toInt else x.toNat < y.toNat

/-- The shift count b[5:0] (R201). -/
def count (y : Word) : Nat := y.toNat % 64

end Sys2Proof.Claims

open Sys2Proof Sys2Proof.Machine Sys2Proof.Claims

/-- R201: ADD, SUB, MUL, MULH, AND, OR, XOR, SHL, SHR, SAR, ROR, MIN, MAX, SLT, SEQ, CLZ, CTZ, POPC complete with the result that the
table of R201 gives, set no flag and leave everything else as it was. -/
def Obligations.RegisterArithmetic : Prop :=
  (∀ t d a b, Computes (.add t d a b) t 1 d [d, a, b] (fun g v => v.toNat = ((g a).toNat + (g b).toNat) % 2 ^ 64))
  ∧ (∀ t d a b, Computes (.sub t d a b) t 1 d [d, a, b] (fun g v => (v.toNat + (g b).toNat) % 2 ^ 64 = (g a).toNat))
  ∧ (∀ t d a b, Computes (.mul t d a b) t 1 d [d, a, b] (fun g v => v.toNat = (g a).toNat * (g b).toNat % 2 ^ 64))
  ∧ (∀ t d a b, Computes (.mulh t d a 0 b) t 1 d [d, a, b] (fun g v => v.toInt = (g a).toInt * (g b).toInt / 2 ^ 64))
  ∧ (∀ t d a b, Computes (.mulh t d a 1 b) t 1 d [d, a, b] (fun g v => v.toNat = (g a).toNat * (g b).toNat / 2 ^ 64))
  ∧ (∀ t d a b, Computes (.andr t d a b) t 1 d [d, a, b] (fun g v => ∀ j, v.getLsbD j = ((g a).getLsbD j && (g b).getLsbD j)))
  ∧ (∀ t d a b, Computes (.orr t d a b) t 1 d [d, a, b] (fun g v => ∀ j, v.getLsbD j = ((g a).getLsbD j || (g b).getLsbD j)))
  ∧ (∀ t d a b, Computes (.xorr t d a b) t 1 d [d, a, b] (fun g v => ∀ j, v.getLsbD j = ((g a).getLsbD j ^^ (g b).getLsbD j)))
  ∧ (∀ t d a b, Computes (.shl t d a b) t 1 d [d, a, b] (fun g v => v.toNat = (g a).toNat * 2 ^ count (g b) % 2 ^ 64))
  ∧ (∀ t d a b, Computes (.shr t d a b) t 1 d [d, a, b] (fun g v => v.toNat = (g a).toNat / 2 ^ count (g b)))
  ∧ (∀ t d a b, Computes (.sar t d a b) t 1 d [d, a, b] (fun g v => v.toInt = (g a).toInt / 2 ^ count (g b)))
  ∧ (∀ t d a b, Computes (.ror t d a b) t 1 d [d, a, b] (fun g v => ∀ j, j < 64 → v.getLsbD j = (g a).getLsbD ((j + count (g b)) % 64)))
  ∧ (∀ t d a u b, Computes (.minr t d a u b) t 1 d [d, a, b] (fun g v => (v = g a ∨ v = g b) ∧ ¬ Below u (g a) v ∧ ¬ Below u (g b) v))
  ∧ (∀ t d a u b, Computes (.maxr t d a u b) t 1 d [d, a, b] (fun g v => (v = g a ∨ v = g b) ∧ ¬ Below u v (g a) ∧ ¬ Below u v (g b)))
  ∧ (∀ t d a u b, Computes (.slt t d a u b) t 1 d [d, a, b] (fun g v => (Below u (g a) (g b) → v = 1) ∧ (¬ Below u (g a) (g b) → v = 0)))
  ∧ (∀ t d a b, Computes (.seq t d a b) t 1 d [d, a, b] (fun g v => (g a = g b → v = 1) ∧ (g a ≠ g b → v = 0)))
  ∧ (∀ t d a, Computes (.clz t d a) t 1 d [d, a] (fun g v => v.toNat ≤ 64 ∧ (∀ j, j < v.toNat → (g a).getLsbD (63 - j) = false)
      ∧ (v.toNat < 64 → (g a).getLsbD (63 - v.toNat) = true)))
  ∧ (∀ t d a, Computes (.ctz t d a) t 1 d [d, a] (fun g v => v.toNat ≤ 64 ∧ (∀ j, j < v.toNat → (g a).getLsbD j = false)
      ∧ (v.toNat < 64 → (g a).getLsbD v.toNat = true)))
  ∧ (∀ t d a, Computes (.popc t d a) t 1 d [d, a] (fun g v => v.toNat = ((List.range 64).filter (fun j => (g a).getLsbD j)).length))

/-- R202: the quotient and remainder of DIV and REM, signed (SUB 0) and natural (SUB 1), truncated toward zero, with the results that the
rule defines for a zero divisor and for the one quotient that does not fit; neither faults. -/
def Obligations.DivideAndRemainder : Prop :=
  (∀ t d a u b, Computes (.div t d a u b) t 1 d [d, a, b] (fun g v =>
      if g b = 0 then v.toNat = 2 ^ 64 - 1
      else if u = 0 ∧ (g a).toInt = -2 ^ 63 ∧ (g b).toInt = -1 then v = g a
      else if u = 0 then v.toInt = Int.tdiv (g a).toInt (g b).toInt
      else v.toNat = (g a).toNat / (g b).toNat))
  ∧ (∀ t d a u b, Computes (.rem t d a u b) t 1 d [d, a, b] (fun g v =>
      if g b = 0 then v = g a
      else if u = 0 ∧ (g a).toInt = -2 ^ 63 ∧ (g b).toInt = -1 then v = 0
      else if u = 0 then v.toInt = (g a).toInt - Int.tdiv (g a).toInt (g b).toInt * (g b).toInt
      else v.toNat = (g a).toNat - (g a).toNat / (g b).toNat * (g b).toNat))

/-- R203: BEXT reads and BINS writes the field that b[5:0] places and b[13:8] sizes (0 means 64), bit by bit. -/
def Obligations.BitFields : Prop :=
  (∀ t d a b, Computes (.bext t d a b) t 1 d [d, a, b] (fun g v => ∀ p w, p = (g b).toNat % 64 →
      w = (if (g b).toNat / 2 ^ 8 % 64 = 0 then 64 else (g b).toNat / 2 ^ 8 % 64) → ∀ j, j < 64 →
      v.getLsbD j = (decide (j < w) && (g a).getLsbD (p + j))))
  ∧ (∀ t d a b, Computes (.bins t d a b) t 1 d [d, a, b] (fun g v => ∀ p w, p = (g b).toNat % 64 →
      w = (if (g b).toNat / 2 ^ 8 % 64 = 0 then 64 else (g b).toNat / 2 ^ 8 % 64) → ∀ j, j < 64 →
      v.getLsbD j = if p ≤ j ∧ j < p + w then (g a).getLsbD (j - p) else (g d).getLsbD j))

/-- R204, R184: the immediate forms, with an 8-bit immediate and with one in the extension word, both sign-extended. -/
def Obligations.ImmediateForms : Prop :=
  (∀ t d a j, Computes (.addi t d a j) t 1 d [d, a] (fun g v => v = g a + BitVec.ofInt 64 j.toInt))
  ∧ (∀ t d a x, Computes (.addiExt t d a x) t 2 d [d, a] (fun g v => v = g a + BitVec.ofInt 64 x.toInt))
  ∧ (∀ t d a j, Computes (.andi t d a j) t 1 d [d, a] (fun g v => v = g a &&& BitVec.ofInt 64 j.toInt))
  ∧ (∀ t d a x, Computes (.andiExt t d a x) t 2 d [d, a] (fun g v => v = g a &&& BitVec.ofInt 64 x.toInt))
  ∧ (∀ t d a j, Computes (.ori t d a j) t 1 d [d, a] (fun g v => v = g a ||| BitVec.ofInt 64 j.toInt))
  ∧ (∀ t d a x, Computes (.oriExt t d a x) t 2 d [d, a] (fun g v => v = g a ||| BitVec.ofInt 64 x.toInt))
  ∧ (∀ t d a j, Computes (.xori t d a j) t 1 d [d, a] (fun g v => v = g a ^^^ BitVec.ofInt 64 j.toInt))
  ∧ (∀ t d a x, Computes (.xoriExt t d a x) t 2 d [d, a] (fun g v => v = g a ^^^ BitVec.ofInt 64 x.toInt))
  ∧ (∀ t d a j, Computes (.shli t d a j) t 1 d [d, a] (fun g v => v.toNat = (g a).toNat * 2 ^ (j.toNat % 64) % 2 ^ 64))
  ∧ (∀ t d a x, Computes (.shliExt t d a x) t 2 d [d, a] (fun g v => v.toNat = (g a).toNat * 2 ^ (x.toNat % 64) % 2 ^ 64))
  ∧ (∀ t d a j, Computes (.shri t d a j) t 1 d [d, a] (fun g v => v.toNat = (g a).toNat / 2 ^ (j.toNat % 64)))
  ∧ (∀ t d a x, Computes (.shriExt t d a x) t 2 d [d, a] (fun g v => v.toNat = (g a).toNat / 2 ^ (x.toNat % 64)))
  ∧ (∀ t d a j, Computes (.sari t d a j) t 1 d [d, a] (fun g v => v.toInt = (g a).toInt / 2 ^ (j.toNat % 64)))
  ∧ (∀ t d a x, Computes (.sariExt t d a x) t 2 d [d, a] (fun g v => v.toInt = (g a).toInt / 2 ^ (x.toNat % 64)))
  ∧ (∀ t d a j, Computes (.slti t d a j) t 1 d [d, a] (fun g v => v = if (g a).toInt < j.toInt then 1 else 0))
  ∧ (∀ t d a x, Computes (.sltiExt t d a x) t 2 d [d, a] (fun g v => v = if (g a).toInt < x.toInt then 1 else 0))
  ∧ (∀ t d j, Computes (.li t d j) t 1 d [d] (fun _ v => v.toInt = j.toInt))
  ∧ (∀ t d x, Computes (.liExt t d x) t 2 d [d] (fun _ v => v.toInt = x.toInt))
  ∧ (∀ t d j, Computes (.lih t d j) t 1 d [d] (fun g v => v.extractLsb' 0 32 = (g d).extractLsb' 0 32 ∧ v.extractLsb' 32 32 = j.signExtend 32))
  ∧ (∀ t d x, Computes (.lihExt t d x) t 2 d [d] (fun g v => v.extractLsb' 0 32 = (g d).extractLsb' 0 32 ∧ v.extractLsb' 32 32 = x))
  ∧ (∀ t d a j, Computes (.muli t d a j) t 1 d [d, a] (fun g v => v = g a * BitVec.ofInt 64 j.toInt))
  ∧ (∀ t d a x, Computes (.muliExt t d a x) t 2 d [d, a] (fun g v => v = g a * BitVec.ofInt 64 x.toInt))

namespace Sys2Proof.Claims
open Sys2Proof.Machine

/-- `u` is `w` but for what passing a word changes in cell `c`: the agent of engine `e` went `n` positions on, outside a loop to
`np`; the other agents stand where they stood. -/
def Went (w u : State) (c : Nat) (e : Engine) (n : Nat) (np : Word) : Prop :=
  { u with cells := w.cells } = w ∧ (∀ k, k ≠ c → u.cell k = w.cell k) ∧ unpassed (w.cell c) (u.cell c) = w.cell c
    ∧ (∀ f, f ≠ e → (u.cell c).agent f = (w.cell c).agent f)
    ∧ ((u.cell c).agent e).dpos = ((w.cell c).agent e).dpos + n
    ∧ ((u.cell c).agent e).halted = ((w.cell c).agent e).halted
    ∧ (((w.cell c).agent e).levels = [] → ((u.cell c).agent e).pc = np)

/-- Where the S agent of cell `c` stands. -/
def pcS (s : State) (c : Nat) : Word := ((s.cell c).agent .S).pc

/-- The word `i` of the S agent of a cell completes: wherever it may issue, the registers `rs` it names are free, and `C` holds of the
state (its owed signals put), the cell and a state `w`, the next state is `w` with the word passed. -/
def SWord (i : Instr) (t : BitVec 4) (n : Nat) (rs : List (BitVec 5)) (C : State → Nat → State → Prop) : Prop :=
  ∀ s c w, Issues s c .S t n → regsFree (s.cell c) rs = true → C (flushSig s c .S) c w →
    ∃ u, exec i s = .next u ∧ Went w u c .S n (pcS s c + wd (4 * n))

/-- The address g(ga) + IMM + LO of the S agent of a cell (R200). -/
def addrS (s : State) (c : Nat) (a : BitVec 5) (i : Word) : Word :=
  (s.cell c).greg a.toNat + i + loG ((s.cell c).agent .S) a.toNat

/-- A load of `n` bytes, aligned to `n`, into `dest` enters the load queue (R142): its access is checked, and one load is
appended. -/
def LoadEnters (a : BitVec 5) (i : Word) (n : Nat) (dest : LoadDest) (s : State) (c : Nat) (w : State) : Prop :=
  ∃ s1 k, loadRoom (s.cell c) = true ∧ checkAccess s (.agent c .S) .S (addrS s c a i) n n false false = (s1, .ok k)
    ∧ w = s1.setCell c { s1.cell c with loads := (s1.cell c).loads ++ [⟨(s1.cell c).nextId, .S, ((s1.cell c).agent .S).dpos, loadGroups [k], [], false, [], dest⟩]
                                        nextId := (s1.cell c).nextId + 1 }

/-- A store of the bytes `b`, aligned to their number, enters the store queue (R142): its access is checked, D is marked
(R86), and one store of these bytes, to the places that the access names, is issued. -/
def StoreEnters (a : BitVec 5) (i : Word) (b : List Byte) (s : State) (c : Nat) (w : State) : Prop :=
  ∃ s1 k, storeRoom (s.cell c) 1 = true ∧ checkAccess s (.agent c .S) .S (addrS s c a i) b.length b.length true false = (s1, .ok k)
    ∧ (isMcast k.accs = true → mcastClear s1 c (s1.cell c).nextId k.accs = true)
    ∧ w = issueStore (markDirty s1 k.leaf) c .S ((s1.cell c).agent .S).dpos none (groupAccs (deal k.accs b))

end Sys2Proof.Claims

/-- R205, R142, R208: every scalar load and SLDR completes by entering the load queue with the address, the width and the destination that
the word names. -/
def Obligations.LoadsEnter : Prop :=
  (∀ t d a j, SWord (.ldI8 t d a j) t 1 [d, a] (LoadEnters a (BitVec.ofInt 64 j.toInt) 1 (.reg d.toNat 1 true)))
  ∧ (∀ t d a x, SWord (.ldI8Ext t d a x) t 2 [d, a] (LoadEnters a (BitVec.ofInt 64 x.toInt) 1 (.reg d.toNat 1 true)))
  ∧ (∀ t d a j, SWord (.ldI16 t d a j) t 1 [d, a] (LoadEnters a (BitVec.ofInt 64 j.toInt) 2 (.reg d.toNat 2 true)))
  ∧ (∀ t d a x, SWord (.ldI16Ext t d a x) t 2 [d, a] (LoadEnters a (BitVec.ofInt 64 x.toInt) 2 (.reg d.toNat 2 true)))
  ∧ (∀ t d a j, SWord (.ldI32 t d a j) t 1 [d, a] (LoadEnters a (BitVec.ofInt 64 j.toInt) 4 (.reg d.toNat 4 true)))
  ∧ (∀ t d a x, SWord (.ldI32Ext t d a x) t 2 [d, a] (LoadEnters a (BitVec.ofInt 64 x.toInt) 4 (.reg d.toNat 4 true)))
  ∧ (∀ t d a j, SWord (.ld64 t d a j) t 1 [d, a] (LoadEnters a (BitVec.ofInt 64 j.toInt) 8 (.reg d.toNat 8 false)))
  ∧ (∀ t d a x, SWord (.ld64Ext t d a x) t 2 [d, a] (LoadEnters a (BitVec.ofInt 64 x.toInt) 8 (.reg d.toNat 8 false)))
  ∧ (∀ t d a j, SWord (.ldN8 t d a j) t 1 [d, a] (LoadEnters a (BitVec.ofInt 64 j.toInt) 1 (.reg d.toNat 1 false)))
  ∧ (∀ t d a x, SWord (.ldN8Ext t d a x) t 2 [d, a] (LoadEnters a (BitVec.ofInt 64 x.toInt) 1 (.reg d.toNat 1 false)))
  ∧ (∀ t d a j, SWord (.ldN16 t d a j) t 1 [d, a] (LoadEnters a (BitVec.ofInt 64 j.toInt) 2 (.reg d.toNat 2 false)))
  ∧ (∀ t d a x, SWord (.ldN16Ext t d a x) t 2 [d, a] (LoadEnters a (BitVec.ofInt 64 x.toInt) 2 (.reg d.toNat 2 false)))
  ∧ (∀ t d a j, SWord (.ldN32 t d a j) t 1 [d, a] (LoadEnters a (BitVec.ofInt 64 j.toInt) 4 (.reg d.toNat 4 false)))
  ∧ (∀ t d a x, SWord (.ldN32Ext t d a x) t 2 [d, a] (LoadEnters a (BitVec.ofInt 64 x.toInt) 4 (.reg d.toNat 4 false)))
  ∧ (∀ t r a j, SWord (.sldr t r a j) t 1 [a] (fun s c w => (∀ l ∈ (s.cell c).loads ++ (s.cell c).returning, l.dest ≠ .stream r.toNat)
      ∧ LoadEnters a (BitVec.ofInt 64 j.toInt) 128 (.stream r.toNat) s c w))
  ∧ (∀ t r a x, SWord (.sldrExt t r a x) t 2 [a] (fun s c w => (∀ l ∈ (s.cell c).loads ++ (s.cell c).returning, l.dest ≠ .stream r.toNat)
      ∧ LoadEnters a (BitVec.ofInt 64 x.toInt) 128 (.stream r.toNat) s c w))

/-- R206, R142, R208: every scalar store and SSTR completes by entering the store queue with the low bytes of its source,
least significant first; PREF (R207) completes and changes nothing. -/
def Obligations.StoresEnter : Prop :=
  (∀ t b a j, SWord (.st8 t b a j) t 1 [b, a] (fun s c => StoreEnters a (BitVec.ofInt 64 j.toInt) (leList 1 ((s.cell c).greg b.toNat).toNat) s c))
  ∧ (∀ t b a x, SWord (.st8Ext t b a x) t 2 [b, a] (fun s c => StoreEnters a (BitVec.ofInt 64 x.toInt) (leList 1 ((s.cell c).greg b.toNat).toNat) s c))
  ∧ (∀ t b a j, SWord (.st16 t b a j) t 1 [b, a] (fun s c => StoreEnters a (BitVec.ofInt 64 j.toInt) (leList 2 ((s.cell c).greg b.toNat).toNat) s c))
  ∧ (∀ t b a x, SWord (.st16Ext t b a x) t 2 [b, a] (fun s c => StoreEnters a (BitVec.ofInt 64 x.toInt) (leList 2 ((s.cell c).greg b.toNat).toNat) s c))
  ∧ (∀ t b a j, SWord (.st32 t b a j) t 1 [b, a] (fun s c => StoreEnters a (BitVec.ofInt 64 j.toInt) (leList 4 ((s.cell c).greg b.toNat).toNat) s c))
  ∧ (∀ t b a x, SWord (.st32Ext t b a x) t 2 [b, a] (fun s c => StoreEnters a (BitVec.ofInt 64 x.toInt) (leList 4 ((s.cell c).greg b.toNat).toNat) s c))
  ∧ (∀ t b a j, SWord (.st64 t b a j) t 1 [b, a] (fun s c => StoreEnters a (BitVec.ofInt 64 j.toInt) (leList 8 ((s.cell c).greg b.toNat).toNat) s c))
  ∧ (∀ t b a x, SWord (.st64Ext t b a x) t 2 [b, a] (fun s c => StoreEnters a (BitVec.ofInt 64 x.toInt) (leList 8 ((s.cell c).greg b.toNat).toNat) s c))
  ∧ (∀ t r a j, SWord (.sstr t r a j) t 1 [a] (fun s c w => (∀ l ∈ (s.cell c).loads ++ (s.cell c).returning, l.dest ≠ .stream r.toNat)
      ∧ StoreEnters a (BitVec.ofInt 64 j.toInt) (leList 128 ((s.cell c).stream r.toNat).toNat) s c w))
  ∧ (∀ t r a x, SWord (.sstrExt t r a x) t 2 [a] (fun s c w => (∀ l ∈ (s.cell c).loads ++ (s.cell c).returning, l.dest ≠ .stream r.toNat)
      ∧ StoreEnters a (BitVec.ofInt 64 x.toInt) (leList 128 ((s.cell c).stream r.toNat).toNat) s c w))
  ∧ (∀ t a j, SWord (.pref t a j) t 1 [a] (fun s _ w => w = s))
  ∧ (∀ t a x, SWord (.prefExt t a x) t 2 [a] (fun s _ w => w = s))

/-- R142, R86: what entering a store changes where no store of the cell's queue leaves the node: the bytes of memory stay as they are
(but for the D bit, which `markDirty` sets before), and so do every register of the cell and everything outside it; the new bytes and
their places stand last in the queue, in order and unapplied, as one store where they lie on one path and in one class (R143, R77). A word of V
that has had its entry since it issued, and awaited its values, gets them there in its own place (R174). -/
def Obligations.StoreEntryFrame : Prop :=
  ∀ s c e n parts, parts ≠ [] → (∀ q ∈ (s.cell c).stores, leavesNode q = false) → (∀ g ∈ parts, ∀ p ∈ g, pathOf c p.1 < 9999) →
    (let u := issueStore s c e n none parts
    MemSame s u ∧ OnlyCell s u c ∧ { u.cell c with stores := (s.cell c).stores, nextId := (s.cell c).nextId } = s.cell c
      ∧ (u.cell c).stores.flatMap (fun q => q.parts) = (s.cell c).stores.flatMap (fun q => q.parts) ++ parts
      ∧ (∃ l q, (u.cell c).stores = l ++ [q] ∧ (s.cell c).nextId ≤ q.id ∧ q.id < (u.cell c).nextId ∧ q.applied = false ∧ q.dpos = n ∧ (∃ k, q.parts = parts.drop k)
        ∧ ((∀ g ∈ parts, partKey c g = partKey c (parts.headD [])) → q.id = (s.cell c).nextId)))
    ∧ ∀ id, let u := issueStore s c e n (some id) parts
      MemSame s u ∧ OnlyCell s u c ∧ { u.cell c with stores := (s.cell c).stores } = s.cell c
        ∧ (u.cell c).stores.flatMap (fun q => q.parts) = (s.cell c).stores.flatMap (fun q => if q.id = id && q.awaits then parts else q.parts)

/-- R139, R141, R143, R145: the oldest load of a cell, with an access in its own node, performs its next group whole: each of its
bytes is the one that the cell's latest earlier unapplied store to it gives, else the one its home holds; an earlier store to its bytes whose
values are still to come through a channel (R174) holds it. R205, R208: a load that has
performed reaches its register, sign- or zero-extended, or its stream. Neither changes memory.
Its bytes of memory that nothing has written read as log 5 says. -/
def Obligations.LoadsPerformAndReturn : Prop :=
  (∀ s c l r g k, (s.cell c).loads = l :: r → l.accs = g :: k → l.waiting = false → s.latent = [] → s.poison = [] →
    (∀ a ∈ g, ∃ h, a.loc = .home h) → (∀ q ∈ (s.cell c).stores, q.id < l.id → q.awaits = true → ∀ a ∈ g, storeMeets s c q a = false) →
    ∃ u, exec (.loadPerform c) s = .next u ∧ MemSame s u
      ∧ u.cell c = tookGroup (s.cell c) l (g.flatMap (fun a => match a.loc with
          | .home h => (List.range a.len).map (fun i => (forwarded s c l.id (h + i)).getD (byteAt (readHome s h a.len a.key) i))
          | _ => []))
      ∧ (∀ j, j ≠ c → u.cell j = s.cell j) ∧ { u with cells := s.cells, ticks := s.ticks } = s)
  ∧ (∀ s c l r g k q a, (s.cell c).loads = l :: r → l.accs = g :: k → q ∈ (s.cell c).stores → q.id < l.id → q.awaits = true → a ∈ g → storeMeets s c q a = true →
    exec (.loadPerform c) s = .next s)
  ∧ (∀ s c i l d n sg, (s.cell c).returning.find? (fun l => l.id = i && l.dest != .vec) = some l → l.dest = .reg d n sg → n ≤ 8 →
    ∃ u, exec (.loadReturn c i) s = .next u ∧ MemSame s u ∧ OnlyCell s u c
      ∧ (u.cell c).greg d = (if d = 0 then 0 else if sg then (BitVec.ofNat (8 * n) (leNat (l.got.take n))).signExtend 64 else wd (leNat (l.got.take n)))
      ∧ (∀ j, j ≠ d → (u.cell c).greg j = (s.cell c).greg j)
      ∧ { u.cell c with g := (s.cell c).g, returning := (s.cell c).returning } = s.cell c
      ∧ (u.cell c).returning = (s.cell c).returning.filter (fun q => q.id != i))
  ∧ (∀ s c i l n, (s.cell c).returning.find? (fun l => l.id = i && l.dest != .vec) = some l → l.dest = .stream n →
    ∃ u, exec (.loadReturn c i) s = .next u ∧ MemSame s u ∧ OnlyCell s u c ∧ (u.cell c).stream n = BitVec.ofNat 1024 (leNat l.got)
      ∧ (∀ j, j ≠ n → (u.cell c).stream j = (s.cell c).stream j))

/-- R139, R140, R143, R76, R87: a store that has left the queue and that nothing holds back applies its next part whole: the bytes of
each window access stand at its home, and every other byte reads as before; those of an access to the paged half read back under its key, every
other byte reads under that key as before, and the lines it does not touch stay as they are; the acknowledgement of a posted write that
has applied ends it. R75, R151: a multicast store that is due lands in the cell stores of all four cells of its cluster at once. -/
def Obligations.StoresApply : Prop :=
  (∀ s c i q a b r, leftStore (s.cell c) i = some q → leavesNode q = false → q.due = none → storeFree s c q = true →
    q.parts = [(a, b)] :: r → a.key = none → a.len = b.length → s.latent = [] → (∀ p ∈ (s.cell c).stores, leavesNode p = false) → ∀ h, a.loc = .home h →
    ∃ u, exec (.storeApply c i) s = .next u
      ∧ (∀ x, memGet u.mem x = if h ≤ x ∧ x < h + b.length then b.getD (x - h) 0 else memGet s.mem x))
  ∧ (∀ s c i q a b r k h, leftStore (s.cell c) i = some q → leavesNode q = false → q.due = none → storeFree s c q = true →
    q.parts = [(a, b)] :: r → a.key = some k → a.loc = .home h → a.len = b.length → b ≠ [] → h + b.length ≤ 2 ^ 48 → s.latent = [] →
    (∀ p ∈ (s.cell c).stores, leavesNode p = false) →
    ∃ u, exec (.storeApply c i) s = .next u
      ∧ (∀ x, readHome u x 1 (some k) = if h ≤ x ∧ x < h + b.length then [b.getD (x - h) 0] else readHome s x 1 (some k))
      ∧ (∀ x, x < h / 64 * 64 ∨ (h + b.length + 63) / 64 * 64 ≤ x → memGet u.mem x = memGet s.mem x))
  ∧ (∀ s c i q, (s.cell c).stores.find? (fun q => q.id = i && q.left) = some q → q.applied = true → leavesNode q = false →
    (∀ p ∈ (s.cell c).stores, leavesNode p = false) →
    ∃ u, exec (.postedWriteAck c i) s = .next u ∧ MemSame s u ∧ OnlyCell s u c
      ∧ { u.cell c with stores := (s.cell c).stores } = s.cell c
      ∧ ((∀ p ∈ (s.cell c).stores, p.left = true) → (s.cell c).stores.Perm (q :: (u.cell c).stores)))
  ∧ (∀ s c q a b o n, c < 512 → (s.cell c).stores.find? (fun q => !q.applied && (match q.due with | some n => decide (n ≤ s.now) | none => false)) = some q →
    q.parts = [[(a, b)]] → q.due = some n → a.loc = .mcast o → a.len = b.length → o + b.length ≤ 2 ^ 21 →
    ∃ u, exec (.multicastLanding c) s = .next u
      ∧ (∀ i k, i < 4 → k < b.length → memGet u.mem (cellHome (4 * (c / 4) + i) + o + k) = b.getD k 0)
      ∧ (∀ x, (∀ i, i < 4 → ¬ (cellHome (4 * (c / 4) + i) + o ≤ x ∧ x < cellHome (4 * (c / 4) + i) + o + b.length)) →
        memGet u.mem x = memGet (lanesFirst s c q).mem x)
      ∧ (u.cell c).stores = ((lanesFirst s c q).cell c).stores.filter (fun r => r.id != q.id)
      ∧ ((∀ r ∈ (s.cell c).stores, r.word = q.word → r = q) → lanesFirst s c q = s))

namespace Sys2Proof.Claims
open Sys2Proof.Machine

/-- The all-agent word `i` of the S agent completes: outside loops, with room in the outcome queues, the registers `rs` free, and `C`
giving a state `w` and the next PC, the next state is `w` with that PC recorded for V, M and X and the word passed. -/
def SJump (i : Instr) (t : BitVec 4) (n : Nat) (rs : List (BitVec 5)) (C : State → Nat → State → Word → Prop) : Prop :=
  ∀ s c w np, Issues s c .S t n → regsFree (s.cell c) rs = true → ((s.cell c).agent .S).levels = [] → outFull (s.cell c) = false →
    C (flushSig s c .S) c w np → ∃ u, exec i s = .next u ∧ Went (record w c ⟨np, none, false⟩) u c .S n np

/-- A branch by `off` bytes from PC, taken where `p` holds of g(ga) and g(gb), else to the next word. -/
def Branches (n : Nat) (a b : BitVec 5) (off : Int) (p : Word → Word → Prop) (s : State) (c : Nat) (w : State) (np : Word) : Prop :=
  w = s ∧ (p ((s.cell c).greg a.toNat) ((s.cell c).greg b.toNat) → np = pcS s c + BitVec.ofInt 64 off)
    ∧ (¬ p ((s.cell c).greg a.toNat) ((s.cell c).greg b.toNat) → np = pcS s c + wd (4 * n))

/-- A JTAB of `n` words over a table of `l` entries: its word completes once the four bytes of its entry are back, and before that asks
for entry min(g(gb), l). -/
def Tabled (i : Instr) (t : BitVec 4) (n : Nat) (a b : BitVec 5) (l : Nat) : Prop :=
  (l ≠ 0 → ∀ y o, SJump i t n [a, b] (fun s c w np => (s.cell c).sop = some o ∧ o.bytes = some y
      ∧ w = setSop s c none ∧ np = pcS s c + BitVec.ofInt 64 (4 * (BitVec.ofNat 32 (leNat y)).toInt)))
  ∧ (∀ s c s1 k, l ≠ 0 → Issues s c .S t n → regsFree (s.cell c) [a, b] = true → ((s.cell c).agent .S).levels = [] → outFull (s.cell c) = false →
      (s.cell c).sop = none → loadRoom (s.cell c) = true →
      checkAccess (flushSig s c .S) (.agent c .S) .S
        (addrS (flushSig s c .S) c a (wd (4 * min ((s.cell c).greg b.toNat).toNat l))) 4 4 false false = (s1, .ok k) →
      ∃ u, exec i s = .next u ∧ ((u.cell c).agent .S).pc = pcS s c ∧ ((u.cell c).agent .S).dpos = ((s.cell c).agent .S).dpos
        ∧ (∃ q, (u.cell c).loads = (s.cell c).loads ++ [q] ∧ q.accs = loadGroups [k] ∧ q.dest = .sop))
  ∧ (∀ s c, l = 0 → Issues s c .S t n → regsFree (s.cell c) [a, b] = true →
      exec i s = .next (fault (flushSig s c .S) c .S { cls := 1, code := 5 }))

end Sys2Proof.Claims

/-- R212, R184, R39: J and JL go to PC + 4 × OFF in every offset form, JL with NEXT in g23; JR goes to g(ga), a multiple of 4, and
elsewhere takes class 0x06 code 0x03 (R382). Each records its target for the other agents. -/
def Obligations.Jumps : Prop :=
  (∀ t o, SJump (.j t o) t 1 [] (fun s c w np => w = s ∧ np = pcS s c + BitVec.ofInt 64 (4 * o.toInt)))
  ∧ (∀ t o x, SJump (.jExt t o x) t 2 [] (fun s c w np => w = s ∧ np = pcS s c + BitVec.ofInt 64 (4 * (o ++ x).toInt)))
  ∧ (∀ t o, SJump (.jl t o) t 1 [23] (fun s c w np => w = s.setCell c ((s.cell c).setG 23 (pcS s c + 4)) ∧ np = pcS s c + BitVec.ofInt 64 (4 * o.toInt)))
  ∧ (∀ t o x, SJump (.jlExt t o x) t 2 [23] (fun s c w np => w = s.setCell c ((s.cell c).setG 23 (pcS s c + 8))
      ∧ np = pcS s c + BitVec.ofInt 64 (4 * (o ++ x).toInt)))
  ∧ (∀ t a, SJump (.jr t a) t 1 [a] (fun s c w np => w = s ∧ ((s.cell c).greg a.toNat).toNat % 4 = 0 ∧ np = (s.cell c).greg a.toNat))
  ∧ (∀ t a s c, Issues s c .S t 1 → regsFree (s.cell c) [a] = true → ((s.cell c).agent .S).levels = [] → outFull (s.cell c) = false →
      ((s.cell c).greg a.toNat).toNat % 4 ≠ 0 →
      exec (.jr t a) s = .next (fault (flushSig s c .S) c .S { cls := 6, code := 3, addr := (s.cell c).greg a.toNat }))

/-- R213, R184, R39: the compare-branches in both offset forms. -/
def Obligations.CompareBranches : Prop :=
  (∀ t a b o, SJump (.beq t a b o) t 1 [a, b] (Branches 1 a b (4 * o.toInt) (fun x y => x = y)))
  ∧ (∀ t a b x, SJump (.beqExt t a b x) t 2 [a, b] (Branches 2 a b (4 * x.toInt) (fun x y => x = y)))
  ∧ (∀ t a b o, SJump (.bne t a b o) t 1 [a, b] (Branches 1 a b (4 * o.toInt) (fun x y => x ≠ y)))
  ∧ (∀ t a b x, SJump (.bneExt t a b x) t 2 [a, b] (Branches 2 a b (4 * x.toInt) (fun x y => x ≠ y)))
  ∧ (∀ t a b o, SJump (.blt t a b o) t 1 [a, b] (Branches 1 a b (4 * o.toInt) (fun x y => x.toInt < y.toInt)))
  ∧ (∀ t a b x, SJump (.bltExt t a b x) t 2 [a, b] (Branches 2 a b (4 * x.toInt) (fun x y => x.toInt < y.toInt)))
  ∧ (∀ t a b o, SJump (.bge t a b o) t 1 [a, b] (Branches 1 a b (4 * o.toInt) (fun x y => y.toInt ≤ x.toInt)))
  ∧ (∀ t a b x, SJump (.bgeExt t a b x) t 2 [a, b] (Branches 2 a b (4 * x.toInt) (fun x y => y.toInt ≤ x.toInt)))
  ∧ (∀ t a b o, SJump (.bltn t a b o) t 1 [a, b] (Branches 1 a b (4 * o.toInt) (fun x y => x.toNat < y.toNat)))
  ∧ (∀ t a b x, SJump (.bltnExt t a b x) t 2 [a, b] (Branches 2 a b (4 * x.toInt) (fun x y => x.toNat < y.toNat)))
  ∧ (∀ t a b o, SJump (.bgen t a b o) t 1 [a, b] (Branches 1 a b (4 * o.toInt) (fun x y => y.toNat ≤ x.toNat)))
  ∧ (∀ t a b x, SJump (.bgenExt t a b x) t 2 [a, b] (Branches 2 a b (4 * x.toInt) (fun x y => y.toNat ≤ x.toNat)))

/-- R214: JTAB asks for entry min(i, L) of its table, and when the four bytes are back goes to PC + 4 × them, as a
signed number; L = 0 takes class 0x01 code 0x05 (R378).
That the jump is made at a later turn is the model's choice, log 9. -/
def Obligations.JumpTables : Prop :=
  (∀ t a b l, Tabled (.jtab t a b l) t 1 a b l.toNat) ∧ (∀ t a b l, Tabled (.jtabExt t a b l) t 2 a b l.toNat)

/-- R39, R215, R216, R217, R236: what an all-agent word records reaches the outcome queues of V, M and X and nothing else; LOOP starts
its level, or with trip count 0 goes to the end of its body, or takes the fault that R361 puts first of those of its word (R378) and of the fetch of
its body; LSTG puts its stage in force for the next word, and an agent other than S passes one with E = 1 with its extension (R379); HALT ends
its agent. -/
def Obligations.LoopsAndHalt : Prop :=
  (∀ s c o, OnlyCell s (record s c o) c ∧ { (record s c o).cell c with outq := (s.cell c).outq } = s.cell c
    ∧ (∀ e, outq ((record s c o).cell c) e = if e = .S then outq (s.cell c) e else outq (s.cell c) e ++ [o]))
  ∧ (∀ t a n s c s1 body, Issues s c .S t 1 → regsFree (s.cell c) [a] = true → ((s.cell c).agent .S).levels = [] → outFull (s.cell c) = false →
    0 < ((s.cell c).greg a.toNat).toNat → ((s.cell c).greg a.toNat).toNat < 2 ^ 32 →
    fetchRun (n.toNat + 1) (flushSig s c .S) (.agent c .S) (pcS s c + 4) = (s1, .ok body) →
    ∃ u, exec (.loop t a n) s = .next u ∧ ((u.cell c).agent .S).pc = pcS s c + 4
      ∧ ((u.cell c).agent .S).levels = [⟨pcS s c + 4, n.toNat + 1, ((s.cell c).greg a.toNat).toNat, maxStage 0 body, 0, copySlots (s.cell c) 0⟩]
      ∧ (∀ e, e ≠ .S → outq (u.cell c) e = outq (s.cell c) e
          ++ [⟨pcS s c + 4, some (n.toNat + 1, ((s.cell c).greg a.toNat).toNat, maxStage 0 body), false⟩]))
  ∧ (∀ t a n s c s1 body, Issues s c .S t 1 → regsFree (s.cell c) [a] = true → ((s.cell c).agent .S).levels = [] → outFull (s.cell c) = false →
    (s.cell c).greg a.toNat = 0 → fetchRun (n.toNat + 1) (flushSig s c .S) (.agent c .S) (pcS s c + 4) = (s1, .ok body) →
    ∃ u, exec (.loop t a n) s = .next u ∧ ((u.cell c).agent .S).pc = pcS s c + 4 + wd (4 * (n.toNat + 1)) ∧ ((u.cell c).agent .S).levels = [])
  ∧ (∀ t a n s c s1 body f, Issues s c .S t 1 → regsFree (s.cell c) [a] = true → fetchRun (n.toNat + 1) (flushSig s c .S) (.agent c .S) (pcS s c + 4) = (s1, .ok body) →
    loopWordFlt (s.cell c) (n.toNat + 1) ((s.cell c).greg a.toNat) = some f → exec (.loop t a n) s = .next (fault s1 c .S f))
  ∧ (∀ t a n s c s1 f, Issues s c .S t 1 → regsFree (s.cell c) [a] = true → fetchRun (n.toNat + 1) (flushSig s c .S) (.agent c .S) (pcS s c + 4) = (s1, .flt f) →
    exec (.loop t a n) s = .next (fault s1 c .S ((loopWordFlt (s.cell c) (n.toNat + 1) ((s.cell c).greg a.toNat)).elim f (firstFlt f))))
  ∧ (∀ g f l s c e v r n, n = (if e = .S then 1 else wordCount (wordHere (s.cell c) e)) → Issues s c e 0 n → ((s.cell c).agent e).levels = v :: r →
    ((s.cell c).agent e).pc + wd (4 * n) ≠ v.start + wd (4 * v.len) →
    ∃ u, exec (.lstg g f l) s = .next u ∧ ((u.cell c).agent e).lstg = some (g.toNat, f == 1, l == 1)
      ∧ ((u.cell c).agent e).dpos = ((s.cell c).agent e).dpos + n ∧ ((u.cell c).agent e).pc = ((s.cell c).agent e).pc + wd (4 * n)
      ∧ OnlyCell s u c ∧ MemSame s u)
  ∧ (∀ t s c, Issues s c .S t 1 → ((s.cell c).agent .S).levels = [] → outFull (s.cell c) = false →
    ∃ u, exec (.halt t) s = .next u ∧ ((u.cell c).agent .S).halted = true ∧ ((u.cell c).agent .S).pc = pcS s c + 4
      ∧ (∀ e, e ≠ .S → outq (u.cell c) e = outq (s.cell c) e ++ [⟨pcS s c + 4, none, true⟩]) ∧ OnlyCell s u c ∧ MemSame s u)

/-- R38, R39, R198, R42, R43: a skipping agent passes a word with no effect and no tokens; V, M and X go on where the oldest outcome says,
and end where it says so, V only with nothing in flight; a word that waits for tokens takes the oldest one of each FIFO it
names, and no others. -/
def Obligations.Skipping : Prop :=
  (∀ s c e, Issues s c e 0 (wordCount (wordHere (s.cell c) e)) → isLoop (wordHere (s.cell c) e) = false →
    ∃ u, exec .skipWord s = .next u ∧ Went (flushSig s c e) u c e (wordCount (wordHere (s.cell c) e))
      (((s.cell c).agent e).pc + wd (4 * wordCount (wordHere (s.cell c) e))) ∧ (u.cell c).tokens = ((flushSig s c e).cell c).tokens)
  ∧ (∀ s c e o r, e ≠ .S → Issues s c e 0 (wordCount (wordHere (s.cell c) e)) → (e = .V → (s.cell c).pend = []) →
    outq (s.cell c) e = o :: r → o.loop = none → ((s.cell c).agent e).levels = [] →
    ∃ u, exec .outcomeTake s = .next u ∧ outq (u.cell c) e = r ∧ ((u.cell c).agent e).pc = o.pc ∧ ((u.cell c).agent e).halted = o.ended
      ∧ ((u.cell c).agent e).dpos = ((s.cell c).agent e).dpos + wordCount (wordHere (s.cell c) e) ∧ OnlyCell s u c ∧ MemSame s u)
  ∧ (∀ x e t, ((x.agent e).taken.contains (x.agent e).dpos = false) → ∀ f g, (takeToks x e t).tok f g
      = if (wl t = true ∧ f = leftOf e ∧ g = e) ∨ (wr t = true ∧ f = rightOf e ∧ g = e) then (x.tok f g).tail else x.tok f g)

/-- R216, R219: a level whose body an agent has passed goes round while iterations are left, each stride slot's offset
stepped by its stride, and is left after its last one. -/
def Obligations.LoopTurns : Prop :=
  ∀ s c e t n np v r, ((s.cell c).agent e).levels = v :: r → np = v.start + wd (4 * v.len) →
    (v.iter + 1 < v.trip + v.stages - 1 →
      (((retireAt s c e t n np).cell c).agent e).pc = v.start
      ∧ (((retireAt s c e t n np).cell c).agent e).levels
        = { v with iter := v.iter + 1, slots := v.slots.map (fun q => { q with off := q.off + BitVec.ofInt 64 q.stride.toInt }) } :: r)
    ∧ (v.trip + v.stages - 1 ≤ v.iter + 1 → (∀ w ∈ r, np ≠ w.start + wd (4 * w.len)) →
      (((retireAt s c e t n np).cell c).agent e).pc = np ∧ (((retireAt s c e t n np).cell c).agent e).levels = r)

/-- R146, R153, R152, R211: QSYNC and FENCE complete by coming into force with just the earlier accesses that they wait for, FENCE with
those in its scope or whose places a channel is still to show, and a FENCE scope of 5 to 7 takes class 0x01 code 0x05; one is over when the loads
that it found have performed and the stores have left, and those of the own-cell-store path or of a FENCE's scope have applied; while one is in force no
access enters either queue; scopes nest; TOK changes nothing. -/
def Obligations.OrderingWords : Prop :=
  (∀ t, SWord (.qsync t) t 1 [] (fun s c w => held (s.cell c) = false ∧ w = s.setCell c { s.cell c with
      hold := some ⟨(s.cell c).loads.map (·.id), (s.cell c).stores.map (·.id), (s.cell c).stores.map (·.id)⟩ }))
  ∧ (∀ t r, r.toNat ≤ 4 → SWord (.fence t r) t 1 [] (fun s c w => held (s.cell c) = false ∧ w = s.setCell c { s.cell c with
      hold := some ⟨(s.cell c).loads.map (·.id), [],
        ((s.cell c).stores.filter (fun q => q.blind || q.parts.any (fun g => g.any (fun p => inScope s c r.toNat p.1)))).map (·.id)⟩ }))
  ∧ (∀ t r s c, 4 < r.toNat → Issues s c .S t 1 → exec (.fence t r) s = .next (fault (flushSig s c .S) c .S { cls := 1, code := 5 }))
  ∧ (∀ t, SWord (.tok t) t 1 [] (fun s _ w => w = s))
  ∧ (∀ x h, x.hold = some h → (held x = false ↔ (∀ l ∈ x.loads, l.id ∉ h.loads)
      ∧ (∀ q ∈ x.stores, (q.id ∈ h.leave → q.left = true) ∧ (q.id ∈ h.apply → h.leave ≠ [] ∧ q.path ≠ 0 ∧ q.awaits = false))))
  ∧ (∀ x k, held x = true → loadRoom x = false ∧ storeRoom x k = false)
  ∧ (∀ s c k m a, k ≤ m → inScope s c k a = true → inScope s c m a = true)

/-- R8, R55, R385: what a write leaves in a register, bit by bit: RW bits take the value, W1C bits clear where 1 is written, all other
bits stay; SLIPWIN saturates to 8 … 1,024 and a queue SIZE of 0 to 3 stores 4. -/
def Obligations.RegisterFields : Prop :=
  (∀ n old v j, n ≠ 0 → ¬ (0x440 ≤ n ∧ n < 0x480) → j < 64 → (fieldWrite n old v).getLsbD j
      = if (wd (rwMask n)).getLsbD j then v.getLsbD j else old.getLsbD j && !(v.getLsbD j && (wd (w1cMask n)).getLsbD j))
  ∧ (∀ old v, 8 ≤ (fieldWrite 0 old v).toNat ∧ (fieldWrite 0 old v).toNat ≤ 1024
      ∧ (8 ≤ v.toNat % 2048 → v.toNat % 2048 ≤ 1024 → (fieldWrite 0 old v).toNat = v.toNat % 2048))
  ∧ (∀ n old v, 0x440 ≤ n → n < 0x480 → 4 ≤ bits (fieldWrite n old v) 12 4
      ∧ (4 ≤ bits v 12 4 → bits (fieldWrite n old v) 12 4 = bits v 12 4) ∧ bits (fieldWrite n old v) 7 2 = bits v 7 2 ∧ bits (fieldWrite n old v) 0 3 = bits v 0 3)

/-- R233, R179, R378: SYSRD writes gd with the register of the unit that the number names for the cell, after the cell's own writes of it;
SYSWR gives a cell register its new value, and any other one to its owner, who acknowledges it later; an unassigned
number is code 0x05, a supervisor register code 0x06. -/
def Obligations.SystemRegisters : Prop :=
  (∀ t g n, SWord (.sysrd t g n) t 1 [g] (fun s c w => regKnown n.toNat = true ∧ regProgram n.toNat = true
      ∧ (∀ q ∈ s.writes, ¬ (q.by_ = .agent c .S ∧ q.reg = n.toNat))
      ∧ w = s.setCell c ((s.cell c).setG g.toNat (readReg s n.toNat
          (if n.toNat < 0x100 then c else if n.toNat < 0x200 then clusterOf c else if n.toNat < 0x1000 then dieOf s c else 0)))))
  ∧ (∀ t g n, SWord (.syswr t g n) t 1 [g] (fun s c w => n.toNat < 0x100 ∧ regKnown n.toNat = true ∧ regProgram n.toNat = true
      ∧ w = writeCell s c n.toNat ((s.cell c).greg g.toNat)))
  ∧ (∀ t g n, SWord (.syswr t g n) t 1 [g] (fun s c w => 0x100 ≤ n.toNat ∧ regKnown n.toNat = true ∧ regProgram n.toNat = true
      ∧ w = { s with writes := s.writes ++ [⟨.agent c .S, n.toNat,
          if n.toNat < 0x200 then clusterOf c else if n.toNat < 0x1000 then dieOf s c else 0, (s.cell c).greg g.toNat, false, ((s.cell c).agent .S).dpos⟩] }))
  ∧ (∀ t g n i s c, (i = .sysrd t g n ∨ i = .syswr t g n) → Issues s c .S t 1 → regsFree (s.cell c) [g] = true → regKnown n.toNat = false →
      exec i s = .next (fault (flushSig s c .S) c .S { cls := 1, code := 5 }))
  ∧ (∀ t g n i s c, (i = .sysrd t g n ∨ i = .syswr t g n) → Issues s c .S t 1 → regsFree (s.cell c) [g] = true →
      regKnown n.toNat = true → regProgram n.toNat = false → exec i s = .next (fault (flushSig s c .S) c .S { cls := 1, code := 6 }))

/-- R8, R233, R174: the owner takes the oldest write that has no event of its own (log 66) and gives its register the value; one of LKCTL may bring the
port NEAR its limit, which signals EVN (R342), and one of ATTCMD starts a report (R357); its acknowledgement takes the write off; a channel that holds
nothing any more takes the binding written to it. -/
def Obligations.RegisterWritesLand : Prop :=
  (∀ s w r, s.writes = w :: r → mayTake s w = true → ownEvent s w = false → w.reg ≠ 0x1304 → inRun w.reg 0x1140 18 = false →
    exec .registerWrite s = .next (writeShared { s with writes := { w with taken := true } :: r } w.reg w.unit w.val))
  ∧ (∀ s w r, s.writes = w :: r → mayTake s w = true → inRun w.reg 0x1140 18 = true →
    exec .registerWrite s = .next (watchNear (writeShared { s with writes := { w with taken := true } :: r } w.reg w.unit w.val) (w.reg - 0x1140)))
  ∧ (∀ s w r, s.writes = w :: r → w.taken = false → s.report = none → w.reg = 0x1304 →
    exec .registerWrite s = .next { writeShared { s with writes := { w with taken := true } :: r } w.reg w.unit w.val with report := some (w.by_, w.val) })
  ∧ (∀ s w r, s.writes = w :: r → w.taken = true → exec (.syswrAck w.by_.num) s = .next { s with writes := r })
  ∧ (∀ s c n, c < 512 → n < 16 → ((s.cell c).chan n).q = [] → ((s.cell c).chan n).pending = true →
    ∃ u, exec (.channelRebind c n) s = .next u ∧ (u.cell c).chan n = { (s.cell c).chan n with act := ((s.cell c).chan n).bind, pending := false }
      ∧ (∀ m, m ≠ n → (u.cell c).chan m = (s.cell c).chan m) ∧ OnlyCell s u c ∧ MemSame s u)

/-- R358, R359, R362, R363, R377: TAKING AN EXCEPTION in a cell: the report with the class, code, agent, delivery, PC, ADDR, AUX, position and
time joins its gang's halt, and the gang halts; no register, byte of memory or other gang changes. A gang takes one report of its own word for each
agent (R428), beside one that is of no word of it (log 56). -/
def Obligations.ExceptionTaken : Prop :=
  (∀ s c e f g l r, s.gangs = l ++ g :: r → (∀ h ∈ l, h.cells.contains c = false ∨ h.run = .halted) → g.cells.contains c = true → g.run ≠ .halted →
    (∀ h ∈ l ++ r, h.first = g.first → h.run = .halted) →
    (∀ q ∈ g.reports, q.agent = agentNo c e → ownReport q = false ∧ f.cls ≠ 0xD ∧ ¬ (f.cls = 0xB ∧ f.code = 3)) →
    fault s c e f = { s with gangs := l ++ { g with
      run := .halting, norst := g.norst || !f.rst
      reports := g.reports ++ [⟨f.cls, f.code, 4 * c + engCode e, f.dlv, f.rst, ((s.cell c).agent e).pc, f.addr,
        if f.cls = 1 ∧ f.aux = 0 then wordAux (s.cell c) e ((s.cell c).agent e).pc else f.aux, ((s.cell c).agent e).dpos, s.podtime, f.aux2, s.now⟩] } :: r })
  ∧ (∀ s c e f g q, gangOf s c = some g → q ∈ g.reports → q.agent = agentNo c e → (ownReport q = true ∨ f.cls = 0xD ∨ f.cls = 0xB ∧ f.code = 3) → fault s c e f = s)

/-- R371, R372, R235, R237: TAKING AN EXCEPTION on an Innkeeper: IKEPC, ACT, CODE, CLASS and IKADDR are set and the PC goes to IKVEC; a fault while
ACT is 1 halts it for good; ERET restores the PC and clears ACT, and on a cell is class 0x01 code 0x06; a TRAP of the
Innkeeper goes on at the next word, and its entry for FNQ is class 0xFE. -/
def Obligations.InnkeeperExceptions : Prop :=
  (∀ s d f, ikActive s d = false → let u := ikFault s d f
    (u.die d).ik.pc = dreg s d 0x209 ∧ dreg u d 0x20A = (s.die d).ik.pc ∧ dreg u d 0x20B = wd (2 ^ 63 + f.code * 2 ^ 8 + f.cls) ∧ dreg u d 0x20C = f.addr
      ∧ (u.die d).ik.sop = none ∧ (u.die d).ik.g = (s.die d).ik.g ∧ MemSame s u ∧ u.cells = s.cells)
  ∧ (∀ s d f, d < 4 → ikActive s d = true →
    ((ikFault s d f).die d).ik.running = false ∧ ((ikFault s d f).die d).ik.nest = true ∧ bit (mreg (ikFault s d f) 0x1307) (44 + d) = true)
  ∧ (∀ t s d, s.cur = .ik d → (∀ q ∈ s.writes, q.by_ ≠ .ik d) → ∃ u, exec (.eret t) s = .next u ∧ (u.die d).ik.pc = dreg s d 0x20A
      ∧ ikActive u d = false ∧ (∀ j, j < 63 → bit (dreg u d 0x20B) j = bit (dreg s d 0x20B) j) ∧ (u.die d).ik.g = (s.die d).ik.g ∧ MemSame s u ∧ u.cells = s.cells)
  ∧ (∀ t s c, Issues s c .S t 1 → exec (.eret t) s = .next (fault (flushSig s c .S) c .S { cls := 1, code := 6 }))
  ∧ (∀ t n s d, s.cur = .ik d → ∃ u, exec (.trap t n) s = .next u ∧ (u.die d).ik.pc = dreg s d 0x209
      ∧ dreg u d 0x20A = (s.die d).ik.pc + 4 ∧ dreg u d 0x20B = wd (2 ^ 63 + n.toNat * 2 ^ 8))
  ∧ (∀ s d, (s.die d).ik.running = true → (s.die d).ik.sop = none → ikActive s d = false → (s.die d).fnq ≠ [] → ∃ u, exec (.innkeeperExceptionEntry d) s = .next u
      ∧ (u.die d).ik.pc = dreg s d 0x209 ∧ dreg u d 0x20A = (s.die d).ik.pc ∧ dreg u d 0x20B = wd (2 ^ 63 + 0xFE) ∧ (u.die d).fnq = (s.die d).fnq)

/-- R234, R189, R377, R380, R38: TRAP completes and halts its gang with a report of class 0x00, its code, delivery 1 and its own PC; a word that is
no instruction, and one that cannot be fetched, are reported by their agent, which stays at the word; V reports either only once what is in
flight has landed, where a trap is enabled (R412). -/
def Obligations.TrapsAndBadWords : Prop :=
  (∀ t n s c g, Issues s c .S t 1 → s.gangs = [g] → g.cells.contains c = true → g.run = .running → g.reports = [] →
    ∃ u, exec (.trap t n) s = .next u ∧ ((u.cell c).agent .S).dpos = ((s.cell c).agent .S).dpos + 1 ∧ MemSame s u
      ∧ ∃ h q, u.gangs = [h] ∧ h.run = .halting ∧ h.reports = [q] ∧ q.cls = 0 ∧ q.code = n.toNat ∧ q.agent = 4 * c ∧ q.dlv = 1 ∧ q.pc = pcS s c)
  ∧ (∀ s c e s1 w, s.cur = .agent c e → agentFetch (flushSig s c e) c e = (s1, .ok w) → blocked s1 c e (fld w.1 25 4) (wordCount w.1) = none →
      trapWait (s1.cell c) e = false → exec .notAnInstruction s = .next (fault s1 c e { cls := 1, code := badCode w.1 w.2, aux := auxOf w }))
  ∧ (∀ s c e s1 f, s.cur = .agent c e → blocked (flushSig s c e) c e 0 0 = none → trapWait ((flushSig s c e).cell c) e = false →
      agentFetch (flushSig s c e) c e = (s1, .flt f) →
      exec .fetchTranslationFault s = .next (fault s1 c e f))
  ∧ (∀ s d s1 f, s.cur = .ik d → ikFetch s d = (s1, .flt f) → exec .fetchTranslationFault s = .next (ikFault s1 d f))
  ∧ (∀ s d s1 w, s.cur = .ik d → ikFetch s d = (s1, .ok w) → exec .notAnInstruction s
      = .next (ikFault s1 d { cls := 1, code := if ikExcluded w.1 then 1 else badCode w.1 w.2 }))

namespace Sys2Proof.Claims
open Sys2Proof.Machine

/-- A plain push has room (R173): KIND 0 or 1, no new binding in wait, fewer than four entries. -/
def PushRoom (h : Chan) : Prop := bKind (effBind h) < 2 ∧ pendingBind h = false ∧ h.q.length < 4

/-- The channel with one more entry. -/
def pushed (h : Chan) (id : Nat) (v : VReg) : Chan := { h with q := h.q ++ [⟨id, some v⟩] }

/-- The Guestbook entry that a live handle names at its home cell (R175, R224). -/
def Live (x : Cell) (h : BitVec 32) (e : GbEntry) : Prop := e = x.gbEntry (hEnv h) ∧ e.count ≠ 0 ∧ e.gen = hGen h

/-- The handle names the asking cell's own Guestbook, at which no request of another cell waits. -/
def OwnHome (s : State) (c : Nat) (h : BitVec 32) : Prop := isNull h = false ∧ hHome h = c ∧ c < cellCount s ∧ (s.cell c).gbq = []

end Sys2Proof.Claims

/-- R210, R227, R173, R174: CPUSH and KPUSH append the g register or the handle, zero-extended, to a channel with room; CPOP and KPOP take
the head entry's low bits, a token reading 0; a peek leaves it; a channel that is full, or that a new binding awaits, holds a push or, where WAIT is 0,
faults with class 0x02 code 0x02; a channel that no push may name faults with code 0x03. -/
def Obligations.ScalarChannels : Prop :=
  (∀ t n a, SWord (.cpush t n a) t 1 [a] (fun s c w => PushRoom ((s.cell c).chan n.toNat) ∧
      w = s.setCell c ((s.cell c).setChan n.toNat (pushed ((s.cell c).chan n.toNat) (s.cell c).nextId (((s.cell c).greg a.toNat).setWidth 2048)))))
  ∧ (∀ t n k, SWord (.kpush t n k) t 1 [] (fun s c w => PushRoom ((s.cell c).chan n.toNat) ∧
      w = s.setCell c ((s.cell c).setChan n.toNat (pushed ((s.cell c).chan n.toNat) (s.cell c).nextId (((s.cell c).kreg k.toNat).setWidth 2048)))))
  ∧ (∀ t d p n i v r, SWord (.cpop t d p n) t 1 [d] (fun s c w => bKind (effBind ((s.cell c).chan n.toNat)) < 2
      ∧ ((s.cell c).chan n.toNat).q = ⟨i, some v⟩ :: r
      ∧ w = s.setCell c ((if p = 1 then s.cell c else (s.cell c).setChan n.toNat { (s.cell c).chan n.toNat with q := r }).setG d.toNat
          (if bKind (effBind ((s.cell c).chan n.toNat)) = 1 then 0 else v.setWidth 64))))
  ∧ (∀ t k n i v r, SWord (.kpop t k n) t 1 [] (fun s c w => bKind (effBind ((s.cell c).chan n.toNat)) = 0
      ∧ ((s.cell c).chan n.toNat).q = ⟨i, some v⟩ :: r
      ∧ w = s.setCell c (((s.cell c).setChan n.toNat { (s.cell c).chan n.toNat with q := r }).setK k.toNat (v.setWidth 32))))
  ∧ (∀ t n a s c, Issues s c .S t 1 → regsFree (s.cell c) [a] = true →
      (pendingBind ((s.cell c).chan n.toNat) = true ∨ bKind (effBind ((s.cell c).chan n.toNat)) < 2 ∧ 4 ≤ ((s.cell c).chan n.toNat).q.length) →
      (bWait (effBind ((s.cell c).chan n.toNat)) = true → exec (.cpush t n a) s = .next (waits (flushSig s c .S) c .S (.chanPush n.toNat)))
      ∧ (bWait (effBind ((s.cell c).chan n.toNat)) = false → exec (.cpush t n a) s
          = .next (fault (flushSig s c .S) c .S (chanFlt ((s.cell c).chan n.toNat) n.toNat 2))))
  ∧ (∀ t n a s c, Issues s c .S t 1 → regsFree (s.cell c) [a] = true → pendingBind ((s.cell c).chan n.toNat) = false →
      (bKind (effBind ((s.cell c).chan n.toNat)) = 3 ∨ 5 ≤ bKind (effBind ((s.cell c).chan n.toNat))) →
      exec (.cpush t n a) s = .next (fault (flushSig s c .S) c .S (chanFlt ((s.cell c).chan n.toNat) n.toNat 3)))
  ∧ (∀ t d p n s c, Issues s c .S t 1 → regsFree (s.cell c) [d] = true → bKind (effBind ((s.cell c).chan n.toNat)) < 3 → ((s.cell c).chan n.toNat).q = [] →
      (bWait (effBind ((s.cell c).chan n.toNat)) = true → exec (.cpop t d p n) s = .next (waits (flushSig s c .S) c .S (.chanPop n.toNat)))
      ∧ (bWait (effBind ((s.cell c).chan n.toNat)) = false → exec (.cpop t d p n) s
          = .next (fault (flushSig s c .S) c .S (chanFlt ((s.cell c).chan n.toNat) n.toNat 1))))

/-- R224, R225, R175, R392: KDUP copies a handle and raises its entry's count by one, KDROP lowers it, and the entry whose count reaches 0 is
free with its generation advanced; the null handle changes no entry; a handle whose entry is free or of another generation is
stale and takes class 0x08 code 0x01. -/
def Obligations.ClosureCounts : Prop :=
  (∀ t d k, SWord (.kdup t d k) t 1 [] (fun s c w => isNull ((s.cell c).kreg k.toNat) = true ∧
      w = s.setCell c { s.cell c with k := Tab.set (s.cell c).k d.toNat ((s.cell c).kreg k.toNat), sop := none }))
  ∧ (∀ t d k e, SWord (.kdup t d k) t 1 [] (fun s c w => OwnHome s c ((s.cell c).kreg k.toNat) ∧ Live (s.cell c) ((s.cell c).kreg k.toNat) e ∧ e.count < 65535
      ∧ w = s.setCell c { s.cell c with k := Tab.set (s.cell c).k d.toNat ((s.cell c).kreg k.toNat), sop := none, gb := Tab.set (s.cell c).gb (hEnv ((s.cell c).kreg k.toNat)) { e with count := e.count + 1 } }))
  ∧ (∀ t k, SWord (.kdrop t k) t 1 [] (fun s c w => isNull ((s.cell c).kreg k.toNat) = true ∧ w = s))
  ∧ (∀ t k e, SWord (.kdrop t k) t 1 [] (fun s c w => OwnHome s c ((s.cell c).kreg k.toNat) ∧ Live (s.cell c) ((s.cell c).kreg k.toNat) e
      ∧ w = s.setCell c { s.cell c with sop := none, gb := Tab.set (s.cell c).gb (hEnv ((s.cell c).kreg k.toNat)) { e with count := e.count - 1, gen := if e.count = 1 then (if e.gen = 8191 then 1 else e.gen + 1) else e.gen } }))
  ∧ (∀ t d k i s c, (i = .kdup t d k ∨ i = .kdrop t k) → Issues s c .S t 1 → OwnHome s c ((s.cell c).kreg k.toNat) →
      (((s.cell c).gbEntry (hEnv ((s.cell c).kreg k.toNat))).count = 0
        ∨ ((s.cell c).gbEntry (hEnv ((s.cell c).kreg k.toNat))).gen ≠ hGen ((s.cell c).kreg k.toNat)) →
      ∃ u a2, exec i s = .next (fault u c .S (closFlt 1 ((s.cell c).kreg k.toNat) 0 a2)) ∧ (∀ n, (u.cell c).gbEntry n = (s.cell c).gbEntry n)
        ∧ (∀ n, (u.cell c).kreg n = (s.cell c).kreg n) ∧ MemSame s u)

/-- R226, R393: KST stores the four bytes of a handle and raises its count; KLD, once its four bytes are back, raises the count of the handle
that they are and writes it.
That such a word goes on at a later turn is log 9, and where KST checks its address log 43. -/
def Obligations.ClosureMemory : Prop :=
  (∀ i t n k a o s c q e, ((∃ m : BitVec 8, i = .kst t k a m ∧ n = 1 ∧ o = BitVec.ofInt 64 m.toInt)
      ∨ ∃ x : BitVec 32, i = .kstExt t k a x ∧ n = 2 ∧ o = BitVec.ofInt 64 x.toInt) →
    Issues s c .S t n → regsFree (s.cell c) [a] = true → storeRoom (s.cell c) 1 = true → (s.cell c).sop = none →
    checkAccess (flushSig s c .S) (.agent c .S) .S (addrS (flushSig s c .S) c a o) 4 4 true false = (flushSig s c .S, .ok ⟨[q], none⟩) →
    isMcast [q] = false → OwnHome s c ((s.cell c).kreg k.toNat) → Live (s.cell c) ((s.cell c).kreg k.toNat) e → e.count < 65535 →
    ∃ u l p, exec i s = .next u ∧ ((u.cell c).gbEntry (hEnv ((s.cell c).kreg k.toNat))).count = e.count + 1
      ∧ (u.cell c).stores = l ++ [p] ∧ p.parts = [[(q, leList 4 ((s.cell c).kreg k.toNat).toNat)]]
      ∧ ((u.cell c).agent .S).dpos = ((s.cell c).agent .S).dpos + n)
  ∧ (∀ i t n k a o b, ((∃ m : BitVec 8, i = .kld t k a m ∧ n = 1) ∨ ∃ x : BitVec 32, i = .kldExt t k a x ∧ n = 2) →
    (∀ e, SWord i t n [a] (fun s c w => (s.cell c).sop = some o ∧ o.bytes = some b ∧ OwnHome s c (BitVec.ofNat 32 (leNat b))
      ∧ Live (s.cell c) (BitVec.ofNat 32 (leNat b)) e ∧ e.count < 65535
      ∧ w = s.setCell c { s.cell c with k := Tab.set (s.cell c).k k.toNat (BitVec.ofNat 32 (leNat b)), sop := none, gb := Tab.set (s.cell c).gb (hEnv (BitVec.ofNat 32 (leNat b))) { e with count := e.count + 1 } }))
    ∧ SWord i t n [a] (fun s c w => (s.cell c).sop = some o ∧ o.bytes = some b ∧ isNull (BitVec.ofNat 32 (leNat b)) = true
      ∧ w = s.setCell c { s.cell c with k := Tab.set (s.cell c).k k.toNat (BitVec.ofNat 32 (leNat b)), sop := none }))

/-- R221, R222, R223, R228, R392: CAPTURE fills the lowest free entry from the image that has been read, with count 1, and writes its handle; a reference
whose RGEN is 0 takes the generation in its frame's header; APPLY goes to the entry's code with the handle, the references, NEXT and the values in g18 to
g31 where every reference still has its frame's generation; a reference to a frame that is gone takes class 0x08 code 0x04 of either word.
That the image is read at earlier turns is log 9, and which offsets are checked log 43. -/
def Obligations.CaptureAndApply : Prop :=
  (∀ t k a o b n, SWord (.capture t k a) t 1 [a] (fun s c w => (s.cell c).sop = some o ∧ o.bytes = some b ∧ badImage b = false
      ∧ (∀ j, j < bits (wordAt b 8) 4 3 → bits (wordAt b (0x50 + 8 * j)) 48 16 ≠ 0 ∨ ownFrameGen s c (bits (wordAt b (0x50 + 8 * j)) 0 21) ≠ 0) ∧ (s.cell c).gbq = [] ∧ freeEntry (s.cell c) = some n
      ∧ w = s.setCell c { s.cell c with sop := none, k := Tab.set (s.cell c).k k.toNat (BitVec.ofNat 32 (c * 2 ^ 23 + n * 2 ^ 13 + ((s.cell c).gbEntry n).gen)), gb := Tab.set (s.cell c).gb n ⟨wordAt b 0, bits (wordAt b 8) 0 4, bits (wordAt b 8) 4 3, (List.range 8).map (fun j => if j < bits (wordAt b 8) 0 4 then wordAt b (0x10 + 8 * j) else 0),
          (List.range (bits (wordAt b 8) 4 3)).map (fun j => (bits (wordAt b (0x50 + 8 * j)) 0 21, if bits (wordAt b (0x50 + 8 * j)) 48 16 = 0 then ownFrameGen s c (bits (wordAt b (0x50 + 8 * j)) 0 21) else bits (wordAt b (0x50 + 8 * j)) 48 16)), 1, ((s.cell c).gbEntry n).gen⟩ }))
  ∧ (∀ t k a s c o b j, Issues s c .S t 1 → regsFree (s.cell c) [a] = true → (s.cell c).sop = some o → o.bytes = some b → badImage b = false →
      j < bits (wordAt b 8) 4 3 → bits (wordAt b (0x50 + 8 * j)) 48 16 = 0 → ownFrameGen s c (bits (wordAt b (0x50 + 8 * j)) 0 21) = 0 →
      (∀ i, i < j → bits (wordAt b (0x50 + 8 * i)) 48 16 ≠ 0 ∨ ownFrameGen s c (bits (wordAt b (0x50 + 8 * i)) 0 21) ≠ 0) →
      exec (.capture t k a) s = .next (fault (setSop (flushSig s c .S) c none) c .S
        (closFlt 4 0 (0xFF00000000000000 + wd (bits (wordAt b (0x50 + 8 * j)) 0 21)) (dangleAux 0 0 j))))
  ∧ (∀ x n, freeEntry x = some n → n < 1024 ∧ (x.gbEntry n).count = 0 ∧ ∀ m, m < n → (x.gbEntry m).count ≠ 0)
  ∧ (∀ t k s c e, Issues s c .S t 1 → regsFree (s.cell c) applyDst = true → ((s.cell c).agent .S).levels = [] → outFull (s.cell c) = false →
      OwnHome s c ((s.cell c).kreg k.toNat) → Live (s.cell c) ((s.cell c).kreg k.toNat) e →
      (∀ r ∈ e.refs.take e.nref, ownFrameGen s c r.1 = r.2) →
      ∃ u, exec (.apply t k) s = .next u ∧ ((u.cell c).agent .S).pc = e.entry ∧ (u.cell c).greg 18 = ((s.cell c).kreg k.toNat).setWidth 64
        ∧ (u.cell c).greg 23 = pcS s c + 4 ∧ (∀ j, j < 4 → (u.cell c).greg (19 + j) = if j < e.nref then 0xFF00000000000000 + wd (e.refs.getD j (0, 0)).1 else 0) ∧ (∀ j, j < 8 → (u.cell c).greg (24 + j) = e.vals.getD j 0)
        ∧ (∀ r, r < 18 → (u.cell c).greg r = (s.cell c).greg r) ∧ (∀ m, (u.cell c).gbEntry m = (s.cell c).gbEntry m)
        ∧ (∀ f, f ≠ .S → outq (u.cell c) f = outq (s.cell c) f ++ [⟨e.entry, none, false⟩]))
  ∧ (∀ t k s c e l r m, Issues s c .S t 1 → regsFree (s.cell c) applyDst = true → ((s.cell c).agent .S).levels = [] → outFull (s.cell c) = false →
      OwnHome s c ((s.cell c).kreg k.toNat) → Live (s.cell c) ((s.cell c).kreg k.toNat) e → e.refs.take e.nref = l ++ r :: m →
      (∀ q ∈ l, ownFrameGen s c q.1 = q.2) → ownFrameGen s c r.1 ≠ r.2 →
      ∃ u, exec (.apply t k) s = .next (fault u c .S (closFlt 4 ((s.cell c).kreg k.toNat) (0xFF00000000000000 + wd r.1) (dangleAux r.2 (ownFrameGen s c r.1) l.length)))
        ∧ (∀ n, (u.cell c).gbEntry n = (s.cell c).gbEntry n) ∧ (∀ n, (u.cell c).greg n = (s.cell c).greg n) ∧ MemSame s u)
  ∧ (∀ t k s c, Issues s c .S t 1 → regsFree (s.cell c) applyDst = true → ((s.cell c).agent .S).levels = [] → outFull (s.cell c) = false →
      isNull ((s.cell c).kreg k.toNat) = true → exec (.apply t k) s = .next (fault (flushSig s c .S) c .S (closFlt 9 ((s.cell c).kreg k.toNat) 0 0)))

/-- R229, R230, R231: FRAME takes the frame below the newest one, writes its address to gd and stores its header with the next generation;
with no room left it takes class 0x08 code 0x06; FRPOP of the newest frame gives its bytes back once its header is read, and of any other
address takes code 0x07.
That FRPOP spans several turns is log 9, and where it reads the header log 43. -/
def Obligations.Frames : Prop :=
  (∀ t d a s c q, Issues s c .S t 1 → regsFree (s.cell c) [d, a] = true → ∀ size, size = 64 + 64 * ((((s.cell c).greg a.toNat).toNat + 63) / 64) →
    0x180000 + size ≤ (s.cell c).ftop → storeRoom (s.cell c) 1 = true →
    checkAccess (flushSig s c .S) (.agent c .S) .S (0xFF00000000000000 + wd ((s.cell c).ftop - size)) 64 64 true false = (flushSig s c .S, .ok ⟨[q], none⟩) →
    isMcast [q] = false →
    ∃ u l p, exec (.frame t d a) s = .next u ∧ (u.cell c).ftop = (s.cell c).ftop - size
      ∧ (u.cell c).fgen = (if (s.cell c).fgen = 65535 then 1 else (s.cell c).fgen + 1)
      ∧ (u.cell c).greg d.toNat = (if d = 0 then 0 else 0xFF00000000000000 + wd ((s.cell c).ftop - size))
      ∧ (∀ r : BitVec 5, r ≠ d → (u.cell c).greg r.toNat = (s.cell c).greg r.toNat)
      ∧ (u.cell c).stores = l ++ [p] ∧ p.parts = [[(q, frameHeader size (u.cell c).fgen)]])
  ∧ (∀ t d a s c, Issues s c .S t 1 → regsFree (s.cell c) [d, a] = true → ∀ size, size = 64 + 64 * ((((s.cell c).greg a.toNat).toNat + 63) / 64) →
    (s.cell c).ftop < 0x180000 + size → exec (.frame t d a) s = .next (fault (flushSig s c .S) c .S (closFlt 6 0 0 (wd size))))
  ∧ (∀ t a s c o b q, Issues s c .S t 1 → regsFree (s.cell c) [a] = true → isNewest (flushSig s c .S) c ((s.cell c).greg a.toNat) = true →
    storeRoom (s.cell c) 1 = true → (s.cell c).sop = some o → o.bytes = some b →
    checkAccess (flushSig s c .S) (.agent c .S) .S ((s.cell c).greg a.toNat) 8 8 true false = (flushSig s c .S, .ok ⟨[q], none⟩) → isMcast [q] = false →
    ∃ u l p, exec (.frpop t a) s = .next u ∧ (u.cell c).ftop = (s.cell c).ftop + leNat (b.take 4) ∧ (u.cell c).sop = none
      ∧ (u.cell c).stores = l ++ [p] ∧ p.parts = [[(q, wordBytes (wd (leNat (b.take 4))))]])
  ∧ (∀ t a s c, Issues s c .S t 1 → regsFree (s.cell c) [a] = true → isNewest (flushSig s c .S) c ((s.cell c).greg a.toNat) = false →
    exec (.frpop t a) s = .next (fault (flushSig s c .S) c .S (closFlt 7 0 ((s.cell c).greg a.toNat) (wd (s.cell c).ftop))))

namespace Sys2Proof.Claims
open Sys2Proof.Machine

/-- The shape under which the V word of a cell issues (R171): VSHAPE, or what it was when the word first read through a port (R174). -/
def shOf (x : Cell) : Word := (issueShape x).1
/-- The mask that MSEL names, as the V word sees it. -/
def mskOf (x : Cell) : BitVec 64 := (issueShape x).2

/-- The V agent of cell `x` may issue a word that needs `n` (R238, R255, R412): its masks, g registers, stream images and v registers are free, with
traps enabled nothing is in flight, and no check of class 0x01 fails. -/
def VFree (x : Cell) (masked : Bool) (n : VNeed) : Prop :=
  (∀ k ∈ n.masks ++ (if masked then [msel (shOf x)] else []), mBusy x k = false) ∧ gReady x .V n.gs = true ∧ (∀ k ∈ n.streams, imageOut x k = false)
    ∧ (∀ r ∈ n.vregs, locked x r = false) ∧ (∀ k ∈ n.mdst, lockedMask x k = false) ∧ (bits x.arithctl 0 3 = 0 ∨ x.pend = [])
    ∧ vFlt x (shOf x) n = none

/-- The active lanes of a word that issues in cell `x` (R171). -/
def lanesOn (x : Cell) (masked : Bool) : Nat → Bool := activeLane (shOf x) (mskOf x) masked

/-- `u` with V of cell `c` where it stood when a push in flight was refused, if this word is one that was given back (R359, log 68). -/
def wentOn (l : List Agent) (u : State) (c : Nat) : State :=
  match l with
  | [] => u
  | a :: r => u.setCell c { (u.cell c).setAgent .V a with vahead := r }

/-- The word `i` of the V agent of a cell completes: where it may issue, its destination channel has room, its sources are there (what it reads
ahead through a port has come) and `C` holds of what it read and a state `w`, the next state is `w` with the word passed. -/
def VWord (i : Instr) (t : BitVec 4) (n : Nat) (masked : Bool) (need : Cell → VNeed) (C : VIn → State → Prop) : Prop :=
  ∀ s c s2 q r w, Issues s c .V t n → VFree ((flushSig s c .V).cell c) masked (need (s.cell c)) →
    dstRoom (flushSig s c .V) c (shOf (s.cell c)) (lanesOn (s.cell c) masked) (need (s.cell c)).dst = .ok →
    vSources (flushSig s c .V) c (shOf (s.cell c)) (lanesOn (s.cell c) masked) (need (s.cell c)).srcs = (s2, .ok (some q, r)) →
    ((need (s.cell c)).ahead = true → q.2 = []) →
    C ⟨s2, c, q.1, q.2, shOf (s.cell c), mskOf (s.cell c)⟩ w →
    ∃ u, exec i s = .next (wentOn (s.cell c).vahead u c) ∧ Went (clearAhead w c) u c .V n (((s.cell c).agent .V).pc + wd (4 * n))

/-- A word of `n` words from the sources `srcs` to `d` is put in flight with the operation `op` and the latency that the type gives. -/
def VLanes (i : Instr) (t : BitVec 4) (n : Nat) (m : BitVec 1) (srcs : List (BitVec 6)) (d : BitVec 6) (op : VOp) (lat : Nat → Nat) (ok : Nat → Bool) : Prop :=
  VWord i t n (m == 1) (fun _ => { srcs := srcs, dst := some d, accept := ok })
    (fun v w => w = emit v op (lat (etype v.sh)) (m == 1) { dst := some d } v.src v.late)

/-- Types F and I (R238). -/
def typesFI (ty : Nat) : Bool := decide (ty < 11)
/-- Types I. -/
def typesI (ty : Nat) : Bool := decide (ty < 6)
/-- Types F. -/
def typesF (ty : Nat) : Bool := decide (6 ≤ ty) && decide (ty < 11)
/-- `f32`. -/
def typeF32 (ty : Nat) : Bool := decide (ty = 6)
/-- L of R238: 2 for I, 4 for F. -/
def twoOrFour (ty : Nat) : Nat := if ty < 6 then 2 else 4

end Sys2Proof.Claims

/-- R238, R241, R242, R243, R252: each lane word completes by going into flight with its sources, its operation and its latency, for the types that
its entry accepts, in every operand form, VFMA and VFMS with the old destination as their third operand. -/
def Obligations.LaneWords : Prop :=
  (∀ t d a b m, VLanes (.vadd t d a b m) t 1 m [a, b] d .add twoOrFour typesFI)
  ∧ (∀ t d a b m, VLanes (.vsub t d a b m) t 1 m [a, b] d .sub twoOrFour typesFI)
  ∧ (∀ t d a b m, VLanes (.vmin t d a b m) t 1 m [a, b] d .min twoOrFour typesFI)
  ∧ (∀ t d a b m, VLanes (.vmax t d a b m) t 1 m [a, b] d .max twoOrFour typesFI)
  ∧ (∀ t d a b m, VLanes (.vadds t d a b m) t 1 m [a, b] d .adds twoOrFour typesFI)
  ∧ (∀ t d a b m, VLanes (.vsubs t d a b m) t 1 m [a, b] d .subs twoOrFour typesFI)
  ∧ (∀ t d a m, VLanes (.vabs t d a m) t 1 m [a] d .abs twoOrFour typesFI)
  ∧ (∀ t d a m, VLanes (.vneg t d a m) t 1 m [a] d .neg twoOrFour typesFI)
  ∧ (∀ t d a b m, VLanes (.vmul t d a b m) t 1 m [a, b] d .mul (fun _ => 4) typesFI)
  ∧ (∀ t d a b m, VLanes (.vdiv t d a b m) t 1 m [a, b] d .div (fun _ => 12) typesFI)
  ∧ (∀ t d a m, VLanes (.vsqrt t d a m) t 1 m [a] d .sqrt (fun _ => 12) typesF)
  ∧ (∀ t d a b m, VLanes (.vand t d a b m) t 1 m [a, b] d .and (fun _ => 2) typesFI)
  ∧ (∀ t d a b m, VLanes (.vor t d a b m) t 1 m [a, b] d .or (fun _ => 2) typesFI)
  ∧ (∀ t d a b m, VLanes (.vxor t d a b m) t 1 m [a, b] d .xor (fun _ => 2) typesFI)
  ∧ (∀ t d a b m, VLanes (.vshl t d a b m) t 1 m [a, b] d .shl (fun _ => 2) typesI)
  ∧ (∀ t d a b m, VLanes (.vshr t d a b m) t 1 m [a, b] d .shr (fun _ => 2) typesI)
  ∧ (∀ t d a b m, VLanes (.vsar t d a b m) t 1 m [a, b] d .sar (fun _ => 2) typesI)
  ∧ (∀ t d a b m, VLanes (.vmulh t d a b m) t 1 m [a, b] d .mulh (fun _ => 4) typesI)
  ∧ (∀ t d a b m, VLanes (.vperm t d a b m) t 1 m [a, b] d .perm (fun _ => 3) typesFI)
  ∧ (∀ t d a b m, VLanes (.vslide t d a b m) t 1 m [a, b] d .slide (fun _ => 3) typesFI)
  ∧ (∀ t d a b m, VLanes (.vzip t d a b m) t 1 m [a, b] d .zip (fun _ => 3) typesFI)
  ∧ (∀ t d a m, VLanes (.vunzip t d a m) t 1 m [a] d .unzip (fun _ => 3) typesFI)
  ∧ (∀ t (d : BitVec 5) a b m, VWord (.vfma t d a b m) t 1 (m == 1) (fun _ => { srcs := [a, b], regs := [d.toNat] })
      (fun v w => w = emit v .fma 4 (m == 1) { vd := [d.toNat] } (v.src ++ [(v.s.cell v.c).vreg d.toNat]) v.late))
  ∧ (∀ t (d : BitVec 5) a b m, VWord (.vfms t d a b m) t 1 (m == 1) (fun _ => { srcs := [a, b], regs := [d.toNat] })
      (fun v w => w = emit v .fms 4 (m == 1) { vd := [d.toNat] } (v.src ++ [(v.s.cell v.c).vreg d.toNat]) v.late))

/-- R240, R244 to R251, R253: the words that set the shape, compare, combine masks, select, convert, reduce and move complete; an extension that the
entry does not give is class 0x01 code 0x05 (R378). -/
def Obligations.ShapeMaskAndMoveWords : Prop :=
  (∀ t (x : BitVec 32), bits (x.setWidth 64) 24 8 = 0 → bits (x.setWidth 64) 18 1 = 0 → bits (x.setWidth 64) 4 5 = 0 → bits (x.setWidth 64) 0 4 < 11 →
      shapeLen (x.setWidth 64) ≤ laneN (x.setWidth 64) →
      VWord (.vshape t x) t 2 false (fun _ => { shaped := false }) (fun v w => w = v.s.setCell v.c { v.s.cell v.c with vshape := x.setWidth 64 }))
  ∧ (∀ t d a b m, VWord (.vcmpeq t d a b m) t 1 (m == 1) (fun _ => { srcs := [a, b], mdst := [d.toNat] }) (fun v w => w = emit v .cmpeq 2 (m == 1) { md := some d.toNat } v.src v.late))
  ∧ (∀ t d a b m, VWord (.vcmplt t d a b m) t 1 (m == 1) (fun _ => { srcs := [a, b], mdst := [d.toNat] }) (fun v w => w = emit v .cmplt 2 (m == 1) { md := some d.toNat } v.src v.late))
  ∧ (∀ t d a b m, VWord (.vcmple t d a b m) t 1 (m == 1) (fun _ => { srcs := [a, b], mdst := [d.toNat] }) (fun v w => w = emit v .cmple 2 (m == 1) { md := some d.toNat } v.src v.late))
  ∧ (∀ t d a b op i, (i = .vmand t d a b ∧ op = .mand) ∨ (i = .vmor t d a b ∧ op = .mor) ∨ (i = .vmxor t d a b ∧ op = .mxor) →
      VWord i t 1 false (fun _ => { masks := [a.toNat, b.toNat], mdst := [d.toNat], shaped := false }) (fun v w => w = emit v op 1 false { md := some d.toNat }
        [((v.s.cell v.c).mreg a.toNat).setWidth 2048, ((v.s.cell v.c).mreg b.toNat).setWidth 2048] []))
  ∧ (∀ t d a, VWord (.vmnot t d a) t 1 false (fun _ => { masks := [a.toNat], mdst := [d.toNat], shaped := false })
      (fun v w => w = emit v .mnot 1 false { md := some d.toNat } [((v.s.cell v.c).mreg a.toNat).setWidth 2048] []))
  ∧ (∀ t a g, VWord (.vmpop t a g) t 2 false (fun _ => { masks := [a.toNat], gs := [g.toNat] })
      (fun v w => w = emit v .mpop 2 false { gd := some g.toNat } [((v.s.cell v.c).mreg a.toNat).setWidth 2048] []))
  ∧ (∀ t d a b, VWord (.vsel t d a b) t 1 false (fun x => { srcs := [a, b], dst := some d, masks := [msel (shOf x)] })
      (fun v w => w = emit v .sel 2 false { dst := some d } v.src v.late))
  ∧ (∀ t d a m q (y : BitVec 4), y.toNat < 11 → VLanes (.vcvt t d a m q y) t 2 m [a] d (.cvt q.toNat y.toNat) (fun _ => 3) typesFI)
  ∧ (∀ t d a m, VLanes (.vq8q t d a m 0 0xC) t 2 m [a] d .q8q (fun _ => 8) typeF32)
  ∧ (∀ t d a m, VLanes (.vq8d t d a m 0 6) t 2 m [a] d .q8d (fun _ => 4) typeF32)
  ∧ (∀ t d a m q, VLanes (.vz4q t d a m q 0xB) t 2 m [a] d (.z4q q.toNat) (fun _ => 8) typeF32)
  ∧ (∀ t d a m, VLanes (.vz4d t d a m 0 6) t 2 m [a] d .z4d (fun _ => 3) typeF32)
  ∧ (∀ i t d a m q (y : BitVec 4) s c, Issues s c .V t 2 → (bits (s.cell c).arithctl 0 3 = 0 ∨ (s.cell c).pend = []) →
      (i = .vcvt t d a m q y ∧ 11 ≤ y.toNat) ∨ (i = .vq8q t d a m q y ∧ (q ≠ 0 ∨ y ≠ 0xC)) ∨ (i = .vq8d t d a m q y ∧ (q ≠ 0 ∨ y ≠ 6))
        ∨ (i = .vz4q t d a m q y ∧ y ≠ 0xB) ∨ (i = .vz4d t d a m q y ∧ (q ≠ 0 ∨ y ≠ 6)) →
      exec i s = .next (vFault (flushSig s c .V) c { cls := 1, code := 5 }))
  ∧ (∀ t a m g op i, (i = .vrsum t a m g ∧ op = .rsum) ∨ (i = .vrmin t a m g ∧ op = .rmin) ∨ (i = .vrmax t a m g ∧ op = .rmax) →
      VWord i t 2 (m == 1) (fun _ => { srcs := [a], gs := [g.toNat] }) (fun v w => w = emit v op 8 (m == 1) { gd := some g.toNat } v.src v.late))
  ∧ (∀ t d m g, VWord (.vbcast t d m g) t 2 (m == 1) (fun _ => { dst := some d, gs := [g.toNat] })
      (fun v w => w = emit v .bcast 2 (m == 1) { dst := some d } [((v.s.cell v.c).gAt .V g.toNat).setWidth 2048] []))
  ∧ (∀ t d m, VWord (.viota t d m) t 1 (m == 1) (fun _ => { dst := some d }) (fun v w => w = emit v .iota 2 (m == 1) { dst := some d } [] []))
  ∧ (∀ t a g, VWord (.vmvg t a g) t 2 false (fun _ => { srcs := [a], gs := [g.toNat], shaped := false })
      (fun v w => w = emit v .mvg 2 false { gd := some g.toNat } v.src v.late))

/-- R170, R173, R174, R238, R255, R359: what issuing a V word does: v register sources are read, the head of a plain channel is taken, or left by a peek, a
token reading 0; and the word stands in flight with what it read and its last cycle, or with the lock of a load, and changes nothing else; a
channel destination reserves one slot, and one of KIND 4 enters the store queue with the places that its active lanes go to, without their values; a word
that faults has no effect where it has read nothing ahead. Of the faults of two channels of a word the one that R361 names first stands. -/
def Obligations.VectorIssue : Prop :=
  (∀ s c sh act l, (∀ f ∈ l, isChan f = false) → vSources s c sh act l = (s, .ok (some (l.map (fun f => (s.cell c).vreg (f.toNat % 32)), []), .none)))
  ∧ (∀ s c sh act f i v r, isChan f = true → bKind (effBind ((s.cell c).chan (f.toNat % 16))) < 2 → ((s.cell c).chan (f.toNat % 16)).q = ⟨i, some v⟩ :: r →
      vSources s c sh act [f] = (if f.getLsbD 4 then s else s.setCell c ((s.cell c).setChan (f.toNat % 16) { (s.cell c).chan (f.toNat % 16) with q := r }),
        .ok (some ([if bKind (effBind ((s.cell c).chan (f.toNat % 16))) = 1 then 0 else v], []), .none)))
  ∧ (∀ v op lat m d src late, (∀ f, d.dst = some f → isChan f = false) → ∃ p, emit v op lat m d src late
        = v.s.setCell v.c { v.s.cell v.c with pend := (v.s.cell v.c).pend ++ [p], nextId := (v.s.cell v.c).nextId + 1 }
      ∧ p.op = op ∧ p.shape = v.sh ∧ p.msk = v.msk ∧ p.masked = m ∧ p.src = src ∧ p.late = late ∧ p.ch = none
      ∧ p.vd = (d.dst.map (fun f => f.toNat % 32)).toList ++ d.vd ∧ p.md = d.md ∧ p.gd = d.gd ∧ p.id = (v.s.cell v.c).nextId
      ∧ p.pc = ((v.s.cell v.c).agent .V).pc ∧ p.dpos = ((v.s.cell v.c).agent .V).dpos ∧ p.traps = (v.s.cell v.c).arithctl.setWidth 4
      ∧ (late = [] → p.due = some (v.s.now + lat) ∧ p.lock = false) ∧ (late ≠ [] → p.due = none ∧ p.lock = true))
  ∧ (∀ v op lat m f src late, isChan f = true → bKind (effBind ((v.s.cell v.c).chan (f.toNat % 16))) < 2 →
      let u := emit v op lat m { dst := some f } src late
      ((u.cell v.c).chan (f.toNat % 16)).q = ((v.s.cell v.c).chan (f.toNat % 16)).q ++ [⟨(v.s.cell v.c).nextId, none⟩]
        ∧ (∀ k, k ≠ f.toNat % 16 → (u.cell v.c).chan k = (v.s.cell v.c).chan k) ∧ OnlyCell v.s u v.c ∧ MemSame v.s u
        ∧ (u.cell v.c).v = (v.s.cell v.c).v)
  ∧ (∀ v op lat m f src late l, isChan f = true → bKind (effBind ((v.s.cell v.c).chan (f.toNat % 16))) = 4 →
      let b := effBind ((v.s.cell v.c).chan (f.toNat % 16))
      portPlan v.s v.c (bParam b % 16) (loS ((v.s.cell v.c).agent .V) (bParam b % 16)) v.sh (activeLane v.sh v.msk m) = some l →
      let u := emit v op lat m { dst := some f } src late
      (u.cell v.c).stores = (v.s.cell v.c).stores ++ [⟨(v.s.cell v.c).nextId, (v.s.cell v.c).nextId, .V, ((v.s.cell v.c).agent .V).dpos, 0,
          l.map (fun g => g.map (fun a => (a, []))), 4, 0, none, false, false, true⟩]
        ∧ (∃ p, (u.cell v.c).pend = (v.s.cell v.c).pend ++ [p] ∧ p.id = (v.s.cell v.c).nextId ∧ p.op = op ∧ p.src = src ∧ p.ch = some (f.toNat % 16)
          ∧ p.adv = some (bParam b % 16, loS ((v.s.cell v.c).agent .V) (bParam b % 16)) ∧ p.back = some ((v.s.cell v.c).agent .V))
        ∧ OnlyCell v.s u v.c ∧ MemSame v.s u)
  ∧ (∀ s c f, (s.cell c).vpre = [] → (∀ q ∈ (s.cell c).stores, q.blind = false) → vFault s c f = fault (s.setCell c (s.cell c)) c .V f)
  ∧ (∀ s c sh act n f g s1, dstRoom s c sh act n.dst = .flt f → vSources s c sh act n.srcs = (s1, .flt g) → vChannels s c sh act n = (s, .flt (firstFlt f g)))

namespace Sys2Proof.Claims
open Sys2Proof.Machine

/-- What register `j` of a landing word's destinations is made from: VDRAIN gives each its own (R262). -/
def landSrc (p : VPend) (j : Nat) : List VReg := match p.op with | .drain _ => p.src.drop j | _ => p.src

/-- What the `j`-th destination of a landing word takes, over its old value, with the flags that this raises. -/
def landVec (x : Cell) (p : VPend) (j r : Nat) : VReg × BitVec 4 := vecResult p.op p.shape p.msk p.masked (landSrc p j) (x.vreg r)

/-- The flags of a landing word: those of each v register that it writes and those of its g register (R117). -/
def landFlags (x : Cell) (p : VPend) : BitVec 4 :=
  ((List.range p.vd.length).foldl (fun f j => f ||| (landVec x p j (p.vd.getD j 0)).2) 0)
    ||| (if p.gd.isSome then (gResult p.op p.shape p.msk p.masked p.src).2 else 0)

/-- A landed word's state `w`, with the trap of its flags `f` that ARITHCTL enabled when it issued (R410, R411). -/
def trapped (w : State) (c : Nat) (p : VPend) (f : BitVec 4) : State :=
  if f &&& p.traps &&& 7 = 0 then w else raise w c .V { cls := 0xA, code := 1, aux := (p.traps ++ f).setWidth 64, dlv := 1 } p.pc p.dpos

end Sys2Proof.Claims

/-- R170, R117, R410, R255: V_WRITE_LANDING and VECTOR_LOAD_LANDING COMPLETE. A word in flight whose operands are all there, in any cycle from the
next after its issue to the last of its latency, lands whole, after the earlier words that share a destination with it or with one of these. It writes
its v registers, VDRAIN several, its mask and its g register, under a later write that S has made of it (R323, log 25); the flags of all these results
join VSTAT; the rest of the cell stays, and the word is no longer in flight; a trap that ARITHCTL enabled when it issued is reported with class 0x0A code
0x01. A word whose destination is a channel fills the slot that it reserved, lanes that it does not write being free (log 2), and a sending network channel
passes filled entries on (R330); one through a KIND 4 port stores its active lanes, is given back where the store is refused, and waits where its ring has
no room (R174, R359, log 68). The bytes of a vector load that has returned reach the words that await them. -/
def Obligations.VectorLanding : Prop :=
  (∀ s c i p, c < 512 → (s.cell c).pend.find? (fun p => p.id = i) = some p → p.late = [] → (∀ d, p.due = some d → d < s.now + p.lat) →
      (∀ q ∈ (s.cell c).pend, q.id < i → sameDst q p = true → landable s.now q = false) →
      exec (.vWriteLanding c i) s = .next (landOne s c p))
  ∧ (∀ s c i p, c < 512 → (s.cell c).pend.find? (fun p => p.id = i) = some p → landable s.now p = true →
      ∃ l : List VPend, exec (.vWriteLanding c i) s = .next (landOne (l.foldl (fun t q => landOne t c q) s) c p)
        ∧ (∀ q ∈ l, q ∈ (s.cell c).pend ∧ q.id < i ∧ landable s.now q = true)
        ∧ (∀ q ∈ (s.cell c).pend, q.id < i → landable s.now q = true → sameDst q p = true → q ∈ l))
  ∧ (∀ s c i l, c < 512 → (s.cell c).returning.find? (fun l => l.id = i && l.dest = .vec) = some l →
      exec (.vectorLoadLanding c i) s = .next (s.setCell c { s.cell c with
        returning := (s.cell c).returning.filter (fun q => q.id != i), pend := (s.cell c).pend.map (giveBytes s.now i l.got)
        vpre := (s.cell c).vpre.map (fun p => (p.1, if p.2.load = i then { p.2 with bytes := some l.got } else p.2)) }))
  ∧ (∀ s c p, c < 512 → p.ch = none → p.vd.Nodup →
    ∃ w f, landOne s c p = trapped w c p f ∧ f = (landRegs (s.cell c) p).2 ∧ f = landFlags (s.cell c) p
      ∧ OnlyCell s w c ∧ MemSame s w ∧ (w.cell c).vstat = (s.cell c).vstat ||| ((f &&& 7).setWidth 64)
      ∧ (w.cell c).pend = (s.cell c).pend.filter (fun q => q.id != p.id)
      ∧ (∀ j r, p.vd[j]? = some r → (w.cell c).vreg r = (landVec (s.cell c) p j r).1)
      ∧ (∀ r, r ∉ p.vd → (w.cell c).vreg r = (s.cell c).vreg r)
      ∧ (∀ m, (w.cell c).mreg m = if p.md = some m then maskResult p.op p.shape p.msk p.masked p.src ((s.cell c).mreg m) else (s.cell c).mreg m)
      ∧ (∀ g, (w.cell c).greg g = if p.gd = some g ∧ g ≠ 0 ∧ wroteSince (s.cell c) p.dpos g = false then (gResult p.op p.shape p.msk p.masked p.src).1 else (s.cell c).greg g)
      ∧ (∀ g, p.gd = some g → wroteSince (s.cell c) p.dpos g = true →
          ∃ k, (w.cell c).gpast.find? (isPast (w.cell c) p.dpos g) = some (k, g, (gResult p.op p.shape p.msk p.masked p.src).1))
      ∧ ((∀ g, p.gd = some g → wroteSince (s.cell c) p.dpos g = false) → (w.cell c).gpast = (s.cell c).gpast)
      ∧ { w.cell c with v := (s.cell c).v, m := (s.cell c).m, g := (s.cell c).g, gpast := (s.cell c).gpast, vstat := (s.cell c).vstat, pend := (s.cell c).pend } = s.cell c)
  ∧ (∀ s c p n, c < 512 → p.ch = some n → p.adv = none → p.vd = [] → p.md = none → p.gd = none →
    let y := vecResult p.op p.shape p.msk p.masked p.src (Config.freeVec s.ticks)
    let filled := ((s.cell c).chan n).q.map (fun q => if q.id = p.id && q.val.isNone then ⟨p.id, some y.1⟩ else q)
    ∃ w, landOne s c p = trapped w c p y.2 ∧ MemSame s w ∧ (∀ k, k ≠ c → w.cell k = s.cell k)
      ∧ (w.cell c).vstat = (s.cell c).vstat ||| ((y.2 &&& 7).setWidth 64) ∧ (w.cell c).pend = (s.cell c).pend.filter (fun q => q.id != p.id)
      ∧ (∀ k, k ≠ n → (w.cell c).chan k = (s.cell c).chan k)
      ∧ { w.cell c with chans := (s.cell c).chans, vstat := (s.cell c).vstat, pend := (s.cell c).pend } = s.cell c
      ∧ ((bKind ((s.cell c).chan n).act ≠ 2 ∨ netRecv (netpOf (s.cell c) (bParam ((s.cell c).chan n).act % 16)) = true) → (w.cell c).chan n = { (s.cell c).chan n with q := filled } ∧ w.netq = s.netq)
      ∧ (bKind ((s.cell c).chan n).act = 2 → netRecv (netpOf (s.cell c) (bParam ((s.cell c).chan n).act % 16)) = false → ∀ r, filled = ⟨p.id, some y.1⟩ :: r →
          (∀ q, r.head? = some q → q.val = none) → (w.cell c).chan n = { (s.cell c).chan n with q := r }
          ∧ w.netq = s.netq ++ [⟨c, n, netPeer (netpOf (s.cell c) (bParam ((s.cell c).chan n).act % 16)), netPport (netpOf (s.cell c) (bParam ((s.cell c).chan n).act % 16)), y.1⟩]))
  ∧ (∀ s c p n a, p.ch = some n → p.adv = some a →
    let y := vecResult p.op p.shape p.msk p.masked p.src (Config.freeVec s.ticks)
    let t := { s with ticks := s.ticks + 1 }
    let own := if (s.cell c).stores.any (fun q => q.id = p.id && q.awaits) then some p.id else none
    ((ringRoom (s.cell c) a.1 = false ∨ imageOut (s.cell c) a.1 = true ∨ ∃ q ∈ (s.cell c).pend, q.id < p.id ∧ pushesTo a.1 q = true) → landOne s c p = pushWaits s c p)
    ∧ (ringRoom (s.cell c) a.1 = true → imageOut (s.cell c) a.1 = false → (∀ q ∈ (s.cell c).pend, q.id < p.id → pushesTo a.1 q = false) → ∀ s2,
      (∀ f, pushPort t c .V p.dpos a.1 own a.2 p.shape (activeLane p.shape p.msk p.masked) y.1 = (s2, some f) →
        landOne s c p = raise (s2.setCell c (givenBack (s2.cell c) p)) c .V f p.pc p.dpos)
      ∧ (p.vd = [] → p.md = none → p.gd = none → pushPort t c .V p.dpos a.1 own a.2 p.shape (activeLane p.shape p.msk p.masked) y.1 = (s2, none) →
        landOne s c p = trapped (s2.setCell c { s2.cell c with vstat := (s2.cell c).vstat ||| ((y.2 &&& 7).setWidth 64), pend := (s2.cell c).pend.filter (fun q => q.id != p.id) }) c p y.2)))
  ∧ (∀ x p b, p.back = some b → let y := givenBack x p
    y.pend = x.pend.filter (fun q => q.id != p.id) ∧ y.v = x.v ∧ y.vstat = x.vstat
      ∧ (b.dpos < (x.agent .V).dpos → y.agent .V = { b with taken := b.dpos :: b.taken } ∧ y.vahead = x.agent .V :: x.vahead)
      ∧ (y.stores = x.stores.filter (fun q => !(q.id = p.id && q.awaits))))
  ∧ (∀ now i b p q, p.late = [q] → q.load = i →
      (giveBytes now i b p).late = [] ∧ (giveBytes now i b p).due = some (now + p.lat) ∧ (giveBytes now i b p).op = p.op ∧ (giveBytes now i b p).id = p.id
      ∧ (giveBytes now i b p).src = p.src.set q.src (fillLanes (laneW p.shape) q.lanes b (srcAt p.src q.src)))

namespace Sys2Proof.Claims
open Sys2Proof.Machine

/-! What the rules of number formats say of one result. -/

/-- `m` is a/d rounded to a whole number in mode `rm`, for a value of sign `s` (R99). -/
def Whole (rm : Nat) (s : Bool) (a d m : Nat) : Prop :=
  (rm = 0 → 2 * (m * d) ≤ 2 * a + d ∧ 2 * a ≤ 2 * (m * d) + d ∧ (2 * (m * d) = 2 * a + d ∨ 2 * a = 2 * (m * d) + d → m % 2 = 0))
    ∧ (rm = 1 ∨ rm = (if s then 3 else 2) → m * d ≤ a ∧ a < (m + 1) * d)
    ∧ (rm = (if s then 2 else 3) → a ≤ m * d ∧ m * d < a + d)

/-- `b` is a code of the format `f` for (-1)^s × m × 2^q (R96). -/
def CodeOf (f : Fmt) (s : Bool) (m : Nat) (q : Int) (b : Nat) : Prop :=
  b < 2 ^ (f.E + f.F + 1) ∧ ∃ n e, decodeFloat f b = .fin s n e ∧ n * 2 ^ (e - min e q).toNat = m * 2 ^ (q - min e q).toNat

/-- `r` is (-1)^s × a/d rounded once into the format `f` in mode `rm`, with its flags (R99): the value is given the precision of `f`, with 2^k its leading
power, and then, above the largest finite value, overflows. -/
def Rounds (f : Fmt) (rm : Nat) (s : Bool) (a d : Nat) (r : Nat × BitVec 4) : Prop :=
  (a = 0 → r = (zeroBits f s, 0))
    ∧ (a ≠ 0 → ∃ (k q : Int) (m : Nat), d * (pow2 k).1 ≤ a * (pow2 k).2 ∧ a * (pow2 (k + 1)).2 < d * (pow2 (k + 1)).1
      ∧ q = max k (1 - (f.B : Int)) - f.F ∧ Whole rm s (a * (pow2 q).2) (d * (pow2 q).1) m
      ∧ if numLt (decodeFloat f (maxMag f)) (.fin false m q) then
          r = (if f.inf = false then (zeroBits f s + maxMag f, flagS)
            else if rm = 0 ∨ rm = (if s then 2 else 3) then (infBits f s, flagO) else (zeroBits f s + maxMag f, flagO))
        else r.2 = 0 ∧ CodeOf f s m q r.1)

/-- `r` is x + y in the format `f` (R99, R101). -/
def SumIs (f : Fmt) (rm : Nat) (x y : Machine.Num) (r : Nat × BitVec 4) : Prop :=
  match x, y with
  | .nan, _ => r = (nanBits f, 0)
  | _, .nan => r = (nanBits f, 0)
  | .inf s, .inf t => r = if s = t then (infBits f s, 0) else (nanBits f, flagI)
  | .inf s, _ => r = (infBits f s, 0)
  | _, .inf t => r = (infBits f t, 0)
  | .fin s m e, .fin t n g =>
    let u := min (min 0 e) g
    let v := Machine.Num.units u (.fin s m e) + Machine.Num.units u (.fin t n g)
    if v = 0 then r = (zeroBits f (decide (s = true ∧ m = 0 ∧ t = true ∧ n = 0) || decide (rm = 2)), 0)
    else Rounds f rm (decide (v < 0)) (v.natAbs * (pow2 u).1) (pow2 u).2 r

/-- `r` is z + x × y, or z - x × y where `sub` holds, rounded once (R101, R243). -/
def FusedIs (f : Fmt) (rm : Nat) (sub : Bool) (z x y : Machine.Num) (r : Nat × BitVec 4) : Prop :=
  match x, y with
  | .nan, _ => r = (nanBits f, 0)
  | _, .nan => r = (nanBits f, 0)
  | .inf s, .inf t => SumIs f rm z (.inf ((s != t) != sub)) r
  | .inf s, .fin t m _ => if m = 0 then r = (nanBits f, flagI) else SumIs f rm z (.inf ((s != t) != sub)) r
  | .fin t m _, .inf s => if m = 0 then r = (nanBits f, flagI) else SumIs f rm z (.inf ((s != t) != sub)) r
  | .fin s m e, .fin t n g => SumIs f rm z (.fin ((s != t) != sub) (m * n) (e + g)) r

/-- `r` is x × y in the format `f` (R99, R101). -/
def ProductIs (f : Fmt) (rm : Nat) (x y : Machine.Num) (r : Nat × BitVec 4) : Prop :=
  match x, y with
  | .nan, _ => r = (nanBits f, 0)
  | _, .nan => r = (nanBits f, 0)
  | .inf s, .inf t => r = (infBits f (s != t), 0)
  | .inf s, .fin t m _ => r = if m = 0 then (nanBits f, flagI) else (infBits f (s != t), 0)
  | .fin t m _, .inf s => r = if m = 0 then (nanBits f, flagI) else (infBits f (s != t), 0)
  | .fin s m e, .fin t n g => Rounds f rm (s != t) (m * n * (pow2 (e + g)).1) (pow2 (e + g)).2 r

/-- `r` is x / y in the format `f` (R101, R241); E4M3, which has no infinity, takes its NaN for a quotient by zero (log 41). -/
def QuotientIs (f : Fmt) (rm : Nat) (x y : Machine.Num) (r : Nat × BitVec 4) : Prop :=
  match x, y with
  | .nan, _ => r = (nanBits f, 0)
  | _, .nan => r = (nanBits f, 0)
  | .inf _, .inf _ => r = (nanBits f, flagI)
  | .inf s, .fin t _ _ => r = (infBits f (s != t), 0)
  | .fin s _ _, .inf t => r = (zeroBits f (s != t), 0)
  | .fin s m e, .fin t n g =>
    if n = 0 then r = if m = 0 then (nanBits f, flagI) else if f.inf = true then (infBits f (s != t), 0) else (nanBits f, 0)
    else Rounds f rm (s != t) (m * (pow2 (e - g)).1) (n * (pow2 (e - g)).2) r

/-- `r` is √x in the format `f` (R101, R241): the root `h` of m × 2^e to forty bits beyond the highest precision, and a half more where it is not exact,
rounds as the root does. -/
def RootIs (f : Fmt) (rm : Nat) (x : Machine.Num) (r : Nat × BitVec 4) : Prop :=
  match x with
  | .nan => r = (nanBits f, 0)
  | .inf s => r = if s then (nanBits f, flagI) else (infBits f false, 0)
  | .fin s m e => if m = 0 then r = (zeroBits f s, 0) else if s then r = (nanBits f, flagI)
    else ∃ (k j : Int) (h : Nat), k = 80 + e % 2 ∧ j = (e - k) / 2 ∧ h * h ≤ m * 2 ^ k.toNat ∧ m * 2 ^ k.toNat < (h + 1) * (h + 1)
      ∧ (if h * h = m * 2 ^ k.toNat then Rounds f rm false (h * (pow2 j).1) (pow2 j).2 r else Rounds f rm false ((2 * h + 1) * (pow2 j).1) (2 * (pow2 j).2) r)

/-- x is below y; -0 counts below +0 where `zeros` holds (R241, R244). -/
def Less (zeros : Bool) (x y : Machine.Num) : Prop :=
  match x, y with
  | .nan, _ => False
  | _, .nan => False
  | .inf s, .inf t => s = true ∧ t = false
  | .inf s, _ => s = true
  | _, .inf t => t = false
  | .fin s m e, .fin t n g =>
    let u := min (min 0 e) g
    let v := Machine.Num.units u (.fin s m e) - Machine.Num.units u (.fin t n g)
    v < 0 ∨ (zeros = true ∧ v = 0 ∧ s = true ∧ t = false)

/-- `r` is the lane `b` of type `ty` converted to type `t` in mode `rm` (R100). -/
def ConvertIs (ty t rm b : Nat) (r : Nat × BitVec 4) : Prop :=
  let sat := fun (x : Int) => r = if x < intMin t (widthOf t) then ((intMin t (widthOf t) % 2 ^ widthOf t).toNat, flagS)
    else if intMax t (widthOf t) < x then ((intMax t (widthOf t) % 2 ^ widthOf t).toNat, flagS) else ((x % 2 ^ widthOf t).toNat, 0)
  match laneValue ty b with
  | .nan => r = if t < 6 then (0, flagI) else (nanBits (fmtOf t), 0)
  | .inf s => r = if t < 6 then (((if s then intMin t (widthOf t) else intMax t (widthOf t)) % 2 ^ widthOf t).toNat, flagS)
      else if t = 9 then (nanBits (fmtOf t), flagI) else (infBits (fmtOf t) s, 0)
  | .fin s m e => if t < 6 then ∃ k, Whole rm s (m * (pow2 e).1) (pow2 e).2 k ∧ sat (if s then -(k : Int) else k)
      else Rounds (fmtOf t) rm s (m * (pow2 e).1) (pow2 e).2 r

/-- Code `c` of a Z4 code type: its sign and eight times its magnitude (R105). -/
def z4Table (t c : Nat) : Bool × Nat :=
  if t = 0 then (if 8 ≤ c then (true, 8 * (16 - c)) else (false, 8 * c))
  else (decide (8 ≤ c), ((if t = 1 then [0, 4, 8, 12, 16, 24, 32, 48] else if t = 2 then [0, 1, 2, 4, 8, 16, 32, 64] else [0, 8, 16, 24, 32, 48, 64, 96]) : List Nat).getD (c % 8) 0)

/-- The codes of type `t` for an element of sign `s`, the largest first of them (R106). -/
def z4Signed (t : Nat) (s : Bool) (c : Nat) : Prop := if s then (8 ≤ c ∧ c < 16 ∨ t = 0 ∧ c = 0) else c < 8
/-- The largest code of a sign. -/
def z4Last (t : Nat) (s : Bool) : Nat := if s then (if t = 0 then 8 else 15) else 7

end Sys2Proof.Claims

/-- R171, R241 to R243, R246, R248 to R250, R252, R253, R254: lane by lane, what a word writes to its v register: an active lane takes the operation's
result, an inactive one keeps its value; the word's flags are those of its active lanes. R95 to R101, R241, R243: the float results and flags of one lane,
from the exact values of its operands, rounded once. R100, R248: VCVT. R102, R103, R249, R408: VQ8Q and VQ8D. R104 to R106, R250, R409: VZ4Q and
VZ4D.
That a quotient by zero is the NaN of E4M3, which has no infinity, is log 41. -/
def Obligations.LaneResults : Prop :=
  (∀ sh msk mk src old, etype sh < 11 → ∀ i, i < laneN sh →
    let R := fun op => laneAt (laneW sh) (vecResult op sh msk mk src old).1 i
    let A := activeLane sh msk mk i
    let o := laneAt (laneW sh) old i
    let a := fun k => laneAt (laneW sh) (src.getD 0 0) k
    let b := fun k => laneAt (laneW sh) (src.getD 1 0) k
    (∀ op, op ∈ [VOp.add, .sub, .mul, .fma, .fms, .div, .sqrt, .min, .max, .abs, .neg, .adds, .subs, .and, .or, .xor, .shl, .shr, .sar, .mulh] →
      R op = if A then (laneOp op (etype sh) (shapeRm sh) (a i) (b i) (laneAt (laneW sh) (src.getD 2 0) i)).1 % 2 ^ laneW sh else o)
    ∧ R .perm = (if A then (if b i < laneN sh then a (b i) else 0) else o)
    ∧ R .slide = (if A then (if i + b 0 < laneN sh then a (i + b 0) else 0) else o)
    ∧ R .zip = (if A then (if i % 2 = 0 then a (i / 2) else b ((i - 1) / 2)) else o)
    ∧ R .unzip = (if A then (if i < laneN sh / 2 then a (2 * i) else a (2 * (i - laneN sh / 2) + 1)) else o)
    ∧ R .bcast = (if A then a 0 else o)
    ∧ R .iota = (if A then i % 2 ^ laneW sh else o)
    ∧ R .sel = (if i < shapeLen sh then (if msk.getLsbD (i * 64 / laneN sh) then a i else b i) else o)
    ∧ (∀ l, R (.load l) = if i ∈ l then a i else o))
  ∧ (∀ sh msk mk src old,
    (∀ op, op ∈ [VOp.add, .sub, .mul, .fma, .fms, .div, .sqrt, .min, .max, .abs, .neg, .adds, .subs, .and, .or, .xor, .shl, .shr, .sar, .mulh] →
      (vecResult op sh msk mk src old).2 = ((List.range (laneN sh)).filter (activeLane sh msk mk)).foldl (fun f i => f ||| (laneOp op (etype sh) (shapeRm sh)
        (laneAt (laneW sh) (src.getD 0 0) i) (laneAt (laneW sh) (src.getD 1 0) i) (laneAt (laneW sh) (src.getD 2 0) i)).2) 0)
    ∧ (∀ op, op ∈ [VOp.perm, .slide, .zip, .unzip, .bcast, .iota, .sel] → (vecResult op sh msk mk src old).2 = 0))
  ∧ (∀ ty rm a b c f w x y z, 6 ≤ ty → ty < 11 → rm < 4 → f = fmtOf ty → w = widthOf ty → a < 2 ^ w → b < 2 ^ w → c < 2 ^ w →
    x = decodeFloat f a → y = decodeFloat f b → z = decodeFloat f c →
    let R := fun op => laneOp op ty rm a b c
    SumIs f rm x y (R .add) ∧ SumIs f rm x y.neg (R .sub) ∧ ProductIs f rm x y (R .mul) ∧ QuotientIs f rm x y (R .div) ∧ RootIs f rm x (R .sqrt)
    ∧ FusedIs f rm false z x y (R .fma) ∧ FusedIs f rm true z x y (R .fms)
    ∧ (x = .nan ∨ y = .nan → R .min = (nanBits f, 0) ∧ R .max = (nanBits f, 0))
    ∧ (x ≠ .nan → y ≠ .nan → (Less true x y → R .min = (a, 0) ∧ R .max = (b, 0)) ∧ (¬ Less true x y → R .min = (b, 0) ∧ R .max = (a, 0)))
    ∧ R .abs = (if x = .nan then nanBits f else a % 2 ^ (w - 1), 0) ∧ R .neg = (if x = .nan then nanBits f else (a + 2 ^ (w - 1)) % 2 ^ w, 0)
    ∧ (∀ op sum (v : Machine.Num), (op = .adds ∧ sum = VOp.add ∧ v = y) ∨ (op = .subs ∧ sum = .sub ∧ v = y.neg) →
      (x.finite = true → v.finite = true → (R sum).2 = flagO → R op = (zeroBits f (decide (Machine.Num.units (leastExp 0 [x, v]) x + Machine.Num.units (leastExp 0 [x, v]) v < 0)) + maxMag f, flagS))
      ∧ ((x.finite = false ∨ v.finite = false ∨ (R sum).2 ≠ flagO) → R op = R sum)))
  ∧ (∀ sh msk mk src old rm t i, etype sh < 11 → t < 11 → rm < 4 → i < lanesOf t →
    let R := vecResult (.cvt rm t) sh msk mk src old
    let r := fun k => convert (etype sh) t rm (laneAt (laneW sh) (src.getD 0 0) k)
    ConvertIs (etype sh) t rm (laneAt (laneW sh) (src.getD 0 0) i) (r i)
    ∧ laneAt (widthOf t) R.1 i = (if i < laneN sh ∧ activeLane sh msk mk i = true then (r i).1 % 2 ^ widthOf t else laneAt (widthOf t) old i)
    ∧ R.2 = ((List.range (min (laneN sh) (lanesOf t))).filter (activeLane sh msk mk)).foldl (fun f k => f ||| (r k).2) 0)
  ∧ (∀ sh msk mk src old, etype sh = 6 →
    let R := vecResult .q8q sh msk mk src old
    let v := fun k => decodeFloat fp32 (if activeLane sh msk mk k then laneAt 32 (src.getD 0 0) k else 0)
    let code := fun k => laneAt 8 R.1 k
    let d := laneAt 32 R.1 16
    (∀ k, 68 ≤ k → k < 256 → code k = 0)
    ∧ ((∃ k, k < 64 ∧ v k = .nan) → (∀ k, k < 64 → code k = 0) ∧ d = 0x7FC00000 ∧ R.2 = flagI)
    ∧ ((∀ k, k < 64 → v k ≠ .nan) → (∃ k s, k < 64 ∧ v k = .inf s) →
        (∀ k, k < 64 → code k = if v k = .inf false then 127 else if v k = .inf true then 129 else 0) ∧ d = 0x7F800000 ∧ R.2 = flagI)
    ∧ ((∀ k, k < 64 → (v k).finite = true) → ∃ a b fd, 0 < b ∧ (∀ k, k < 64 → (absFrac (v k)).1 * b ≤ a * (absFrac (v k)).2)
        ∧ (a = 0 ∨ ∃ k, k < 64 ∧ (absFrac (v k)).1 * b = a * (absFrac (v k)).2) ∧ Rounds fp32 0 false a (b * 127) (d, fd)
        ∧ ((absFrac (decodeFloat fp32 d)).1 = 0 → (∀ k, k < 64 → code k = 0) ∧ R.2 = fd)
        ∧ ((absFrac (decodeFloat fp32 d)).1 ≠ 0 → ∃ m : Nat → Nat,
            (∀ k, k < 64 → Whole 0 (v k).sign ((absFrac (v k)).1 * (absFrac (decodeFloat fp32 d)).2) ((absFrac (v k)).2 * (absFrac (decodeFloat fp32 d)).1) (m k)
              ∧ code k = if (v k).sign then (256 - min 127 (m k)) % 256 else min 127 (m k))
            ∧ ((∃ k, k < 64 ∧ 127 < m k) → R.2 = fd ||| flagS) ∧ ((∀ k, k < 64 → m k ≤ 127) → R.2 = fd))))
  ∧ (∀ sh msk mk src old i, etype sh = 6 → i < 64 →
    let R := vecResult .q8d sh msk mk src old
    let q := fun k => (BitVec.ofNat 8 (laneAt 8 (src.getD 0 0) k)).toInt
    let r := fun k => q8Deq (laneAt 8 (src.getD 0 0) k) (laneAt 32 (src.getD 0 0) 16)
    ProductIs fp32 0 (.fin (decide (q i < 0)) (q i).natAbs 0) (decodeFloat fp32 (laneAt 32 (src.getD 0 0) 16)) (r i)
    ∧ laneAt 32 R.1 i = (if activeLane sh msk mk i then (r i).1 % 2 ^ 32 else laneAt 32 old i)
    ∧ R.2 = ((List.range 64).filter (activeLane sh msk mk)).foldl (fun f k => f ||| (r k).2) 0)
  ∧ (∀ sh msk mk src old t, etype sh = 6 → t < 4 →
    let R := vecResult (.z4q t) sh msk mk src old
    let v := fun k => decodeFloat fp32 (if activeLane sh msk mk k then laneAt 32 (src.getD 0 0) k else 0)
    let code := fun k => laneAt 4 R.1 k
    let M := ([64, 48, 64, 96] : List Nat).getD t 0
    let top := fun (s : Bool) => if t = 0 ∧ s = false then 56 else M
    (∀ k, 34 ≤ k → k < 256 → laneAt 8 R.1 k = 0)
    ∧ ∃ (a d E : Nat → Nat) (e : Nat → Int),
      (∀ b, b < 2 → laneAt 8 R.1 (32 + b) = 64 * t + E b ∧ 0 < d b
        ∧ (∀ k, k < 32 → (v (32 * b + k)).finite = true → (absFrac (v (32 * b + k))).1 * d b ≤ a b * (absFrac (v (32 * b + k))).2)
        ∧ (a b = 0 ∨ ∃ k, k < 32 ∧ (v (32 * b + k)).finite = true ∧ (absFrac (v (32 * b + k))).1 * d b = a b * (absFrac (v (32 * b + k))).2)
        ∧ (a b = 0 → e b = 0) ∧ (a b ≠ 0 → 8 * a b * (pow2 (e b - 32)).2 ≤ d b * M * (pow2 (e b - 32)).1 ∧ d b * M * (pow2 (e b - 33)).1 < 8 * a b * (pow2 (e b - 33)).2)
        ∧ E b = (if e b < 0 then 0 else if 63 < e b then 63 else (e b).toNat))
      ∧ (∀ b k, b < 2 → k < 32 →
        let num := 8 * (absFrac (v (32 * b + k))).1 * (pow2 ((E b : Int) - 32)).2
        let den := (absFrac (v (32 * b + k))).2 * (pow2 ((E b : Int) - 32)).1
        match v (32 * b + k) with
        | .nan => code (32 * b + k) = 0
        | .inf s => code (32 * b + k) = z4Last t s
        | .fin s _ _ => if top s * den < num then code (32 * b + k) = z4Last t s
            else z4Signed t s (code (32 * b + k)) ∧ ∀ c, z4Signed t s c →
              absDiff num ((z4Table t (code (32 * b + k))).2 * den) ≤ absDiff num ((z4Table t c).2 * den)
              ∧ (absDiff num ((z4Table t (code (32 * b + k))).2 * den) = absDiff num ((z4Table t c).2 * den) → (z4Table t (code (32 * b + k))).2 ≤ (z4Table t c).2))
      ∧ (R.2 &&& flagI ≠ 0 ↔ ∃ k, k < 64 ∧ (v k).finite = false)
      ∧ (R.2 &&& flagS ≠ 0 ↔ (∃ b, b < 2 ∧ (e b < 0 ∨ 63 < e b)) ∨ ∃ b k, b < 2 ∧ k < 32 ∧ (v (32 * b + k)).finite = true
          ∧ top (v (32 * b + k)).sign * ((absFrac (v (32 * b + k))).2 * (pow2 ((E b : Int) - 32)).1) < 8 * (absFrac (v (32 * b + k))).1 * (pow2 ((E b : Int) - 32)).2)
      ∧ R.2 &&& (flagO ||| flagN) = 0)
  ∧ (∀ sh msk mk src old i, etype sh = 6 → i < 64 →
    let R := vecResult .z4d sh msk mk src old
    let sc := laneAt 8 (src.getD 0 0) (32 + i / 32)
    let c := z4Table (sc / 64) (laneAt 4 (src.getD 0 0) i)
    (activeLane sh msk mk i = true → CodeOf fp32 c.1 c.2 ((sc % 64 : Nat) - 35) (laneAt 32 R.1 i))
    ∧ (activeLane sh msk mk i = false → laneAt 32 R.1 i = laneAt 32 old i) ∧ R.2 = 0)

/-- R241, R242, R243: the integer results of one lane, signed for types 0 to 2 and natural for 3 to 5, and no flag but S, which a saturating form sets just where
it changes the value. -/
def Obligations.IntegerLanes : Prop :=
  ∀ ty rm a b c w, ty < 6 → w = widthOf ty → a < 2 ^ w → b < 2 ^ w → c < 2 ^ w →
    ∀ x y, x = (if ty < 3 then (BitVec.ofNat w a).toInt else a) → y = (if ty < 3 then (BitVec.ofNat w b).toInt else b) →
    ∀ lo hi : Int, lo = (if ty < 3 then -(2 ^ (w - 1)) else 0) → hi = (if ty < 3 then 2 ^ (w - 1) - 1 else 2 ^ w - 1) →
    let R := fun op => laneOp op ty rm a b c
    R .add = ((a + b) % 2 ^ w, 0) ∧ (R .sub).2 = 0 ∧ ((R .sub).1 : Int) = (x - y) % 2 ^ w ∧ R .mul = (a * b % 2 ^ w, 0)
    ∧ R .fma = ((c + a * b) % 2 ^ w, 0) ∧ (R .fms).2 = 0 ∧ ((R .fms).1 + a * b) % 2 ^ w = c ∧ (R .fms).1 < 2 ^ w
    ∧ R .min = (if y < x then b else a, 0) ∧ R .max = (if x < y then b else a, 0)
    ∧ ((R .abs).1 : Int) = (if x < 0 then -x else x) % 2 ^ w ∧ (R .abs).2 = 0 ∧ ((R .neg).1 : Int) = -x % 2 ^ w ∧ (R .neg).2 = 0
    ∧ ((R .adds).1 : Int) = max lo (min hi (x + y)) % 2 ^ w ∧ ((R .adds).2 = if lo ≤ x + y ∧ x + y ≤ hi then 0 else flagS)
    ∧ ((R .subs).1 : Int) = max lo (min hi (x - y)) % 2 ^ w ∧ ((R .subs).2 = if lo ≤ x - y ∧ x - y ≤ hi then 0 else flagS)
    ∧ R .shl = (if w ≤ b then 0 else a * 2 ^ b % 2 ^ w, 0) ∧ R .shr = (if w ≤ b then 0 else a / 2 ^ b, 0)
    ∧ ((R .sar).1 : Int) = (if w ≤ b then (if (BitVec.ofNat w a).toInt < 0 then 2 ^ w - 1 else 0) else (BitVec.ofNat w a).toInt / 2 ^ b % 2 ^ w) ∧ (R .sar).2 = 0
    ∧ ((R .mulh).1 : Int) = x * y / 2 ^ w % 2 ^ w ∧ (R .mulh).2 = 0
    ∧ R .div = (if b = 0 then 2 ^ w - 1 else if ty < 3 ∧ x = -(2 ^ (w - 1)) ∧ y = -1 then a else (Int.tdiv x y % 2 ^ w).toNat, 0)
    ∧ R .and = (a &&& b, 0) ∧ R .or = (a ||| b, 0) ∧ R .xor = (a ^^^ b, 0)

/-- R244, R245, R247, R251, R253: the mask that a compare or a mask word writes, bit by bit, and the g value of VMPOP, VMVG and a reduction; that of float lanes
is the root of the pairwise tree of R112, with the flags of its sums. -/
def Obligations.MaskAndScalarResults : Prop :=
  (∀ sh msk mk src old op j, etype sh < 11 → op ∈ [VOp.cmpeq, .cmplt, .cmple] → j < 64 →
    let G := (List.range (laneN sh)).filter (fun i => i * 64 / laneN sh = j && activeLane sh msk mk i)
    ((maskResult op sh msk mk src old).getLsbD j = if G = [] then old.getLsbD j
      else decide (∀ i ∈ G, laneTest op (etype sh) (laneAt (laneW sh) (src.getD 0 0) i) (laneAt (laneW sh) (src.getD 1 0) i) = true)))
  ∧ (∀ ty a b, ty < 6 → ∀ x y : Int, x = (if ty < 3 then (BitVec.ofNat (widthOf ty) a).toInt else a % 2 ^ widthOf ty) →
      y = (if ty < 3 then (BitVec.ofNat (widthOf ty) b).toInt else b % 2 ^ widthOf ty) →
      laneTest .cmpeq ty a b = decide (x = y) ∧ laneTest .cmplt ty a b = decide (x < y) ∧ laneTest .cmple ty a b = decide (x ≤ y))
  ∧ (∀ sh msk mk a b old, let m := fun (r : BitVec 64) => r.setWidth 2048
      maskResult .mand sh msk mk [m a, m b] old = a &&& b ∧ maskResult .mor sh msk mk [m a, m b] old = a ||| b
      ∧ maskResult .mxor sh msk mk [m a, m b] old = a ^^^ b ∧ maskResult .mnot sh msk mk [m a] old = ~~~a
      ∧ gResult .mpop sh msk mk [m a] = (wd ((List.range ((shapeLen sh * 64 + laneN sh - 1) / laneN sh)).filter (fun j => a.getLsbD j)).length, 0))
  ∧ (∀ sh msk mk a, gResult .mvg sh msk mk [a] = (a.setWidth 64, 0))
  ∧ (∀ sh msk mk a, etype sh < 6 →
      let L := ((List.range (laneN sh)).filter (activeLane sh msk mk)).map (fun i => intValue (etype sh) (laneW sh) (laneAt (laneW sh) a i))
      (gResult .rsum sh msk mk [a]).1.toInt = L.sum
      ∧ (L ≠ [] → (gResult .rmin sh msk mk [a]).1.toInt ∈ L ∧ (gResult .rmax sh msk mk [a]).1.toInt ∈ L)
      ∧ (∀ x ∈ L, (gResult .rmin sh msk mk [a]).1.toInt ≤ x ∧ x ≤ (gResult .rmax sh msk mk [a]).1.toInt)
      ∧ (L = [] → (gResult .rmin sh msk mk [a]).1.toInt = intMax (etype sh) (laneW sh) ∧ (gResult .rmax sh msk mk [a]).1.toInt = intMin (etype sh) (laneW sh)))
  ∧ (∀ ty a b, 6 ≤ ty → ty < 11 → ∀ x y, x = decodeFloat (fmtOf ty) a → y = decodeFloat (fmtOf ty) b →
      (laneTest .cmplt ty a b = true ↔ Less false x y)
      ∧ (laneTest .cmple ty a b = true ↔ x ≠ .nan ∧ y ≠ .nan ∧ ¬ Less false y x)
      ∧ (laneTest .cmpeq ty a b = true ↔ x ≠ .nan ∧ y ≠ .nan ∧ ¬ Less false x y ∧ ¬ Less false y x))
  ∧ (∀ sh msk mk a op L, 6 ≤ etype sh → etype sh < 11 → laneN sh = 2 ^ L → op ∈ [VOp.rsum, .rmin, .rmax] →
      ∃ t : Nat → Nat → Nat × BitVec 4,
        (∀ i, i < laneN sh → if activeLane sh msk mk i = true then ConvertIs (etype sh) 6 0 (laneAt (laneW sh) a i) (t 0 i)
            else t 0 i = (if op = .rsum then 0x80000000 else if op = .rmin then 0x7F800000 else 0xFF800000, 0))
        ∧ (∀ l i, l < L → i < 2 ^ (L - l - 1) →
            let p := t l (2 * i)
            let q := t l (2 * i + 1)
            (op = .rsum → ∃ r, SumIs fp32 (shapeRm sh) (decodeFloat fp32 p.1) (decodeFloat fp32 q.1) r ∧ t (l + 1) i = (r.1, p.2 ||| q.2 ||| r.2))
            ∧ (op ≠ .rsum → (t (l + 1) i).2 = 0
              ∧ (decodeFloat fp32 p.1 = .nan ∨ decodeFloat fp32 q.1 = .nan → (t (l + 1) i).1 = 0x7FC00000)
              ∧ (decodeFloat fp32 p.1 ≠ .nan → decodeFloat fp32 q.1 ≠ .nan →
                (Less true (decodeFloat fp32 p.1) (decodeFloat fp32 q.1) → (t (l + 1) i).1 = if op = .rmin then p.1 else q.1)
                ∧ (¬ Less true (decodeFloat fp32 p.1) (decodeFloat fp32 q.1) → (t (l + 1) i).1 = if op = .rmin then q.1 else p.1))))
        ∧ gResult op sh msk mk [a] = (wd (t L 0).1, (t L 0).2))

namespace Sys2Proof.Claims
open Sys2Proof.Machine

/-- The active lanes of a word with the bytes of a lane. -/
def vLanes (v : VIn) (m : Bool) : List Nat := (List.range (laneN v.sh)).filter (activeLane v.sh v.msk m)
/-- Bytes of a lane. -/
def vBytes (v : VIn) : Nat := laneW v.sh / 8

/-- The load of a V word (R254 to R256): the active lanes are read from the addresses `f`, each checked, and one entry of the load queue
whose groups are `g` of them is awaited; with no active lane nothing is read. -/
def VLoads (d : BitVec 6) (m : Bool) (f : VIn → Nat → Word) (g : List Chkd → List (List Acc)) (v : VIn) (w : State) : Prop :=
  ∃ s1 ks, loadRoom (v.s.cell v.c) = true
    ∧ checkMany v.s (.agent v.c .V) .V (vBytes v) false false ((vLanes v m).map (fun i => (f v i, vBytes v))) = (s1, .ok ks)
    ∧ (vLanes v m = [] → w = emit { v with s := s1 } (.load []) 1 m { dst := some d } [0] v.late)
    ∧ (vLanes v m ≠ [] → w = emit { v with s := s1.setCell v.c { s1.cell v.c with
            loads := (s1.cell v.c).loads ++ [⟨(s1.cell v.c).nextId, .V, ((s1.cell v.c).agent .V).dpos, g ks, [], false, [], .vec⟩], nextId := (s1.cell v.c).nextId + 1 } }
        (.load (vLanes v m)) 1 m { dst := some d } [0]
        (⟨(s1.cell v.c).nextId, 0, vLanes v m⟩ :: v.late.map (fun (l : Late) => { l with src := l.src + 1 })))

/-- The store of a V word (R254, R256, R257, R142): the active lanes of its first source, each to its address, checked and then issued as one
entry, the one that it entered when it read ahead if it did, whose accesses `g` says together apply. -/
def VStores (m : Bool) (f : VIn → Nat → Word) (g : List (List (Acc × List Byte)) → List (List (Acc × List Byte))) (v : VIn) (w : State) : Prop :=
  ∃ s1 ks, (blindEntry (v.s.cell v.c) = none → storeRoom (v.s.cell v.c) 1 = true)
    ∧ checkMany v.s (.agent v.c .V) .V (vBytes v) true false ((vLanes v m).map (fun i => (f v i, vBytes v))) = (s1, .ok ks)
    ∧ (isMcast (ks.flatMap (fun k => k.accs)) = true → mcastClear s1 v.c ((blindEntry (v.s.cell v.c)).getD (s1.cell v.c).nextId) (ks.flatMap (fun k => k.accs)) = true)
    ∧ w = issueStore (markAll s1 ks) v.c .V ((s1.cell v.c).agent .V).dpos (blindEntry (v.s.cell v.c)) (g ((ks.zip (vLanes v m)).map
        (fun q => deal q.1.accs (leList (vBytes v) (laneAt (8 * vBytes v) (v.src.getD 0 0) q.2)))))

/-- A of R254. -/
def addrV (g : BitVec 5) (x : BitVec 27) (v : VIn) : Word :=
  (v.s.cell v.c).gAt .V g.toNat + BitVec.ofInt 64 x.toInt + loG ((v.s.cell v.c).agent .V) g.toNat

/-- The first register of a range of `n` from `a` and the last lie in v0 to v31. -/
def inFile (a n : Nat) : Prop := a + n ≤ 32

end Sys2Proof.Claims

/-- R254, R256, R142: VLD, VST, VGATH and VSCAT complete: lane i of a plain word is at A + i × w/8, of an indexed one at A + index × w/8; a plain word's
neighbouring lanes go together, an indexed word's go one by one. -/
def Obligations.VectorMemoryWords : Prop :=
  (∀ t d m g x, VWord (.vld t d m g x) t 2 (m == 1) (fun _ => { dst := some d, gs := [g.toNat] })
      (VLoads d (m == 1) (fun v i => addrV g x v + wd (i * vBytes v)) loadGroups))
  ∧ (∀ t a m g x, VWord (.vst t a m g x) t 2 (m == 1) (fun _ => { srcs := [a], gs := [g.toNat], ahead := true, stores := true })
      (VStores (m == 1) (fun v i => addrV g x v + wd (i * vBytes v)) (fun p => groupAccs p.flatten)))
  ∧ (∀ t d b m g x, VWord (.vgath t d b m g x) t 2 (m == 1) (fun _ => { srcs := [b], dst := some d, gs := [g.toNat], ahead := true })
      (VLoads d (m == 1) (fun v i => addrV g x v + wd (laneAt (8 * vBytes v) (v.src.getD 0 0) i * vBytes v)) (fun ks => ks.map (fun k => k.accs))))
  ∧ (∀ t a b m g x, VWord (.vscat t a b m g x) t 2 (m == 1) (fun _ => { srcs := [a, b], gs := [g.toNat], ahead := true, stores := true })
      (VStores (m == 1) (fun v i => addrV g x v + wd (laneAt (8 * vBytes v) (v.src.getD 1 0) i * vBytes v)) id))

/-- R258, R177, R264: VLDS and VSTS complete, on a bank or on a ring: c = min(LEN, E - p) elements from position p, with p and HEAD moved past them, and
TAIL only once a tile's stores have applied; an element's address is BASE + LO + (tile mod NTILES) × TSTRIDE + its offset; BANKLEND sets HEAD, TAIL
and IDX of the stream and nothing else of its image.
That a further tile follows those whose stores are on their way, and that a lent bank serves the stream, is log 42. -/
def Obligations.StreamWords : Prop :=
  (∀ t d r m, VWord (.vlds t d r m) t 1 (m == 1) (fun _ => { dst := some d, streams := [r.toNat] }) (fun v w =>
      let i := (v.s.cell v.c).stream r.toNat
      let p := tilePos i
      let n := min (shapeLen v.sh) (tileSize i - p)
      let l := (List.range n).filter (activeLane v.sh v.msk (m == 1))
      let on := fun (s : State) => s.setCell v.c ((s.cell v.c).setStream r.toNat (if p + n = tileSize i then setHead (setPos i 0) (sHead i + 1) else setPos i (p + n)))
      sCount i ≠ 0 ∧ loadRoom (v.s.cell v.c) = true
      ∧ ((∃ y, ((∃ b, bankOf (v.s.cell v.c) r.toNat = some b ∧ bankGroup (v.s.cell v.c) i b (vBytes v) (l.map (fun k => p + k)) = some y)
              ∨ (bankOf (v.s.cell v.c) r.toNat = none ∧ l = [] ∧ y = []))
            ∧ w = emit { v with s := on v.s } (.load l) 1 (m == 1) { dst := some d } [fillLanes (laneW v.sh) l y 0] [])
        ∨ (bankOf (v.s.cell v.c) r.toNat = none ∧ l ≠ [] ∧ ∃ ks,
            checkRing v.s v.c .V (vBytes v) (vBytes v) false (l.map (fun k => elemAddr i (loS ((v.s.cell v.c).agent .V) r.toNat) (sHead i) (p + k))) = .ok ks
            ∧ w = emit { v with s := (on v.s).setCell v.c { (on v.s).cell v.c with
                  loads := ((on v.s).cell v.c).loads ++ [⟨((on v.s).cell v.c).nextId, .V, (((on v.s).cell v.c).agent .V).dpos, ks.map (fun k => k.accs), [], false, [], .vec⟩]
                  nextId := ((on v.s).cell v.c).nextId + 1 } }
                (.load l) 1 (m == 1) { dst := some d } [0] [⟨((on v.s).cell v.c).nextId, 0, l⟩]))))
  ∧ (∀ t a r m, VWord (.vsts t a r m) t 1 (m == 1) (fun _ => { srcs := [a], streams := [r.toNat], ahead := true, stores := true }) (fun v w =>
      let i := (v.s.cell v.c).stream r.toNat
      let p := tilePos i
      let n := min (shapeLen v.sh) (tileSize i - p)
      let l := (List.range n).filter (activeLane v.sh v.msk (m == 1))
      ringRoom (v.s.cell v.c) r.toNat = true ∧ (blindEntry (v.s.cell v.c) = none → storeRoom (v.s.cell v.c) 1 = true)
      ∧ storeGroup v.s v.c .V ((v.s.cell v.c).agent .V).dpos r.toNat (blindEntry (v.s.cell v.c)) (loS ((v.s.cell v.c).agent .V) r.toNat) p n (l.map (fun k => (k, leList (vBytes v) (laneAt (8 * vBytes v) (v.src.getD 0 0) k)))) (vBytes v)
        = (w, none)))
  ∧ (∀ x n p k ids, let y := addTail x n p k ids
      ((∀ t ∈ Tab.get [] x.tails n, t.full = true → t.stores ≠ []) → ids ≠ [] →
        (y.stream n) = (if p + k = tileSize (x.stream n) then setPos (x.stream n) 0 else setPos (x.stream n) (p + k))))
  ∧ (∀ i lo h k, sEfmt i < 11 → elemAddr i lo h k = wd (sBase i) + lo + wd (h % sNtiles i * sTstride i) + BitVec.ofInt 64 (elemOffset i k))
  ∧ (∀ i tl, tl < 256 → let j := lendImage i tl
      sHead j = 0 ∧ sTail j = tl ∧ (∀ k, k < 6 → sIdx j k = 0) ∧ sBase j = sBase i ∧ sNtiles j = sNtiles i ∧ sTstride j = sTstride i ∧ sRows j = sRows i ∧ sCols j = sCols i
      ∧ sEfmt j = sEfmt i ∧ sLevels j = sLevels i ∧ (∀ k, k < 6 → sBound j k = sBound i k ∧ sStride j k = sStride i k))

/-- R260 to R263, R391, R378: DEFER, VDRAIN and VAPPLY complete: DEFER appends its active lanes in ascending order; VDRAIN takes the batch at the head; VAPPLY appends
its live lanes group by group, by ascending handle, and its destination takes the table of handles; an append past 4,096 entries is class
0x0F code 0x01 with nothing appended, a register range past v31 class 0x01 code 0x05.
That the destination of VAPPLY names a v register is log 46. -/
def Obligations.DeferralWords : Prop :=
  (∀ t (a : BitVec 5) (n : BitVec 3) m, inFile a.toNat (n.toNat + 1) → VWord (.defer t a n m) t 1 (m == 1) (fun _ => { regs := (List.range (n.toNat + 1)).map (fun j => a.toNat + j) })
      (fun v w => (v.s.cell v.c).dq.length + (vLanes v (m == 1)).length ≤ 4096
        ∧ w = v.s.setCell v.c { v.s.cell v.c with dq := (v.s.cell v.c).dq ++ (vLanes v (m == 1)).map (fun l =>
            ⟨0, laneW v.sh, (List.range (n.toNat + 1)).map (fun j => laneAt (laneW v.sh) ((v.s.cell v.c).vreg (a.toNat + j)) l)⟩) }))
  ∧ (∀ t (d : BitVec 5) (n : BitVec 3), inFile d.toNat (n.toNat + 1) → VWord (.vdrain t d n) t 1 false (fun x => { regs := (List.range (n.toNat + 1)).map (fun j => d.toNat + j), mdst := [msel (shOf x)] })
      (fun v w => ∃ b r, (v.s.cell v.c).dq = b ++ r ∧ b.length ≤ shapeLen v.sh ∧ (∀ e ∈ b, some e.handle = ((v.s.cell v.c).dq.head?).map (·.handle))
        ∧ (b.length < shapeLen v.sh → ∀ e, r.head? = some e → some e.handle ≠ ((v.s.cell v.c).dq.head?).map (·.handle))
        ∧ w = emit { v with s := v.s.setCell v.c { v.s.cell v.c with dq := r } } (.drain b.length) 4 false
            { vd := (List.range (n.toNat + 1)).map (fun j => d.toNat + j), md := some (msel v.sh) }
            ((List.range (n.toNat + 1)).map (fun j => ofLanes (laneW v.sh) (b.map (fun e => e.vals.getD j 0 % 2 ^ min e.width (laneW v.sh))))) []))
  ∧ (∀ t (d a : BitVec 5) (n : BitVec 3) m, inFile a.toNat (n.toNat + 1) →
      VWord (.vapply t d a n m) t 1 (m == 1) (fun _ => { regs := d.toNat :: (List.range (n.toNat + 1)).map (fun j => a.toNat + j), accept := fun ty => ty == 2 || ty == 5 })
      (fun v w => ∃ T : List Nat, T.Pairwise (· < ·) ∧
        (let h := fun l => laneAt 32 ((v.s.cell v.c).vreg a.toNat) l
         let S := (List.range 64).filter (fun l => activeLane v.sh v.msk (m == 1) l && h l != 0)
         let E := T.flatMap (fun g => (S.filter (fun l => h l = g)).map (fun l => (⟨BitVec.ofNat 32 g, 32,
            (List.range n.toNat).map (fun j => laneAt 32 ((v.s.cell v.c).vreg (a.toNat + 1 + j)) l)⟩ : DqEntry)))
         (∀ g, g ∈ T ↔ ∃ l ∈ S, h l = g) ∧ (v.s.cell v.c).dq.length + E.length ≤ 4096
         ∧ w = emit { v with s := v.s.setCell v.c { v.s.cell v.c with dq := (v.s.cell v.c).dq ++ E } } .table 6 false { vd := [d.toNat] } [ofLanes 32 T] [])))
  ∧ (∀ t (a : BitVec 5) (n : BitVec 3) m s c, Issues s c .V t 1 → inFile a.toNat (n.toNat + 1) →
      VFree ((flushSig s c .V).cell c) (m == 1) { regs := (List.range (n.toNat + 1)).map (fun j => a.toNat + j) } →
      4096 < (s.cell c).dq.length + ((List.range (laneN (shOf (s.cell c)))).filter (lanesOn (s.cell c) (m == 1))).length →
      exec (.defer t a n m) s = .next (vFault (flushSig s c .V) c { cls := 0xF, code := 1, aux := wd (s.cell c).dq.length }))
  ∧ (∀ t (d a : BitVec 5) (n : BitVec 3) m i s c, Issues s c .V t 1 → ¬ inFile a.toNat (n.toNat + 1) → (bits (s.cell c).arithctl 0 3 = 0 ∨ (s.cell c).pend = []) →
      i = .defer t a n m ∨ i = .vdrain t a n ∨ i = .vapply t d a n m → exec i s = .next (vFault (flushSig s c .V) c { cls := 1, code := 5 }))

/-- R264, R265, R390, R378: BANKLEND lends the bank to its stream with HEAD 0, TAIL T and IDX 0; BANKRET gives it back once no M step that names the stream is
left; a write in flight to the bank, a bank already lent, a wrong pair and reserved bits take class 0x01 codes 0x09, 0x0B and 0x10.
The image that the check looks at is log 42. -/
def Obligations.BankWords : Prop :=
  (∀ t (g : BitVec 5), VWord (.banklend t g) t 2 false (fun _ => { gs := [g.toNat], shaped := false }) (fun v w => ∀ k, k = (v.s.cell v.c).gAt .V g.toNat →
      imageOut (v.s.cell v.c) (bits k 8 4) = false ∧ (∀ p ∈ (v.s.cell v.c).pend, ∀ r ∈ p.vd, r / 8 ≠ bits k 0 2) ∧ Tab.look (v.s.cell v.c).lent (bits k 0 2) = none ∧ bankOf (v.s.cell v.c) (bits k 8 4) = none
      ∧ bits k 24 40 = 0 ∧ bits k 12 4 = 0 ∧ bits k 2 6 = 0
      ∧ invalidImage (lendImage ((v.s.cell v.c).stream (bits k 8 4)) (bits k 16 8)) = false
      ∧ (∀ h j, h < bits k 16 8 → h < sNtiles ((v.s.cell v.c).stream (bits k 8 4)) → j < tileSize ((v.s.cell v.c).stream (bits k 8 4)) →
          0 ≤ bankAddr ((v.s.cell v.c).stream (bits k 8 4)) h j
          ∧ bankAddr ((v.s.cell v.c).stream (bits k 8 4)) h j + max 1 (elemBytes (sEfmt ((v.s.cell v.c).stream (bits k 8 4)))) ≤ 2048)
      ∧ w = v.s.setCell v.c { v.s.cell v.c with lent := Tab.set (v.s.cell v.c).lent (bits k 0 2) (bits k 8 4), s := Tab.set (v.s.cell v.c).s (bits k 8 4) (lendImage ((v.s.cell v.c).stream (bits k 8 4)) (bits k 16 8)) }))
  ∧ (∀ t (g : BitVec 5), VWord (.bankret t g) t 2 false (fun _ => { gs := [g.toNat], shaped := false }) (fun v w => ∀ k, k = (v.s.cell v.c).gAt .V g.toNat →
      Tab.look (v.s.cell v.c).lent (bits k 0 2) = some (bits k 8 4) ∧ bits k 24 40 = 0 ∧ bits k 12 4 = 0 ∧ bits k 2 6 = 0 ∧ stepsOn v.s v.c (bits k 8 4) = false
      ∧ w = v.s.setCell v.c { v.s.cell v.c with lent := Tab.erase (v.s.cell v.c).lent (bits k 0 2) }))
  ∧ (∀ t (g : BitVec 5) i s c, Issues s c .V t 2 → gReady (s.cell c) .V [g.toNat] = true → (bits (s.cell c).arithctl 0 3 = 0 ∨ (s.cell c).pend = []) →
      ∀ k, k = (s.cell c).gAt .V g.toNat → imageOut (s.cell c) (bits k 8 4) = false →
      (i = .banklend t g → (∃ p ∈ (s.cell c).pend, ∃ r ∈ p.vd, r / 8 = bits k 0 2) →
        exec i s = .next (vFault (flushSig s c .V) c { cls := 1, code := 9, aux2 := wd (bits k 0 2) }))
      ∧ (i = .banklend t g → (∀ p ∈ (s.cell c).pend, ∀ r ∈ p.vd, r / 8 ≠ bits k 0 2) → (Tab.look (s.cell c).lent (bits k 0 2)).isSome = true →
        exec i s = .next (vFault (flushSig s c .V) c { cls := 1, code := 0xB, aux2 := k }))
      ∧ (i = .bankret t g → Tab.look (s.cell c).lent (bits k 0 2) ≠ some (bits k 8 4) →
        exec i s = .next (vFault (flushSig s c .V) c { cls := 1, code := 0xB, aux2 := k }))
      ∧ (i = .bankret t g → Tab.look (s.cell c).lent (bits k 0 2) = some (bits k 8 4) → bits k 24 40 ≠ 0 ∨ bits k 12 4 ≠ 0 ∨ bits k 2 6 ≠ 0 →
        exec i s = .next (vFault (flushSig s c .V) c { cls := 1, code := 0x10, aux2 := k })))

namespace Sys2Proof.Claims
open Sys2Proof.Machine

/-- The step word `i` of the M agent completes (R267, R268): under its cell's lease, with room and its registers and streams ready, it is
issued to the array with its value `g` and the images of its streams as they stand, counts once against the lease's budget, and changes nothing else. -/
def MWord (i : Instr) (t : BitVec 4) (n : Nat) (rs : List Nat) (g : Cell → Word) : Prop :=
  ∀ s c, Issues s c .M t n → (s.cluster (clusterOf c)).lessee = some (c % 4) → (s.cluster (clusterOf c)).used < 256 →
    (stepsOf (s.cluster (clusterOf c)) c).length < 16 → gReady (s.cell c) .M rs = true →
    (rs ≠ [] → ((s.cell c).agent .M).dpos < ((s.cell c).agent .S).dpos) → (∀ p ∈ opStreams i, ∀ l ∈ (s.cell c).loads ++ (s.cell c).returning, l.dest ≠ .stream p.2) →
    ∃ u m, exec i s = .next u ∧ (u.cluster (clusterOf c)).steps = (s.cluster (clusterOf c)).steps ++ [m]
      ∧ { u.cluster (clusterOf c) with steps := (s.cluster (clusterOf c)).steps, used := (s.cluster (clusterOf c)).used } = s.cluster (clusterOf c)
      ∧ (u.cluster (clusterOf c)).used = (s.cluster (clusterOf c)).used + 1
      ∧ m.cell = c ∧ m.word = i ∧ m.g = g (s.cell c) ∧ m.pc = ((s.cell c).agent .M).pc ∧ m.dpos = ((s.cell c).agent .M).dpos ∧ m.begun = false ∧ m.caught = [] ∧ m.out = []
      ∧ (∀ p ∈ opStreams i, p.1 < 3 → m.img p.1 = (s.cell c).stream p.2 ∧ m.lo p.1 = loS ((s.cell c).agent .M) p.2)
      ∧ Passed (s.cell c) (u.cell c) .M n ∧ { unpassed (s.cell c) (u.cell c) with mlog := (s.cell c).mlog } = s.cell c
      ∧ (∀ k, k ≠ c → u.cell k = s.cell k) ∧ (∀ k, k ≠ clusterOf c → u.cluster k = s.cluster k)
      ∧ { u with cells := s.cells, clusters := s.clusters } = s

/-- g(ga), as the words before it left it, with LO added, as M words use an address (R219). -/
def addrM (x : Cell) (g : BitVec 5) : Word := x.gAt .M g.toNat + loG (x.agent .M) g.toNat

/-- Element (r, k) of the operand tile at port `p` that a step reads, negated where `neg` is 1. -/
def operand (s : State) (m : MStep) (p n : Nat) (neg : BitVec 1) (sc : List Byte) (r k : Nat) : Machine.Num :=
  if neg = 1 then (elemNum s m.cell n (m.img p) (m.lo p) (sHead (m.img p)) sc (r * sCols (m.img p) + k)).neg
  else elemNum s m.cell n (m.img p) (m.lo p) (sHead (m.img p)) sc (r * sCols (m.img p) + k)

/-- The scale bytes that a step takes at a port (R108). -/
def scalesOf (s : State) (l : Nat) (m : MStep) (p : Nat) : List Byte := (takenScales (s.cluster l) m p).map (fun e => e.1) ++ restScales s m p

/-- No error of the array, of a scale or of metadata is met (R433). -/
def NoTrigger (s : State) (l : Nat) (m : MStep) : Prop := triggerOf s l m (takenScales (s.cluster l) m 0) (takenScales (s.cluster l) m 1) = none

/-- Memory after step `m`, which read memory as `stepView s m` and whose effect gives `T`: all of it where none of its granules was read or written before its end,
else the bytes that the effect changes in granules that it had still to write (R141, log 70). -/
def Landed (s : State) (m : MStep) (T u : State) : Prop :=
  ∀ a, memGet u.mem a = if (m.caught = [] ∧ m.out = []) ∨ (a / 64 * 64 ∈ stepWrites s m ∧ a / 64 * 64 ∉ m.out ∧ memGet T.mem a ≠ memGet (stepView s m).mem a)
    then memGet T.mem a else memGet s.mem a

/-- The limits of R120 and R121 on a slot at `b` whose header is `h`. -/
def SlotOk (h : Hdr) (b : Nat) : Prop :=
  1 ≤ h.m ∧ h.m ≤ 2048 ∧ 1 ≤ h.n ∧ h.n ≤ 2048 ∧ 1 ≤ h.r ∧ h.r ≤ 32 ∧ h.c ≤ 2 * h.r ∧ b + h.extent ≤ 2 ^ 23

/-- `p` lists the indices below `c` by descending key, equal keys by rising index (R128). -/
def Ranked (key : Nat → Nat) (c : Nat) (p : List Nat) : Prop :=
  p.Perm (List.range c) ∧ p.Pairwise (fun i j => ranksBefore (key i) (key j) = true ∨ (ranksBefore (key j) (key i) = false ∧ i < j))

/-- A stream after a step: popped where the step names it and CH is 0 (R269). -/
def popped (l : List Nat) (ch : BitVec 1) (n : Nat) (i : Image) : Image :=
  if n ∈ l ∧ ch = 0 then setHead (setPos i 0) (sHead i + 1) else i

end Sys2Proof.Claims

/-- R267, R268, R274 to R285, R272, R394, R361: every step word completes by entering the array; MLEASE asks for the lease once, MREL of a cell with no step word left
gives it up or withdraws its request; a step word with neither lease nor request is class 0x0E code 0x01, one with a request alone waits; MDRAIN with FMT 0b11 is class 0x01 code 0x05.
AUX 1 and the place of these checks are the model's reading, log 45. -/
def Obligations.MatrixWords : Prop :=
  (∀ t c a b x y z h, MWord (.mma t c a b x y z h) t 1 [] (fun _ => 0))
  ∧ (∀ t c a b x y z h r, MWord (.mmas t c a b x y z h r) t 2 [] (fun _ => 0))
  ∧ (∀ t a b x y k, MWord (.mkat t a b x y k) t 2 [] (fun _ => 0))
  ∧ (∀ t c z g (f : BitVec 2), f ≠ 3 → MWord (.mdrain t c z g f) t 2 [g.toNat] (fun x => addrM x g))
  ∧ (∀ t c b, MWord (.mswap t c b) t 1 [] (fun _ => 0))
  ∧ (∀ t c f g n, MWord (.mfclr t c f g n) t 1 [] (fun _ => 0))
  ∧ (∀ t c, MWord (.tstart t c) t 1 [] (fun _ => 0))
  ∧ (∀ t n g, MWord (.skcfg t n g) t 2 [g.toNat] (fun x => x.gAt .M g.toNat))
  ∧ (∀ t a b x y n, MWord (.skfold t a b x y n) t 1 [] (fun _ => 0))
  ∧ (∀ t n, MWord (.skshrink t n) t 1 [] (fun _ => 0))
  ∧ (∀ t n g i, MWord (.skmerge t n g i) t 2 [g.toNat] (fun x => addrM x g + BitVec.ofInt 64 i.toInt))
  ∧ (∀ t n g i, MWord (.skemit t n g i) t 2 [g.toNat] (fun x => addrM x g + BitVec.ofInt 64 i.toInt))
  ∧ (∀ t n g i, MWord (.skstat t n g i) t 2 [g.toNat] (fun x => addrM x g + BitVec.ofInt 64 i.toInt))
  ∧ (∀ t s c, Issues s c .M t 1 → ∃ u, exec (.mlease t) s = .next u ∧ Passed (s.cell c) (u.cell c) .M 1
      ∧ { u.cluster (clusterOf c) with reqs := (s.cluster (clusterOf c)).reqs } = s.cluster (clusterOf c)
      ∧ (u.cluster (clusterOf c)).reqs = (if (s.cluster (clusterOf c)).lessee = some (c % 4) ∨ c % 4 ∈ (s.cluster (clusterOf c)).reqs
          then (s.cluster (clusterOf c)).reqs else (s.cluster (clusterOf c)).reqs ++ [c % 4]) ∧ MemSame s u)
  ∧ (∀ t s c, Issues s c .M t 1 → stepsOf (s.cluster (clusterOf c)) c = [] → (s.cluster (clusterOf c)).replay = none → (s.cell c).saved = none →
      ∃ u, exec (.mrel t) s = .next u ∧ Passed (s.cell c) (u.cell c) .M 1 ∧ MemSame s u
        ∧ ((s.cluster (clusterOf c)).lessee = some (c % 4) → (u.cluster (clusterOf c)).lessee = none ∧ (u.cluster (clusterOf c)).prev = c % 4)
        ∧ ((s.cluster (clusterOf c)).lessee ≠ some (c % 4) → (u.cluster (clusterOf c)).lessee = (s.cluster (clusterOf c)).lessee
            ∧ (u.cluster (clusterOf c)).reqs = (s.cluster (clusterOf c)).reqs.filter (fun k => k != c % 4)))
  ∧ (∀ t c a b x y z h s k, Issues s k .M t 1 → (s.cluster (clusterOf k)).lessee ≠ some (k % 4) →
      (k % 4 ∉ (s.cluster (clusterOf k)).reqs → exec (.mma t c a b x y z h) s = .next (fault (flushSig s k .M) k .M { cls := 0xE, code := 1, aux := 1 }))
      ∧ (k % 4 ∈ (s.cluster (clusterOf k)).reqs → exec (.mma t c a b x y z h) s
          = .next (waits (flushSig s k .M) k .M (if ((s.cell k).agent .M).wait = .operands then .operands else .other))))
  ∧ (∀ t c z g s k, Issues s k .M t 2 → exec (.mdrain t c z g 3) s = .next (fault (flushSig s k .M) k .M { cls := 1, code := 5 }))

/-- R268, R270, R271, R361, R401, R414: the lessee's oldest step word begins once the array is free, its operands and scales are there, the range checker lets it go,
the cell's earlier stores have applied where it goes and no check fails, and ends after the cycles that R271 gives; with a check failing it is
reported and has no effect: its own fault, which a word that stopped at a panel boundary has passed, then poison in what it reads, then crowded metadata, then a scale entry of another
tile; while its scales are still to come it waits.
Which image fields are read at the beginning, and which operand a report names, is log 48. -/
def Obligations.StepBegins : Prop :=
  ∀ s l m r B, headStep (s.cluster l) l = some m → arrayFree s l = true → active s m.cell = true → stepClear s m = true → stepStores s m = true →
    r = refresh (s.cell m.cell) m → operandsHere r = true → B = firstBad [if r.paused then none else stepFlt s r, stepAddr s r] →
    (∀ f, B = some f → exec (.stepBegin l) s = .next (raise s m.cell .M (ofWord m.word f) m.pc m.dpos))
    ∧ (B = none → scalesReady s r = .wait → exec (.stepBegin l) s = .next s)
    ∧ (∀ s1 f, B = none → scalesReady s r ≠ .wait → poisonRuns s m.cell (stepReads s r) = (s1, some f) →
        exec (.stepBegin l) s = .next (raise s1 m.cell .M (ofWord m.word f) m.pc m.dpos))
    ∧ (∀ s1, B = none → scalesReady s r ≠ .wait → poisonRuns s m.cell (stepReads s r) = (s1, none) →
        (∀ t c a b x y z h q, m.word = .mmas t c a b x y z h q → crowded s1 r q.toNat = true →
          exec (.stepBegin l) s = .next (raise s1 m.cell .M (ofWord m.word { cls := 1, code := 0x13, aux2 := wd q.toNat }) m.pc m.dpos))
        ∧ (∀ f, crowdFlt s1 r = none → scalesReady s r = .flt f → exec (.stepBegin l) s = .next (raise s1 m.cell .M (ofWord m.word f) m.pc m.dpos)))
    ∧ (∀ s1, B = none → scalesReady s r = .ok → poisonRuns s m.cell (stepReads s r) = (s1, none) →
        (∀ t c a b x y z h q, m.word = .mmas t c a b x y z h q → crowded s1 r q.toNat = false) →
        ∃ u, exec (.stepBegin l) s = .next u ∧ MemSame s1 u
          ∧ (u.cluster l).steps = (s1.cluster l).steps.map (fun q => if q.cell = m.cell && q.dpos = m.dpos then
              { r with begun := true, paused := false, ends := s1.now + arrayCycles s1 (stepCost s1 r - (if isMul m.word = true ∧ (s1.cluster l).lastMul = true ∧ (s1.cluster l).lastEnd + 1 = s1.now then 4 else 0)) - 1 } else q))
    ∧ (∀ t c a b x y z h, m.word = .mma t c a b x y z h → sEfmt m.ia = 8 → sEfmt m.ib = 8 → stepCost s m = 4 + sCols m.ia)
    ∧ (∀ t c z g, m.word = .mdrain t c z g 0 → stepCost s m = 72)
    ∧ (∀ t c b, m.word = .mswap t c b → stepCost s m = 2)
    ∧ (∀ t c, m.word = .tstart t c → stepCost s m = 16)

/-- R109, R122, R123, R129, R135, R136, R141, R269, R274 to R285: what a step word does when it retires with no trigger met, from memory as it has read it: MMA and MMAS put into each
element of their tile the dot product rounded once and leave the others, MKAT changes no tile, MDRAIN stores the converted tile and its code, MSWAP exchanges two tiles with their
codes, MFCLR clears code bits of a tile or of a slot's header, TSTART opens the window on the tile as it stands, SKCFG writes a fresh header and its slot-table entry, SKFOLD appends its
columns, SKSHRINK ends with C, BANK, DE and DNB as step 7 gives them and its output columns in the other bank, SKMERGE ends with the cursor cleared and, where no shrink was needed, with the image appended,
SKEMIT writes the image, SKSTAT copies the header; streams that the word names are popped unless CH is 1, and every other tile, stream and byte is as it was.
Before its time has come the event reads or writes one granule of a word that runs in no panels, and changes no tile and no stream; that panels do so at their ends, and which granule comes next,
are logs 70 and 32. -/
def Obligations.StepsRetire : Prop :=
  (∀ s l m t c a b x y z h V, dueStep s l = some m → m.word = .mma t c a b x y z h → V = stepView s m → NoTrigger V l m → sRows m.ia ≤ 128 → sCols m.ib ≤ 128 →
    ∃ u, exec (.stepRetire l) s = .next u ∧ MemSame s u
      ∧ (∀ i j, i < sRows m.ia → j < sCols m.ib → Tile.at ((u.cluster l).tile c.toNat) (128 * i + j)
          = (dotElem (Tile.at ((s.cluster l).tile c.toNat) (128 * i + j)) (z == 0)
              ((List.range (sCols m.ia)).map (fun k => (operand V m 0 a.toNat x (scalesOf V l m 0) i k, operand V m 1 b.toNat y (scalesOf V l m 1) k j)))).1 % 2 ^ 32)
      ∧ (∀ i j, j < 128 → ¬ (i < sRows m.ia ∧ j < sCols m.ib) → Tile.at ((u.cluster l).tile c.toNat) (128 * i + j) = Tile.at ((s.cluster l).tile c.toNat) (128 * i + j))
      ∧ (∀ n, n ≠ c.toNat → (u.cluster l).tile n = (s.cluster l).tile n ∧ (u.cluster l).code n = (s.cluster l).code n)
      ∧ (∀ n, (u.cell m.cell).stream n = popped [a.toNat, b.toNat] h n ((s.cell m.cell).stream n)))
  ∧ (∀ s l m t c a b x y z h r V, dueStep s l = some m → m.word = .mmas t c a b x y z h r → V = stepView s m → NoTrigger V l m → sRows m.ia ≤ 128 → sCols m.ib ≤ 128 →
    ∃ u, exec (.stepRetire l) s = .next u ∧ MemSame s u
      ∧ (∀ i j, i < sRows m.ia → j < sCols m.ib → Tile.at ((u.cluster l).tile c.toNat) (128 * i + j)
          = (dotElem (Tile.at ((s.cluster l).tile c.toNat) (128 * i + j)) (z == 0)
              ((present (fun g => metaByte V m r.toNat i g % 16) (sCols m.im)).map (fun q => (operand V m 0 a.toNat x (scalesOf V l m 0) i q.2, operand V m 1 b.toNat y (scalesOf V l m 1) q.1 j)))).1 % 2 ^ 32)
      ∧ (∀ i j, j < 128 → ¬ (i < sRows m.ia ∧ j < sCols m.ib) → Tile.at ((u.cluster l).tile c.toNat) (128 * i + j) = Tile.at ((s.cluster l).tile c.toNat) (128 * i + j))
      ∧ (∀ n, n ≠ c.toNat → (u.cluster l).tile n = (s.cluster l).tile n ∧ (u.cluster l).code n = (s.cluster l).code n)
      ∧ (∀ n, (u.cell m.cell).stream n = popped [a.toNat, b.toNat, r.toNat] h n ((s.cell m.cell).stream n)))
  ∧ (∀ s l m t a b x y k, dueStep s l = some m → m.word = .mkat t a b x y k → NoTrigger (stepView s m) l m →
    ∃ u, exec (.stepRetire l) s = .next u ∧ MemSame s u ∧ (u.cluster l).acc = (s.cluster l).acc ∧ (u.cluster l).codes = (s.cluster l).codes
      ∧ (∀ n, (u.cell m.cell).stream n = popped [a.toNat, b.toNat] 0 n ((s.cell m.cell).stream n)))
  ∧ (∀ s l m t c z g (f : BitVec 2), dueStep s l = some m → m.word = .mdrain t c z g f → f ≠ 3 → NoTrigger (stepView s m) l m →
    ∀ w ty d, w = (if f = 0 then 4 else 2) → ty = (if f = 0 then 6 else if f = 1 then 8 else 7) → d = mHome s m.cell m.g →
    ∃ T u, exec (.stepRetire l) s = .next u ∧ Landed s m T u
      ∧ (∀ k i, k < 16384 → i < w → memGet T.mem (d + w * k + i) = byteAt (leList w (convert 6 ty 0 (Tile.at ((s.cluster l).tile c.toNat) k)).1) i)
      ∧ (∀ i, i < 8 → memGet T.mem (d + w * 16384 + i) = byteAt (wordBytes (((u.cluster l).code c.toNat).setWidth 64)) i)
      ∧ (∀ a, ¬ (d ≤ a ∧ a < d + w * 16384 + 8) → memGet T.mem a = memGet (stepView s m).mem a)
      ∧ (∀ k, Tile.at ((u.cluster l).tile c.toNat) k = if z = 1 then 0 else Tile.at ((s.cluster l).tile c.toNat) k)
      ∧ (u.cluster l).code c.toNat &&& (s.cluster l).code c.toNat = (s.cluster l).code c.toNat)
  ∧ (∀ s l m t c b, dueStep s l = some m → m.word = .mswap t c b → NoTrigger (stepView s m) l m →
    ∃ u, exec (.stepRetire l) s = .next u ∧ MemSame s u
      ∧ (u.cluster l).tile c.toNat = (s.cluster l).tile b.toNat ∧ (u.cluster l).tile b.toNat = (s.cluster l).tile c.toNat
      ∧ (u.cluster l).code c.toNat = (s.cluster l).code b.toNat ∧ (u.cluster l).code b.toNat = (s.cluster l).code c.toNat
      ∧ (∀ n, n ≠ c.toNat → n ≠ b.toNat → (u.cluster l).tile n = (s.cluster l).tile n ∧ (u.cluster l).code n = (s.cluster l).code n))
  ∧ (∀ s l m t c f n, dueStep s l = some m → m.word = .mfclr t c f 0 n → NoTrigger (stepView s m) l m →
    ∃ u, exec (.stepRetire l) s = .next u ∧ MemSame s u ∧ (u.cluster l).code c.toNat = (s.cluster l).code c.toNat &&& ~~~f
      ∧ (u.cluster l).acc = (s.cluster l).acc ∧ (∀ k, k ≠ c.toNat → (u.cluster l).code k = (s.cluster l).code k))
  ∧ (∀ s l m t c f (n : BitVec 6) V b, dueStep s l = some m → m.word = .mfclr t c f 1 n → V = stepView s m → b = slotBase (slotWord V l n.toNat) →
    ∃ T u, exec (.stepRetire l) s = .next u ∧ Landed s m T u
      ∧ readHdr T l b = { readHdr V l b with flags := (BitVec.ofNat 4 (readHdr V l b).flags &&& ~~~f).toNat }
      ∧ (∀ a, ¬ (skHome l b ≤ a ∧ a < skHome l b + 8) → memGet T.mem a = memGet V.mem a)
      ∧ (u.cluster l).acc = (s.cluster l).acc ∧ (u.cluster l).codes = (s.cluster l).codes)
  ∧ (∀ s l m t c, dueStep s l = some m → m.word = .tstart t c → NoTrigger (stepView s m) l m → (s.cluster l).used < 256 →
    ∃ u, exec (.stepRetire l) s = .next u ∧ MemSame s u ∧ (u.cluster l).win c.toNat = ⟨true, (s.cluster l).tile c.toNat, (s.cluster l).code c.toNat, []⟩
      ∧ (u.cluster l).acc = (s.cluster l).acc ∧ (u.cluster l).codes = (s.cluster l).codes)
  ∧ (∀ s l m t (n : BitVec 6) g b, dueStep s l = some m → m.word = .skcfg t n g → cfgOk (s.cluster l) m.g = true → b = 256 * bits m.g 0 15 →
    ∃ T u, exec (.stepRetire l) s = .next u ∧ Landed s m T u
      ∧ readHdr T l b = { flags := 0, bank := 0, c := 0, r := bits m.g 48 6, n := bits m.g 32 12, m := bits m.g 16 12, dnb := 0, de := 0, unit := 0, mj := 0, op := 0, nfold := 0, msrc := 0 }
      ∧ slotWord T l n.toNat = wd (bits m.g 0 15 * 2 ^ 8 + 1)
      ∧ (∀ a, ¬ (skHome l b ≤ a ∧ a < skHome l b + 64) → ¬ (skHome l (slotEntry (s.cluster l) n.toNat) ≤ a ∧ a < skHome l (slotEntry (s.cluster l) n.toNat) + 8) →
          memGet T.mem a = memGet (stepView s m).mem a)
      ∧ (u.cluster l).acc = (s.cluster l).acc)
  ∧ (∀ s l m t a d x y (n : BitVec 6) V b h k, dueStep s l = some m → m.word = .skfold t a d x y n → V = stepView s m → b = slotBase (slotWord V l n.toNat) → h = readHdr V l b →
      k = sRows m.ia → h.c + k ≤ 2 * h.r → b + h.extent ≤ 2 ^ 23 →
    ∃ T u, exec (.stepRetire l) s = .next u ∧ Landed s m T u
      ∧ (∀ j i, j < k → i < h.m → skGet T l (b + h.col false h.bank (h.c + j) i) = (roundNum fp32 0 (operand V m 0 a.toNat x (scalesOf V l m 0) j i)).1)
      ∧ (∀ j i, j < k → i < h.n → skGet T l (b + h.col true h.bank (h.c + j) i) = (roundNum fp32 0 (operand V m 1 d.toNat y (scalesOf V l m 1) j i)).1)
      ∧ { readHdr T l b with flags := h.flags } = { h with c := h.c + k, nfold := h.nfold + wd k }
      ∧ (∀ j i, j < h.c → i < h.m → skGet T l (b + h.col false h.bank j i) = skGet V l (b + h.col false h.bank j i))
      ∧ (∀ j i, j < h.c → i < h.n → skGet T l (b + h.col true h.bank j i) = skGet V l (b + h.col true h.bank j i))
      ∧ (∀ a, ¬ (skHome l b ≤ a ∧ a < skHome l b + h.extent) → memGet T.mem a = memGet V.mem a)
      ∧ (u.cluster l).acc = (s.cluster l).acc ∧ (∀ q, (u.cell m.cell).stream q = popped [a.toNat, d.toNat] 0 q ((s.cell m.cell).stream q)))
  ∧ (∀ s l m t (n : BitVec 6) b h, dueStep s l = some m → m.word = .skshrink t n → clusterOf m.cell = l → m.caught = [] → m.out = [] → lastPanel s l m = true →
      b = slotBase (slotWord s l n.toNat) → h = readHdr s l b →
    ∃ u, exec (.stepRetire l) s = .next u ∧ (u.cluster l).acc = (s.cluster l).acc ∧ (h.c = 0 → MemSame s u)
      ∧ (SlotOk h b → h.c ≠ 0 → h.op < 2 → ∀ rn g, rn = min h.r h.c → g = readHdr u l b →
        g.c = rn ∧ g.bank = 1 - h.bank ∧ g.op = 0 ∧ g.unit = 0 ∧ g.m = h.m ∧ g.n = h.n ∧ g.r = h.r ∧ g.mj = h.mj ∧ g.nfold = h.nfold ∧ g.msrc = h.msrc
        ∧ (∀ a, ¬ (skHome l b ≤ a ∧ a < skHome l b + h.extent) → memGet u.mem a = memGet s.mem a)
        ∧ ∃ p, Ranked (fun j => skGet u l (sigAt b j)) h.c p
          ∧ (let inc := (p.drop rn).foldl (fun r j => (fAdd fp32 0 r (skGet u l (sigAt b j))).1) 0
             g.de = (fAdd fp32 0 h.de inc).1 ∧ g.dnb = (fAdd fp32 3 h.dnb (fSqrt fp32 3 inc).1).1)
          ∧ (h.op = 0 → (∀ j, j < h.c → skGet u l (sigAt b j) = (skDot (areaCol u l b 0x8100 j) (areaCol u l b 0x8100 j) h.c).1)
            ∧ (∀ q j k, j < rn → k < h.len q → skGet u l (b + h.col q (1 - h.bank) j k)
                = (List.range h.c).foldl (fun r i => (skFma (skGet u l (b + h.col q h.bank i k)) (skGet u l (work b (if q then 0xC100 else 0x8100) i (p.getD j 0))) (r, 0)).1) 0))))
  ∧ (∀ s l m t (n : BitVec 6) g0 i0 b h e, dueStep s l = some m → m.word = .skmerge t n g0 i0 → clusterOf m.cell = l → m.caught = [] → m.out = [] → lastPanel s l m = true →
      b = slotBase (slotWord s l n.toNat) → h = readHdr s l b → e = imgHdr s m.cell m.g →
    ∃ u, exec (.stepRetire l) s = .next u ∧ (u.cluster l).acc = (s.cluster l).acc
      ∧ (SlotOk h b → ∀ g, g = readHdr u l b →
        g.op = 0 ∧ g.unit = 0 ∧ g.mj = 0 ∧ g.msrc = 0 ∧ g.m = h.m ∧ g.n = h.n ∧ g.r = h.r
        ∧ (∀ a, ¬ (skHome l b ≤ a ∧ a < skHome l b + h.extent) → memGet u.mem a = memGet s.mem a)
        ∧ (h.op = 0 → h.c + e.c ≤ 2 * h.r → (∀ o, o < imageSize h e.c → ¬ (skHome l b ≤ imgHome s m.cell m.g o ∧ imgHome s m.cell m.g o < skHome l b + h.extent)) →
            (∀ o, o < imageSize h e.c → imgHome s m.cell m.g o = imgHome s m.cell m.g 0 + o) →
          g.c = h.c + e.c ∧ g.bank = h.bank ∧ g.nfold = h.nfold + e.nfold ∧ g.de = (fAdd fp32 0 h.de e.de).1 ∧ g.dnb = (fAdd fp32 3 h.dnb e.dnb).1
          ∧ (∀ q j k, j < e.c → k < h.len q → skGet u l (b + h.col q h.bank (h.c + j) k) = leNat (rd s (imgHome s m.cell m.g (imgCol h e.c q j k)) 4))
          ∧ (∀ q j k, j < h.c → k < h.len q → skGet u l (b + h.col q h.bank j k) = skGet s l (b + h.col q h.bank j k)))))
  ∧ (∀ s l m t (n : BitVec 6) g0 i0 V b h d, dueStep s l = some m → m.word = .skemit t n g0 i0 → V = stepView s m → b = slotBase (slotWord V l n.toNat) → h = readHdr V l b → d = mHome V m.cell m.g →
      (∀ o, o < imageSize h h.c → imgHome V m.cell m.g o = d + o) →
    ∃ T u, exec (.stepRetire l) s = .next u ∧ Landed s m T u
      ∧ hdrOf (fun i => wordAt (rd T (d + 8 * i) 8) 0) = { h with bank := 0, op := 0, unit := 0, mj := 0, msrc := 0 } ∧ (∀ i, 40 ≤ i → i < 64 → memGet T.mem (d + i) = 0)
      ∧ (∀ q j k i, j < h.c → i < 4 → k < h.len q → memGet T.mem (d + imgCol h h.c q j k + i) = memGet V.mem (skHome l (b + h.col q h.bank j 0) + 4 * k + i))
      ∧ (∀ q j k i, j < h.c → i < 4 → h.len q ≤ k → k < pad32 (h.len q) → memGet T.mem (d + imgCol h h.c q j k + i) = 0)
      ∧ (∀ a, ¬ (d ≤ a ∧ a < d + imageSize h h.c) → memGet T.mem a = memGet V.mem a) ∧ (u.cluster l).acc = (s.cluster l).acc)
  ∧ (∀ s l m t n g i V, dueStep s l = some m → m.word = .skstat t n g i → V = stepView s m →
    ∃ T u, exec (.stepRetire l) s = .next u ∧ Landed s m T u ∧ (u.cluster l).acc = (s.cluster l).acc
      ∧ (∀ a, memGet T.mem a = if mHome s m.cell m.g ≤ a ∧ a < mHome s m.cell m.g + 64
          then memGet V.mem (skHome l (slotBase (slotWord V l n.toNat)) + (a - mHome s m.cell m.g)) else memGet V.mem a))
  ∧ (∀ s l m, dueStep s l = none → runningStep s l = some m →
    ∃ u, exec (.stepRetire l) s = .next u ∧ u.cells = s.cells ∧ (u.cluster l).acc = (s.cluster l).acc ∧ (u.cluster l).codes = (s.cluster l).codes
      ∧ (isPaneled m.word = true → u = s)
      ∧ (∀ a, memGet u.mem a ≠ memGet s.mem a → a / 64 * 64 ∈ stepWrites s m ∧ a / 64 * 64 ∉ m.out))
  ∧ (∀ s l, dueStep s l = none → runningStep s l = none → exec (.stepRetire l) s = .next s)

/-- R62 to R66, R394: the lease passes round-robin to the next requesting cell after the previous lessee; at the grant a returning owner finds its tiles as it left them, a cell's first grant of a tile gives it
zero tiles with clear codes, and a handover takes 512 array cycles; at the cycle limit, and at a step-word boundary, the lease ends with its request renewed, and no memory changes; the lease of a cell
whose gang halts ends at the boundary, and the cell's context says that it was held.
What ACCSTAT reads without the array is log 17. -/
def Obligations.LeaseHandover : Prop :=
  (∀ s l i, nextLessee s l = some i → i < 4 ∧ i ∈ (s.cluster l).reqs ∧ tileRuns s (4 * l + i) = true
    ∧ ∃ k, 1 ≤ k ∧ k ≤ 4 ∧ i = ((s.cluster l).prev + k) % 4 ∧ ∀ j, 1 ≤ j → j < k →
        ¬ ((((s.cluster l).prev + j) % 4) ∈ (s.cluster l).reqs ∧ tileRuns s (4 * l + ((s.cluster l).prev + j) % 4) = true))
  ∧ (∀ s l i, l < 128 → (s.cluster l).lessee = none → nextLessee s l = some i → (s.cell (4 * l + i)).saved = none →
    ∃ u, exec (.leaseGrant l) s = .next u ∧ (u.cluster l).lessee = some i ∧ (u.cluster l).granted = s.now ∧ (u.cluster l).owner = some i
      ∧ (u.cluster l).reqs = (s.cluster l).reqs.filter (fun k => k != i) ∧ (u.cell (4 * l + i)).granted = true
      ∧ ((s.cell (4 * l + i)).granted = true → (s.cluster l).owner = some i → (u.cluster l).acc = (s.cluster l).acc ∧ (u.cluster l).codes = (s.cluster l).codes
          ∧ (u.cluster l).freeAt = s.now ∧ MemSame s u)
      ∧ ((s.cell (4 * l + i)).granted = false → ∀ n, n < 4 → (∀ k, Tile.at ((u.cluster l).tile n) k = 0) ∧ (u.cluster l).code n = 0)
      ∧ (∀ j, (s.cluster l).owner = some j → j ≠ i → (u.cluster l).freeAt = s.now + arrayCycles s 512)
      ∧ (∀ n, n < 4 → (u.cluster l).win n = ⟨true, (u.cluster l).tile n, (u.cluster l).code n, []⟩))
  ∧ (∀ s l i, (s.cluster l).lessee = some i → (s.cluster l).granted + 4096 ≤ s.now → (∀ m ∈ (s.cluster l).steps, m.begun = false) → (s.cluster l).replay = none →
    ∃ u, exec (.leaseCycleLimit l) s = .next u ∧ (u.cluster l).lessee = none ∧ (u.cluster l).prev = i ∧ i ∈ (u.cluster l).reqs ∧ (u.cluster l).used = 0
      ∧ (u.cluster l).acc = (s.cluster l).acc ∧ MemSame s u
      ∧ (∀ m ∈ (u.cluster l).steps, m.cell = 4 * l + i → m.paused = true))
  ∧ (∀ s l, s.now < (s.cluster l).granted + 4096 ∨ (s.cluster l).lessee = none ∨ ((∃ m ∈ (s.cluster l).steps, m.begun = true) ∧ (s.cluster l).replay = none) →
      exec (.leaseCycleLimit l) s = .next s)
  ∧ (∀ s l i, l < 128 → (s.cluster l).lessee = some i → tileRuns s (4 * l + i) = false → (∀ m ∈ (s.cluster l).steps, m.begun = false) → (s.cluster l).replay = none →
    ∃ u, exec (.leaseGrant l) s = .next u ∧ (u.cluster l).lessee ≠ some i ∧ (u.cell (4 * l + i)).leaseSaved = true)

/-- R107, R132, R164, R359, R415, R420, R431, R435 to R438: the Awl pushes a step's scales once, in issue order, as the range checker lets it; a trigger found at retirement starts a replay, with the tiles concerned at their checkpoints and no effect of
the step; each replay event performs the next retained word, unless what it reads is poisoned, which halts the gang (R431), and a trigger that recurs is reported with class 0x0B code 0x04, RST 0, PC at M's next word; a panel that is not the last leaves its word at the array, stopped at the lease limit.
ADDR of code 0x04 is the model's reading, log 58; scales beyond the FIFO's size log 24. -/
def Obligations.ScalesReplayAndPanels : Prop :=
  (∀ s l i m p n s1 b, (s.cluster l).lessee = some i → (s.cluster l).replay = none → (stepsOf (s.cluster l) (4 * l + i)).findSome? (fun m => (wantsScales m).map (fun p => (m, p))) = some (m, p, n) →
      fifoOf (s.cluster l) p = [] → stepClear s m = true → stepStores s m = true → readScales s m.cell (scaleAddrs ((s.cell m.cell).stream n) (headFor s m n)) = (s1, .ok b) → s1.clusters = s.clusters →
    ∃ u, exec (.scalePush l) s = .next u ∧ (fifoOf (u.cluster l) p).map (fun e => e.1) = b.take (fifoShare ((s.cell m.cell).stream n)) ∧ (∀ e ∈ fifoOf (u.cluster l) p, e.1 = e.2.1 ∧ e.2.2 = n + 2 ^ 16 * headFor s m n)
      ∧ { u with clusters := s.clusters } = s1)
  ∧ (∀ s l m k n h, dueStep s l = some m → lastPanel s l m = true → triggerOf (stepView s m) l m (takenScales (s.cluster l) m 0) (takenScales (s.cluster l) m 1) = some (k, n, h) → k ≠ 5 → n < 4 →
    ∃ u r, exec (.stepRetire l) s = .next u ∧ (u.cluster l).replay = some r ∧ r.mask = 2 ^ n ∧ r.kind = k ∧ r.tile = n ∧ r.pos = 0 ∧ MemSame s u
      ∧ (u.cluster l).tile n = ((s.cluster l).win n).tile ∧ (∀ j, j ≠ n → (u.cluster l).tile j = (s.cluster l).tile j) ∧ u.cells = s.cells
      ∧ ((u.cluster l).win n).kept = ((s.cluster l).win n).kept ++ [keptOf m] ∧ (u.cluster l).steps = (s.cluster l).steps)
  ∧ (∀ s l i r m w p k, (s.cluster l).replay = some r → (s.cluster l).lessee = some i → (s.cluster l).steps.find? (fun m => m.begun) = some m → active s (4 * l + i) = true →
      nextKept (s.cluster l) r.mask r.win r.pos = some (w, p) → r.kind = 5 ∨ (nextKept (s.cluster l) r.mask w (p + 1)).isSome = true → ((s.cluster l).win w).kept[p]? = some k →
      ∀ q s1, q = keptStep s (4 * l + i) k m.pc m.dpos 0 0 →
      (∀ f, replayPoison s q = (s1, some f) → f.rst = false → ∃ u, exec (.rollbackReplay l) s = .next u ∧ (u.cluster l).replay = none ∧ (∀ v ∈ (u.cluster l).steps, v.begun = false) ∧ MemSame s1 u
        ∧ (∀ g, s1.gangs = [g] → g.cells.contains (4 * l + i) = true → g.reports = [] → ∃ h y, u.gangs = [h] ∧ h.run = .halting ∧ h.reports = [y] ∧ y.cls = f.cls ∧ y.code = f.code ∧ y.pc = (mNext s1 (4 * l + i)).pc))
      ∧ (replayPoison s q = (s1, none) → upsetFor (s.cluster l) q = none → metaDiffers s q = false →
        ∃ u, exec (.rollbackReplay l) s = .next u ∧ ((u.cluster l).replay.map (fun q => (q.win, q.pos))) = some (w, p + 1) ∧ (u.cluster l).steps = (s.cluster l).steps))
  ∧ (∀ s l m r g, s.gangs = [g] → g.cells.contains m.cell = true → g.run = .running → g.reports = [] →
      let u := recur s l m r
      (u.cluster l).replay = none ∧ ∃ h q, u.gangs = [h] ∧ h.run = .halting ∧ h.norst = true ∧ h.reports = [q] ∧ q.cls = 0xB ∧ q.code = 4 ∧ q.dlv = 3 ∧ q.rst = false ∧ q.aux = wd (r.kind + 16 * r.tile) ∧ q.pc = (mNext s m.cell).pc)
  ∧ (∀ s l m, dueStep s l = some m → lastPanel s l m = false → (s.cluster l).steps = [m] →
    ∃ u q, exec (.sketchPanelBoundary l) s = .next u ∧ (u.cluster l).steps = [q] ∧ q.word = m.word ∧ q.cell = m.cell
      ∧ ((s.cluster l).granted + 4096 ≤ s.now → q.begun = false ∧ q.paused = true ∧ (u.cluster l).lastEnd = m.ends)
      ∧ (q.begun = true → m.ends ≤ q.ends)
      ∧ (u.cluster l).acc = (s.cluster l).acc ∧ (u.cluster l).used = (s.cluster l).used)

namespace Sys2Proof.Claims
open Sys2Proof.Machine

/-- What a transfer word takes of a g register that it names, as the words before it left it: as an address (LO added) or as a value (R219, R287). -/
def taken (x : Cell) (o : Option (BitVec 5 × Bool)) : Word :=
  match o with
  | none => 0
  | some p => if p.2 then x.gAt .X p.1.toNat + loG (x.agent .X) p.1.toNat else x.gAt .X p.1.toNat

/-- A declared footprint (R188): none, or LEN units from the address that the selector names. -/
def declared (sel : BitVec 2) (len : BitVec 13) (unit : BitVec 2) (vals : List Word) : List Range :=
  if sel = 0 ∨ len = 0 then [] else [⟨(vals.getD (sel.toNat - 1) 0).toNat, len.toNat * (if unit = 0 then 256 else if unit = 1 then 4096 else if unit = 2 then 65536 else 1048576)⟩]

/-- The word `i` of the X agent completes (R287): once S has passed it, its registers hold their values and a place is free, one command with the values and the footprints of this
moment enters the job table, and nothing else of the cell changes. -/
def XWord (i : Instr) (t : BitVec 4) (n : Nat) (a b c d : Option (BitVec 5 × Bool)) (r w u : BitVec 2) (p q : BitVec 13) : Prop :=
  ∀ s k, Issues s k .X t n → ((s.cell k).agent .X).dpos < ((s.cell k).agent .S).dpos →
    gReady (s.cell k) .X ([a, b, c, d].filterMap (fun o => o.map (fun z => z.1.toNat))) = true → (s.cell k).jobs.length < 16 →
    ∃ v j, exec i s = .next v ∧ (v.cell k).jobs = (s.cell k).jobs ++ [j] ∧ { unpassed (s.cell k) (v.cell k) with jobs := (s.cell k).jobs } = s.cell k
      ∧ Passed (s.cell k) (v.cell k) .X n ∧ OnlyCell s v k ∧ MemSame s v
      ∧ j.word = i ∧ j.a = taken (s.cell k) a ∧ j.b = taken (s.cell k) b ∧ j.c = taken (s.cell k) c ∧ j.d = taken (s.cell k) d
      ∧ j.pc = ((s.cell k).agent .X).pc ∧ j.dpos = ((s.cell k).agent .X).dpos ∧ j.begun = false ∧ j.done = 0 ∧ j.acks = [] ∧ j.stamp = none
      ∧ j.rd = declared r p u [taken (s.cell k) a, taken (s.cell k) b, taken (s.cell k) c]
      ∧ j.wr = declared w q u [taken (s.cell k) a, taken (s.cell k) b, taken (s.cell k) c]

/-- The command at position `i` of cell `c` may begin (R164, R290, R291). -/
def Starts (s : State) (c i : Nat) (j : Job) : Prop :=
  jobAt s c i = some j ∧ active s c = true ∧ j.begun = false ∧ mayBegin s c j = true ∧ (isSync j.word = true → syncReady s c j = true)

/-- The command at position `i` of cell `c` has begun and may go on. -/
def Runs (s : State) (c i : Nat) (j : Job) : Prop :=
  jobAt s c i = some j ∧ j.begun = true ∧ j.spent = false ∧ j.lost = false ∧ active s c = true

end Sys2Proof.Claims

/-- R186, R188, R287, R292 to R309: every transfer word completes by entering the job table with what it names; an XBAR level above 2 is class 0x01 code 0x05. -/
def Obligations.TransferWords : Prop :=
  (∀ t a b c d, XWord (.xmove t a b c d) t 1 (some (a, true)) (some (b, true)) (some (c, false)) (some (d, false)) 0 0 0 0 0)
  ∧ (∀ t a b c d r w u p q, XWord (.xmoveExt t a b c d r w u p q) t 2 (some (a, true)) (some (b, true)) (some (c, false)) (some (d, false)) r w u p q)
  ∧ (∀ t a r w u p q, XWord (.xfoot t a r w u p q) t 2 (some (a, true)) none none none r w u p q)
  ∧ (∀ t a b c r w u p q, XWord (.xscat t a b c r w u p q) t 2 (some (a, true)) (some (b, true)) (some (c, false)) none r w u p q)
  ∧ (∀ t (l : BitVec 5), l.toNat < 3 → XWord (.xbar t l) t 1 none none none none 0 0 0 0 0)
  ∧ (∀ t a b, XWord (.xevset t a b) t 1 (some (a, false)) (some (b, false)) none none 0 0 0 0 0)
  ∧ (∀ t a, XWord (.xevsig t a) t 1 (some (a, false)) none none none 0 0 0 0 0)
  ∧ (∀ t a, XWord (.xevwait t a) t 1 (some (a, false)) none none none 0 0 0 0 0)
  ∧ (∀ t a b, XWord (.xtail t a b) t 1 (some (a, false)) (some (b, false)) none none 0 0 0 0 0)
  ∧ (∀ t a b c d r w u p q, XWord (.xsend t a b c d r w u p q) t 2 (some (a, true)) (some (b, false)) (some (c, false)) (some (d, false)) r w u p q)
  ∧ (∀ t a b c d r w u p q, XWord (.xsendo t a b c d r w u p q) t 2 (some (a, true)) (some (b, false)) (some (c, false)) (some (d, false)) r w u p q)
  ∧ (∀ t a b c r w u p q, XWord (.xred t a b c r w u p q) t 2 (some (a, true)) (some (b, true)) (some (c, false)) none r w u p q)
  ∧ (∀ t a b r w u p q, XWord (.xcoll t a b r w u p q) t 2 (some (a, true)) (some (b, true)) none none r w u p q)
  ∧ (∀ t a b c r w u p q, XWord (.xsubmit t a b c r w u p q) t 2 (some (a, false)) (some (b, true)) (some (c, false)) none r w u p q)
  ∧ (∀ t a b, XWord (.xarrive t a b) t 1 (some (a, false)) (some (b, false)) none none 0 0 0 0 0)
  ∧ (∀ t a b c r w u p q, XWord (.xkeyld t a b c r w u p q) t 2 (some (a, false)) (some (b, true)) (some (c, false)) none r w u p q)
  ∧ (∀ t a, XWord (.xkeysw t a) t 1 (some (a, false)) none none none 0 0 0 0 0)
  ∧ (∀ t (l : BitVec 5) s k, 3 ≤ l.toNat → Issues s k .X t 1 → exec (.xbar t l) s = .next (fault (flushSig s k .X) k .X { cls := 1, code := 5 }))

/-- R164, R290, R291, R294, R296 to R301, R378: what a command does as it begins: XFOOT, XEVSET, XEVSIG, a satisfied XEVWAIT and XTAIL act and leave the table at once; an unsatisfied XEVWAIT stays, in the
event's wait list; XBAR counts, and leaves the table at once where its level is 0 or its crew is the last, the other crews' with it; XCOLL reads its record; bulk commands with sound values, XSUBMIT, XKEYLD and XARRIVE stay, begun; values that the entry forbids are reported with class 0x01 code 0x10, delivery 0, the command unbegun.
What the reports of values name, and that a command with delivery 0 stays in the table, is log 50. -/
def Obligations.CommandsBegin : Prop :=
  (∀ s c i j t a r w u p q, Starts s c i j → j.word = .xfoot t a r w u p q → exec (.commandBegin c i) s = .next (endJob s c i))
  ∧ (∀ s c i j t a b, Starts s c i j → j.word = .xevset t a b → bits j.a 18 46 = 0 → bits j.b 32 32 = 0 →
      exec (.commandBegin c i) s = .next (endJob (eventSet s (bits j.a 16 2) (bits j.a 0 16) (j.b.setWidth 32)) c i))
  ∧ (∀ s c i j t a, Starts s c i j → j.word = .xevsig t a → bits j.a 18 46 = 0 → exec (.commandBegin c i) s = .next (endJob (eventSignal s (bits j.a 16 2) (bits j.a 0 16)) c i))
  ∧ (∀ s c i j t a, Starts s c i j → j.word = .xevwait t a → bits j.a 18 46 = 0 → ((s.die (bits j.a 16 2)).event (bits j.a 0 16)).count = 0 →
      exec (.commandBegin c i) s = .next (endJob s c i))
  ∧ (∀ s c i j t a e, Starts s c i j → j.word = .xevwait t a → bits j.a 18 46 = 0 → e = (s.die (bits j.a 16 2)).event (bits j.a 0 16) → e.count ≠ 0 → e.hw.length < 8 → e.spill = [] →
      ∃ u, exec (.commandBegin c i) s = .next u ∧ ((u.die (bits j.a 16 2)).event (bits j.a 0 16)).hw = e.hw ++ [⟨c, i, (s.cell c).tile⟩]
        ∧ ((u.die (bits j.a 16 2)).event (bits j.a 0 16)).count = e.count ∧ jobAt u c i = some { j with begun := true } ∧ MemSame s u)
  ∧ (∀ s c i j t a b, Starts s c i j → j.word = .xtail t a b → bits j.a 8 56 = 0 →
      exec (.commandBegin c i) s = .next (endJob (takeTail s (bits j.a 6 2) (bits j.a 0 6) (bits j.b 0 16) (4 * c + 3)) c i))
  ∧ (∀ s c i j t l g, Starts s c i j → j.word = .xbar t l → gangOf s c = some g → l.toNat ≤ g.kind →
      ∃ u, exec (.commandBegin c i) s = .next u ∧ barCount (u.cell c) l.toNat = barCount (s.cell c) l.toNat + 1 ∧ MemSame s u
        ∧ (∀ k, k ≠ l.toNat → barCount (u.cell c) k = barCount (s.cell c) k))
  ∧ (∀ s c i j t l g, Starts s c i j → j.word = .xbar t l → gangOf s c = some g → g.kind < l.toNat → j.done = 0 → j.sub = 0 → j.stamp = none →
      exec (.commandBegin c i) s = .next (raise (putJob s c { j with begun := false, buf := [], todo := [], puts := [], record := [] }) c .X
        (ofWord (.xbar t l) { cls := 1, code := 0x11, aux2 := wd g.kind, dlv := 0 }) j.pc j.dpos))
  ∧ (∀ s c i j t l g, Starts s c i j → j.word = .xbar t l → gangOf s c = some g → l.toNat ≤ g.kind →
      (∀ q ∈ (s.cell c).jobs, q.begun = true → ∀ t1 l1, q.word ≠ .xbar t1 l1) →
      (l.toNat = 0 ∨ ∀ k ∈ g.cells, k ≠ c → barCount (s.cell c) l.toNat < barCount (s.cell k) l.toNat) →
      ∃ u, exec (.commandBegin c i) s = .next u ∧ jobAt u c i = none
        ∧ (l.toNat ≠ 0 → ∀ k ∈ g.cells, k ≠ c → ∀ q, waitsBar (s.cell k) = some (q, l.toNat) → q.done = barCount (s.cell c) l.toNat + 1 → jobAt u k q.dpos = none))
  ∧ (∀ s c i j, Starts s c i j → moveFlt s c j = none → ((∃ t a b d e, j.word = .xmove t a b d e) ∨ ∃ t a b d e r w u p q, j.word = .xmoveExt t a b d e r w u p q) → moveEmpty j = true →
      exec (.commandBegin c i) s = .next (putJob s c { j with begun := true, spent := true }))
  ∧ (∀ s c i j s1, Starts s c i j → moveFlt s c j = none → ((∃ t a b d e, j.word = .xmove t a b d e) ∨ ∃ t a b d e r w u p q, j.word = .xmoveExt t a b d e r w u p q) →
      moveEmpty j = false → markFoot s c j.wr = (s1, none) → exec (.commandBegin c i) s = .next (putJob s1 c { j with begun := true }))
  ∧ (∀ s c i j, Starts s c i j → sendFlt s j = none → ((∃ t a b d e r w u p q, j.word = .xsend t a b d e r w u p q) ∨ ∃ t a b d e r w u p q, j.word = .xsendo t a b d e r w u p q) →
      exec (.commandBegin c i) s = .next (putJob s c { j with begun := true, spent := decide (bits j.c 0 32 = 0) && !bit j.c 32 }))
  ∧ (∀ s c i j t a b r w u p q, Starts s c i j → j.word = .xcoll t a b r w u p q → j.a.toNat % 128 = 0 → ∀ s1 y,
      gather s c j none 64 64 false (runAddrs j.a 64 2) = .ready s1 y → coFlt j y = none →
      exec (.commandBegin c i) s = .next (putJob s1 c { j with begun := true, buf := [], todo := [], record := y, spent := decide (coTotal y = 0) || decide (coChunk y = 0) }))
  ∧ (∀ s c i j t a b d r w u p q, Starts s c i j → j.word = .xkeyld t a b d r w u p q → keyldFlt s c j = none → exec (.commandBegin c i) s = .next (putJob s c { j with begun := true }))
  ∧ (∀ s c i j t a b d r w u p q, Starts s c i j → j.word = .xsubmit t a b d r w u p q → bits j.a 8 56 = 0 → j.b.toNat % 128 = 0 → 0 < j.c.toNat →
      j.c.toNat < qsize (s.die (bits j.a 6 2)) (bits j.a 0 6) → exec (.commandBegin c i) s = .next (putJob s c { j with begun := true }))
  ∧ (∀ s c i j t a b d r w u p q s1 z, Starts s c i j → j.word = .xscat t a b d r w u p q → bits j.c 40 24 = 0 → scPair (bits j.c 32 3) (bits j.c 35 4) = true → j.a.toNat % 16 = 0 →
      scTarget s c j = (s1, .ok z) → exec (.commandBegin c i) s = .next (putJob s1 c { j with begun := true, spent := decide (bits j.c 0 32 = 0) }))
  ∧ (∀ s c i j t a b d r w u p q, Starts s c i j → j.word = .xred t a b d r w u p q → bits j.c 32 32 = 0 → bits j.c 0 32 % 64 = 0 → j.a.toNat % 64 = 0 → redFlt s c j.b (bits j.c 0 32) = none →
      exec (.commandBegin c i) s = .next (putJob s c { j with begun := true, spent := decide (bits j.c 0 32 = 0) }))
  ∧ (∀ s c i j t a, Starts s c i j → j.word = .xkeysw t a → fullKeys s c = true → noPort s j.a.toNat = false → (s.port j.a.toNat).switching = none →
      (Tab.get LinkKey.reset (s.port j.a.toNat).keys (1 - (s.port j.a.toNat).txs)).sealed = false →
      ∃ u, exec (.commandBegin c i) s = .next u ∧ (u.port j.a.toNat).switching = some (c, i) ∧ (u.port j.a.toNat).txs = (s.port j.a.toNat).txs ∧ jobAt u c i = some { j with begun := true } ∧ MemSame s u)
  ∧ (∀ s c i j t a b, Starts s c i j → j.word = .xarrive t a b → bits j.a 36 28 = 0 → bits j.a 0 12 = selfNode s → bits j.a 0 12 ≤ s.flash.maxNode →
      ∃ u, exec (.commandBegin c i) s = .next u ∧ MemSame s u ∧ (u.die (bits j.a 12 2)).arrivals = (s.die (bits j.a 12 2)).arrivals
          ++ [⟨bits j.a 14 6, bits j.a 20 16, j.b.toNat, bits j.a 0 12, some (c, i)⟩])
  ∧ (∀ s c i j t a b, Starts s c i j → j.word = .xevset t a b → bits j.a 18 46 ≠ 0 → j.done = 0 → j.sub = 0 → j.stamp = none →
      exec (.commandBegin c i) s = .next (raise (putJob s c { j with begun := false, buf := [], todo := [], puts := [], record := [] }) c .X
        (ofWord (.xevset t a b) { cls := 1, code := 0x10, aux2 := j.a, dlv := 0 }) j.pc j.dpos))

/-- R141, R154, R289, R292, R293, R295, R302, R310, R426: a chunk of XMOVE is at most 4 KiB of one row; both its sides are checked, and translated, before a byte is read, and a check that fails is
the command's fault; its granules, all read, are written one at a time, each whole, in no order that the spec gives; XSEND sends a chunk to one node of its list after another; XSCAT hands up to 64 records
to the engine; a command leaves the table when its bytes are moved, acknowledged and applied, its completion action run first; XBAR when every crew has come, XEVWAIT when released, XARRIVE when its
arrival is taken.
That the order of the granules is a free value, and each a step of its own, is log 32; a command that a lost connection has stopped goes no further (R448). -/
def Obligations.CommandsRunAndComplete : Prop :=
  (∀ s c i j n row q s0, Runs s c i j → (∃ t x y z w, j.word = .xmove t x y z w) ∨ (∃ t x y z w r f u p v, j.word = .xmoveExt t x y z w r f u p v) →
      row = j.done / mvRowb j → q = j.done % mvRowb j →
      n = min (min 4096 (mvRowb j - q)) (2 ^ 30 - (j.b + wd row * mvDstride j + wd q).toNat % 2 ^ 30) →
      (∀ f, checkMove s c j (j.a + wd row * mvSstride j + wd q) (j.b + wd row * mvDstride j + wd q) n = (s0, .flt f) → exec (.transferChunk c i) s = .next (jobFlt s0 c j f))
      ∧ (∀ y s1 b, checkMove s c j (j.a + wd row * mvSstride j + wd q) (j.b + wd row * mvDstride j + wd q) n = (s0, .ok y) →
        gatherFrom s0 c y 64 y.racc (runAddrs (j.a + wd row * mvSstride j + wd q) 64 (n / 64)) = .ready s1 b →
        (nodeOf y.wacc = none → exec (.transferChunk c i) s = .next (writeItem s1 c (y.filled b) n))
        ∧ (∀ m o, nodeOf y.wacc = some (m, o) → canSend s1 m = true →
          exec (.transferChunk c i) s = .next (putJob (sendNow s1 (plainPacket 0 m (wd o) 0 b) none (some (c, j.dpos))) c
            { y with done := y.done + n, acks := y.acks ++ [(m, (s1.conn m).send)], buf := [], todo := [], puts := [], spent := decide (mvRows y * mvRowb y ≤ y.done + n) }))))
  ∧ (∀ s c j sa da n, j.buf = [] → j.asked = false → ∀ s1 s2 p q, checkRun s c (some j.rd) 64 64 false true true (runAddrs sa 64 (n / 64)) = (s1, .ok p) →
      checkRun s1 c (some j.wr) 64 64 true true true (runAddrs da 64 (n / 64)) = (s2, .ok q) →
      checkMove s c j sa da n = (s2, .ok { j with racc := p.map (·.accs), wacc := q.map (·.accs) }))
  ∧ (∀ s c j n P, P = (if j.puts = [] then offsets 64 (n / 64) else j.puts) → P ≠ [] →
      ∃ o ∈ P, writeItem s c j n = { putJob (applyPart s c (deal (j.wacc.getD (o / 64) []) ((j.buf.drop o).take 64))) c
          (if P.erase o = [] then { j with done := j.done + n, buf := [], todo := [], puts := [], spent := decide (mvRows j * mvRowb j ≤ j.done + n) }
            else { j with puts := P.erase o }) with ticks := s.ticks + 1 })
  ∧ (∀ s c i j n s1 b, Runs s c i j → (∃ t x y z w r f u p v, j.word = .xsend t x y z w r f u p v) → n = min 4096 (bits j.c 0 32 - j.done) →
      gather s c j (some j.rd) 64 64 false (runAddrs (j.a + wd j.done) 64 (n / 64)) = .ready s1 b → canSend s1 (bits j.d (12 * j.sub) 12) = true → j.stamp = none →
      j.done + n < bits j.c 0 32 → j.sub + 1 < bits j.d 60 3 →
      exec (.transferChunk c i) s = .next (putJob (sendNow s1 (plainPacket 0 (bits j.d (12 * j.sub) 12) (j.b + wd j.done) 0 b) none (some (c, j.dpos))) c
        { j with acks := j.acks ++ [(bits j.d (12 * j.sub) 12, (s1.conn (bits j.d (12 * j.sub) 12)).send)], sub := j.sub + 1, buf := b, todo := [], spent := false }))
  ∧ (∀ s c i j n s0 h top s1 b, Runs s c i j → (∃ t x y z r f u p v, j.word = .xscat t x y z r f u p v) → n = min 64 (bits j.c 0 32 - j.done) →
      scTarget s c j = (s0, .ok (.home h, top)) → gather s0 c j (some j.rd) 16 16 false (runAddrs (j.a + wd (16 * j.done)) 16 n) = .ready s1 b →
      (recsOf b).filterMap (elemFlt s1 c j (top - h)) = [] →
      ∃ u, exec (.transferChunk c i) s = .next u ∧ MemSame s1 u
        ∧ (u.cluster (engineOfHome h)).blocks = (s1.cluster (engineOfHome h)).blocks ++ [⟨(s1.cluster (engineOfHome h)).ticket, (recsOf b).map (fun r =>
            ⟨h + scWidth (bits j.c 35 4) * leNat (r.take 4), bits j.c 32 3, bits j.c 35 4, wd (leNat ((r.drop 8).take (scWidth (bits j.c 35 4))))⟩), none⟩]
        ∧ (u.cluster (engineOfHome h)).ticket = (s1.cluster (engineOfHome h)).ticket + (recsOf b).length)
  ∧ (∀ s c i j, jobAt s c i = some j → j.begun = true → j.lost = false → active s c = true → j.spent = true → j.acks = [] → j.tickets = [] →
      (∃ t x y z w, j.word = .xmove t x y z w) ∨ (∃ t x y z w r f u p v, j.word = .xmoveExt t x y z w r f u p v) →
      (bits j.c 40 3 = 0 → exec (.commandComplete c i) s = .next (endJob s c i))
      ∧ (bits j.c 40 3 = 1 → svFenced s c 3 j.dpos = true → exec (.commandComplete c i) s = .next (endJob (eventSignal s (dieOf s c) (bits j.c 48 16)) c i))
      ∧ (bits j.c 40 3 = 1 → svFenced s c 3 j.dpos = false → exec (.commandComplete c i) s = .next s)
      ∧ (bits j.c 40 3 = 2 → ((s.cell c).chan (bits j.c 48 16 % 16)).q.length < 4 → pendingBind ((s.cell c).chan (bits j.c 48 16 % 16)) = false →
          exec (.commandComplete c i) s = .next (endJob (addSlot s c (bits j.c 48 16 % 16) ⟨(s.cell c).nextId, some (j.kreg.setWidth 2048)⟩) c i)))
  ∧ (∀ s c i j, jobAt s c i = some j → j.begun = true → j.lost = false → active s c = true → j.spent = true → j.acks = [] → j.tickets = [] →
      (∃ t x y z r f u p v, j.word = .xscat t x y z r f u p v) ∨ (∃ t x y z w r f u p v, j.word = .xsend t x y z w r f u p v) ∨ (∃ t x y z w r f u p v, j.word = .xsendo t x y z w r f u p v)
        ∨ (∃ t x y z r f u p v, j.word = .xred t x y z r f u p v) ∨ (∃ t x y z r f u p v, j.word = .xsubmit t x y z r f u p v) ∨ (∃ t x y z r f u p v, j.word = .xkeyld t x y z r f u p v) →
      exec (.commandComplete c i) s = .next (endJob s c i))
  ∧ (∀ s c i j, jobAt s c i = some j → j.begun = true → j.lost = false → active s c = true → ((∃ t x, j.word = .xevwait t x) ∨ ∃ t x, j.word = .xkeysw t x) →
      (j.reached = true → exec (.commandComplete c i) s = .next (endJob s c i)) ∧ (j.reached = false → exec (.commandComplete c i) s = .next s))
  ∧ (∀ s c i j t x y, jobAt s c i = some j → j.begun = true → j.lost = false → active s c = true → j.word = .xarrive t x y →
      (j.reached = true → j.acks = [] → exec (.commandComplete c i) s = .next (endJob s c i)) ∧ (j.reached = false ∨ j.acks ≠ [] → exec (.commandComplete c i) s = .next s))
  ∧ (∀ s c i j t l g, jobAt s c i = some j → j.begun = true → j.lost = false → active s c = true → j.word = .xbar t l → gangOf s c = some g →
      ((∀ k ∈ g.cells, j.done ≤ barCount (s.cell k) l.toNat) → exec (.commandComplete c i) s = .next (endJob s c i))
      ∧ (l.toNat ≠ 0 → (∃ k ∈ g.cells, barCount (s.cell k) l.toNat < j.done) → exec (.commandComplete c i) s = .next s))
  ∧ (∀ s c i j, jobAt s c i = some j → (j.acks ≠ [] ∨ j.tickets ≠ [] ∨ j.spent = false) → isBulk j.word = true → exec (.commandComplete c i) s = .next s)
  ∧ (∀ s c i j t a b r f u p v, jobAt s c i = some j → j.begun = true → j.lost = false → active s c = true → j.spent = true → j.acks = [] → j.tickets = [] → j.word = .xcoll t a b r f u p v →
      (bit (wordAt j.record 0x10) 40 = true → svFenced s c 3 j.dpos = true) →
      exec (.commandComplete c i) s = .next (endJob (if bit (wordAt j.record 0x10) 40 then eventSignal s (dieOf s c) (bits (wordAt j.record 0x10) 48 16) else s) c i))

namespace Sys2Proof.Claims
open Sys2Proof.Machine

/-- Exactly one register write waits, and its owner may take it. -/
def OneWrite (s : State) (w : RegWrite) : Prop := s.writes = [w] ∧ mayTake s w = true

/-- A TLB entry that covers an address. -/
def covering (l : List Trans) (va : Nat) : Prop := ∃ e ∈ l, e.base ≤ va ∧ va < e.base + e.size

end Sys2Proof.Claims

/-- R224, R392, R426: a home takes the request of another cell and answers it: a count raised or lowered under a live handle, code 0x01 for a stale one; the answer reaches the S word that asked. R83 to R85, R89: a walk enters the
die's TLB, and one that fails enters nothing; a prefetch asks for the next page of its stream, where a command's stride leaves a page
the page of the row that comes next (log 42), else the page above; TLBINV leaves no covering entry in any TLB of a cell and is busy until no access that used one is left; KEYCMD loads its slot from KEYDATA. R429, R430: scrubbing corrects and counts an error.
The entry that a full TLB replaces is a free value, log 3; which page a prefetch asks for is log 42 and when it comes log 59; soft errors are inputs, log 60. -/
def Obligations.GuestbookAndTranslationEvents : Prop :=
  (∀ s c q e, c < 512 → (s.cell c).gbq = [q] → q.cell ≠ c → q.op = .inc → Live (s.cell c) q.handle e → e.count < 65535 →
    ∃ u a, exec (.guestbookRequest c) s = .next u ∧ (u.cell c).gbq = [] ∧ (u.cell c).gbEntry (hEnv q.handle) = { e with count := e.count + 1 }
      ∧ (u.cell q.cell).gbacks = (s.cell q.cell).gbacks ++ [a] ∧ a.code = 0 ∧ a.ent = e ∧ MemSame s u)
  ∧ (∀ s c q, c < 512 → (s.cell c).gbq = [q] → q.cell ≠ c → ((s.cell c).gbEntry (hEnv q.handle)).gen ≠ hGen q.handle →
    ∃ u a, exec (.guestbookRequest c) s = .next u ∧ (∀ n, (u.cell c).gbEntry n = (s.cell c).gbEntry n)
      ∧ (u.cell q.cell).gbacks = (s.cell q.cell).gbacks ++ [a] ∧ a.code = 1 ∧ MemSame s u)
  ∧ (∀ s c a r o, (s.cell c).gbacks = a :: r → (s.cell c).sop = some o → o.asked = true →
    exec (.guestbookAck c) s = .next (s.setCell c { s.cell c with gbacks := r, sop := some { o with ack := some a } }))
  ∧ (∀ s d v t, d < 4 → v < 2 ^ 56 → (∀ e ∈ (s.die d).lltlb, ¬ (e.base ≤ v ∧ v < e.base + e.size)) → walk s v = .ok t → (s.die d).lltlb.length < 12288 →
    ∃ u, exec (.pageWalk d v) s = .next u ∧ (u.die d).lltlb = (s.die d).lltlb ++ [t] ∧ { u with dies := (walkMeets s v).dies } = walkMeets s v
      ∧ ∀ k, k ≠ d → u.die k = (walkMeets s v).die k)
  ∧ (∀ s d v, d < 4 → v < 2 ^ 56 → (∀ e ∈ (s.die d).lltlb, ¬ (e.base ≤ v ∧ v < e.base + e.size)) → (∀ t, walk s v ≠ .ok t) → exec (.pageWalk d v) s = .next (walkMeets s v))
  ∧ (∀ s d v, 4 ≤ d ∨ 2 ^ 56 ≤ v ∨ covering (s.die d).lltlb v → exec (.pageWalk d v) s = .next s)
  ∧ (∀ s v, MemSame s (walkMeets s v) ∧ (s.latent = [] → walkMeets s v = s))
  ∧ (∀ s c e t, c < 512 → 0 < e → e < 4 → (tlbOf s (.agent c (engineOf e)) (engineOf e)).getLast? = some t → ∀ v, v = nextPage (s.cell c) (engineOf e) t → v < 2 ^ 56 →
    tlbFind (tlbOf s (.agent c (engineOf e)) (engineOf e)) v = none →
    exec (.streamTlbPrefetch c e) s = .next (translate s (.agent c (engineOf e)) (engineOf e) v).1)
  ∧ (∀ x e t, (e = .X → ∀ j ∈ x.jobs, j.begun = false) → nextPage x e t = t.base + t.size)
  ∧ (∀ x j (t : Trans) k (f : Nat → Nat) (c : Trans → Nat → Prop), x.jobs = [j] → j.begun = true → (∃ y a b g h, j.word = .xmove y a b g h) → (∀ i, f i = (j.a + wd (j.done / mvRowb j + i) * mvSstride j).toNat) →
      (∀ i, c t i ↔ t.base ≤ f i ∧ f i < t.base + t.size) → j.done / mvRowb j + k < mvRows j → (∀ i, i < k → c t i ∧ f i + mvRowb j ≤ t.base + t.size) → 0 < k → ¬ c t k →
      nextPage x .X t = f k)
  ∧ (∀ s w i, OneWrite s w → w.reg = 0x1001 → (i = .tlbinvPage ∧ bits w.val 0 2 = 1) ∨ (i = .tlbinvAll ∧ 2 ≤ bits w.val 0 2) →
    ∃ u, exec i s = .next u ∧ u.tlbinvBusy.isSome = true ∧ u.writes = [{ w with taken := true }] ∧ MemSame s u
      ∧ (∀ c, ¬ covering (u.cell c).stlb (bits w.val 16 48 * 2 ^ 16) ∧ ¬ covering (u.cell c).vtlb (bits w.val 16 48 * 2 ^ 16)
          ∧ ¬ covering (u.cell c).mtlb (bits w.val 16 48 * 2 ^ 16) ∧ ¬ covering (u.cell c).xtlb (bits w.val 16 48 * 2 ^ 16))
      ∧ (∀ d, ¬ covering (u.die d).lltlb (bits w.val 16 48 * 2 ^ 16))
      ∧ (2 ≤ bits w.val 0 2 → (∀ c, (u.cell c).stlb = [] ∧ (u.cell c).vtlb = [] ∧ (u.cell c).mtlb = [] ∧ (u.cell c).xtlb = []) ∧ ∀ d, (u.die d).lltlb = []))
  ∧ (∀ s b, s.tlbinvBusy = some b → ((∀ p ∈ b.2, usesOld s b.1 p = false) → exec .tlbinvComplete s = .next { s with tlbinvBusy := none })
      ∧ ((∃ p ∈ b.2, usesOld s b.1 p = true) → exec .tlbinvComplete s = .next s))
  ∧ (∀ s w, OneWrite s w → w.reg = 0x1010 → bit w.val 15 = true →
    ∃ u k, exec .keySlotLoad s = .next u ∧ Tab.get none u.keySlots (bits w.val 0 10) = some k ∧ (∀ i, i < 8 → k.extractLsb' (64 * i) 64 = mreg s (0x1008 + i))
      ∧ (∀ n, n ≠ bits w.val 0 10 → Tab.get none u.keySlots n = Tab.get none s.keySlots n) ∧ MemSame s u)
  ∧ (∀ s a, s.latent = [] → s.poison = [] → exec (.scrub a) s = .next s)
  ∧ (∀ s a, s.latent = [(a - a % unitSize a, true)] → s.poison = [] →
    ∃ u, exec (.scrub a) s = .next u ∧ u.latent = [] ∧ u.poison = [] ∧ MemSame s u
      ∧ (bits (dreg s (homeDie s (a - a % unitSize a)) 0x212) 0 32 < 2 ^ 32 - 1 →
          bits (dreg u (homeDie s (a - a % unitSize a)) 0x212) 0 32 = bits (dreg s (homeDie s (a - a % unitSize a)) 0x212) 0 32 + 1))

/-- R59, R297: a count set to a value, counted down, never below 0; a count that reaches 0 empties the hardware list, and a waiter that is released has its command marked; the walker releases an overflow list's first waiter. R90 to R93: the
engine applies its oldest block whole, and then owes the packet that brought it an acknowledgement. R55, R57, R396: a tail write is reduced modulo the ring and taken where the ring has room, else refused and the tail kept.
That the overflow list keeps its waiters in State is the model's choice, log 31; which stores a tail write waits for is log 53. -/
def Obligations.EventsBlocksAndTails : Prop :=
  (∀ s d n v, v ≠ 0 → ((eventSet s d n v).die d).event n = { (s.die d).event n with count := v } ∧ MemSame s (eventSet s d n v))
  ∧ (∀ s d n, ((s.die d).event n).count = 0 → eventSignal s d n = s)
  ∧ (∀ s d n, 1 < ((s.die d).event n).count.toNat → ((eventSignal s d n).die d).event n = { (s.die d).event n with count := ((s.die d).event n).count - 1 })
  ∧ (∀ s d n, ((s.die d).event n).count = 1 → (((eventSignal s d n).die d).event n).count = 0 ∧ (((eventSignal s d n).die d).event n).hw = []
      ∧ (((eventSignal s d n).die d).event n).spill = ((s.die d).event n).spill
      ∧ (((eventSignal s d n).die d).event n).release = !((s.die d).event n).spill.isEmpty)
  ∧ (∀ s w x j, Tab.look s.cells w.cell = some x → x.tile = w.tile → j ∈ x.jobs → j.dpos = w.dpos →
      { j with reached := true } ∈ ((releaseOne s w).cell w.cell).jobs)
  ∧ (∀ s d e w r, d < 4 → ((s.die d).event e).release = true → ((s.die d).event e).spill = w :: r →
    ∃ u, exec (.eventOverflowWalk d e) s = .next u ∧ ((u.die d).event e).spill = r ∧ ((u.die d).event e).release = !r.isEmpty
      ∧ ((u.die d).event e).count = ((s.die d).event e).count ∧ MemSame s u)
  ∧ (∀ s l t e r, (s.cluster l).blocks = ⟨t, [e], none⟩ :: r → s.latent = [] → s.poison = [] →
    ∃ u, exec (.scatterBlockApply l) s = .next u ∧ (u.cluster l).blocks = r
      ∧ (∀ a, memGet u.mem a = if e.addr ≤ a ∧ a < e.addr + scWidth e.ty
          then byteAt (leList (scWidth e.ty) (scOp e.op e.ty (leNat (rd s e.addr (scWidth e.ty))) e.val.toNat)) (a - e.addr) else memGet s.mem a))
  ∧ (∀ s l t e r p, (s.cluster l).blocks = ⟨t, e, some p⟩ :: r → ((scNext s l).conn p.1).ackDue.isSome = true)
  ∧ (∀ ty old v, ty < 4 → old < 2 ^ (8 * scWidth ty) → v < 2 ^ (8 * scWidth ty) →
      scOp 0 ty old v = (old + v) % 2 ^ (8 * scWidth ty) ∧ scOp 3 ty old v = old &&& v ∧ scOp 4 ty old v = old ||| v ∧ scOp 5 ty old v = old ^^^ v ∧ scOp 6 ty old v = v
      ∧ (scOp 1 2 old v = min old v) ∧ (scOp 2 2 old v = max old v))
  ∧ (∀ s d n v b t, t = v % qsize (s.die d) n → (t + qsize (s.die d) n - qtail (s.die d) n) % qsize (s.die d) n ≤ qfree (s.die d) n →
      qtail ((takeTail s d n v b).die d) n = t ∧ MemSame s (takeTail s d n v b) ∧ (∀ k, k ≠ n → qtail ((takeTail s d n v b).die d) k = qtail (s.die d) k))
  ∧ (∀ s d n v b t, t = v % qsize (s.die d) n → qfree (s.die d) n < (t + qsize (s.die d) n - qtail (s.die d) n) % qsize (s.die d) n → qtail ((takeTail s d n v b).die d) n = qtail (s.die d) n)
  ∧ (∀ s d q w, OneWrite s w → w.reg = 0x4C0 + q → w.unit = d → q < 64 → writerClear s w = true →
      exec (.qtailWrite d q) s = .next (takeTail { s with writes := [{ w with taken := true }] } d q (bits w.val 0 16) w.by_.num))

/-- R51 to R53, R58, R60, R61, R346, R351: no stage and no tile starts before boot is complete, in Retention or above the trip; a decision adds gangs to those that there are, and
hands the first ready tile of a started stage to its free executor, whose cell starts at ENTRY with i0 to i5, ARG, the tile, crew and party numbers in g1 to g10 and everything else
empty; a head that starts moves HEAD on and gives its queue its own priority back; a queue whose head has stayed eligible ages; a tile ends when its crew and accesses are done; its stage counts it and retires after the
last one; an arrival takes one from a tile's count, and one that names no record leaves memory's counts alone.
Which of the choices that R51 to R61 leave is made is logs 34 and 51. -/
def Obligations.StagesAndTiles : Prop :=
  (∀ s d, (s.booted = false ∨ (s.die d).retention = true ∨ (s.die d).tripped = true) → exec (.schedulerDecision d) s = .next s)
  ∧ (∀ s d, ∃ u l, exec (.schedulerDecision d) s = .next u ∧ u.gangs.map (fun g => (g.first, g.run)) = (s.gangs ++ l).map (fun g => (g.first, g.run))
      ∧ (∀ g ∈ l, g.die = d ∧ g.run = .running ∧ g.reports = []))
  ∧ (∀ s d st c, d < 4 → s.booted = true → noTiles s d = false → (s.die d).stages = [st] → st.handed = [] → (∀ q, q < 64 → bit (qcfgOf (s.die d) q) 7 = false)
      → (s.die d).reserve = [] → rKind st.record = 0 → rArr st.record = false → 0 < rTotal st.record → freeUnits s d 64 st.record = [[(c, 0, 0)]] →
    ∃ u n, exec (.schedulerDecision d) s = .next u ∧ u.gangs = s.gangs ++ [⟨c, 0, [c], d, .running, [], false, none, []⟩]
      ∧ u.cell c = (startCell (s.cell c) st.record ⟨d, st.queue, st.id, 0⟩ 0 0 n).emptyFetch s ∧ (∀ k, k ≠ c → u.cell k = s.cell k)
      ∧ (u.die d).stages = [{ st with handed := [0] }] ∧ n = (if (s.cluster (clusterOf c)).gated = true then s.now + 64 else max s.now (s.cluster (clusterOf c)).wakeAt) ∧ (u.cluster (clusterOf c)).gated = false ∧ MemSame s u)
  ∧ (∀ x l r w p n, rLevels l ≤ 6 → ∃ y, startCell x l r w p n = y
      ∧ (∀ j, j < rLevels l → y.greg (j + 1) =
          wd (r.tile / ((List.range (rLevels l - 1 - j)).map (fun k => max 1 (rBound l (j + 1 + k)))).foldl (· * ·) 1 % max 1 (rBound l j)))
      ∧ (∀ j, rLevels l ≤ j → j < 6 → y.greg (j + 1) = 0) ∧ y.greg 7 = wordAt l 8 ∧ y.greg 8 = wd r.tile ∧ y.greg 9 = wd w ∧ y.greg 10 = wd p ∧ (∀ j, 10 < j → y.greg j = 0)
      ∧ (∀ e, y.agent e = { Agent.reset with pc := wordAt l 0 }) ∧ y.slipwin = wd (slipSat (bits (rCtl l) 24 11)) ∧ y.v = [] ∧ y.m = [] ∧ y.k = [] ∧ y.s = [] ∧ y.lent = [] ∧ y.chans = []
      ∧ y.tokens = [] ∧ y.outq = [] ∧ y.vshape = 0x8006 ∧ y.vstat = 0 ∧ y.arithctl = 0 ∧ y.wallow = 0x20202020 ∧ y.lstride = [] ∧ y.netp = [] ∧ y.dq = [] ∧ y.jobs = [] ∧ y.xbar = []
      ∧ y.faultrec = x.faultrec ∧ (∀ k, (y.gbEntry k).count = 0))
  ∧ (∀ s d q l, 0 < rTotal l → ∃ st, qhead ((startStage s d q l).die d) q = (qhead (s.die d) q + 1) % qsize (s.die d) q
      ∧ prioOf ((startStage s d q l).die d) q = basePrio (s.die d) q ∧ Tab.look ((startStage s d q l).die d).since q = none
      ∧ (st.queue = q ∧ st.record = l ∧ st.index = qhead (s.die d) q ∧ st.start = s.now ∧ st.ended = 0)
      ∧ ((∀ t ∈ (s.die d).stages, t.id < (s.die d).nextStage) → st ∈ ((startStage s d q l).die d).stages))
  ∧ (∀ s d q r, d < 4 → q < 64 → r = exposeHead s d q → (s.latent = [] → r = s) ∧ MemSame s r
      ∧ (eligibleHead r d q = none → ∃ u, exec (.queueAgeing d q) s = .next u ∧ Tab.look (u.die d).since q = none ∧ prioOf (u.die d) q = prioOf (r.die d) q)
      ∧ (eligibleHead r d q ≠ none → Tab.look (r.die d).since q = none → ∃ u, exec (.queueAgeing d q) s = .next u ∧ Tab.look (u.die d).since q = some (r.now, r.now)
          ∧ ageDue r d q = some r.now)
      ∧ (∀ t P, eligibleHead r d q ≠ none → Tab.look (r.die d).since q = some t → P = 256 * max 1 (bits (dreg r d 0x200) 0 16) → prioOf (r.die d) q < 7 →
          ageDue r d q = some (t.2 + P)
          ∧ (t.2 + P ≤ r.now → ∃ u, exec (.queueAgeing d q) s = .next u ∧ prioOf (u.die d) q = prioOf (r.die d) q + 1 ∧ Tab.look (u.die d).since q = some (t.1, t.2 + P))
          ∧ (r.now < t.2 + P → exec (.queueAgeing d q) s = .next r))
      ∧ (∀ t, eligibleHead r d q ≠ none → Tab.look (r.die d).since q = some t → 7 ≤ prioOf (r.die d) q → exec (.queueAgeing d q) s = .next r))
  ∧ (∀ s c g t, gangOf s c = some g → (s.cell c).tile = some t → g.run = .running → g.cells.all (cellDone s) = true →
    ∃ u, exec (.tileEnd c) s = .next u ∧ (∀ k ∈ g.cells, (u.cell k).tile = none ∧ (u.cell k).jobs = []) ∧ u.gangs.length < s.gangs.length)
  ∧ (∀ s c g t, gangOf s c = some g → (s.cell c).tile = some t → g.run = .running → g.cells.all (cellDone s) = false → crewDone (s.cell c) = false → exec (.tileEnd c) s = .next s)
  ∧ (∀ s g t n st, (s.die t.die).stages = [st] → st.id = t.stage →
      (st.ended + 1 < rTotal st.record → ((endGang s g t n).die t.die).stages = [{ st with ended := st.ended + 1, nocev := st.nocev || n }])
      ∧ (rTotal st.record ≤ st.ended + 1 → ((endGang s g t n).die t.die).stages = []))
  ∧ (∀ s d a r st b u, (s.die d).arrivals = a :: r → (s.die d).stages.find? (fun q => q.queue = a.queue && q.index = a.index) = some st → rArr st.record = true → a.tile < rTotal st.record →
    heldCount (s.setDie d { s.die d with arrivals := r }) d (wordAt st.record 0x38 + wd (2 * a.tile)) = false →
    ikRead (s.setDie d { s.die d with arrivals := r }) d (wordAt st.record 0x38 + wd (2 * a.tile)) 2 2 = some b →
    ringWrite (exposeVa (s.setDie d { s.die d with arrivals := r }) d (wordAt st.record 0x38 + wd (2 * a.tile)) 2 2) d (wordAt st.record 0x38 + wd (2 * a.tile)) (leList 2 (leNat b - 1)) = some u →
    exec (.arrival d) s = .next (arrivalDone u a))
  ∧ (∀ s d a r, (s.die d).arrivals = a :: r → (∀ st ∈ (s.die d).stages, st.queue ≠ a.queue) → qcount (s.die d) a.queue = 0 →
    ∃ u t, exec (.arrival d) s = .next (arrivalDone u a) ∧ u = dieRecord t d .X ⟨0xF, 5, ringAddr (s.die d) a.queue a.index, wd (a.queue + 2 ^ 32 * a.tile), wd a.src, 3, true⟩
      ∧ t = s.setDie d { s.die d with arrivals := r })

namespace Sys2Proof.Claims
open Sys2Proof.Machine

/-- The address of the context of cell `c`: CTXBASE and 512 KiB for each cell (R66). -/
def ctxOf (s : State) (c : Nat) : Nat := bits (dreg s (dieOf s c) 0x204) 19 29 * 2 ^ 19 + 2 ^ 19 * c

/-- The memory from `a` on holds the context of a cell, at the places that log 36 names. -/
def ContextHeld (u : State) (a : Nat) (x : Cell) : Prop :=
  (∀ e ∈ [Engine.S, .V, .X], devWord u (a + 16 * engCode e) = (x.agent e).pc ∧ devWord u (a + 16 * engCode e + 8) = wd (x.agent e).dpos)
    ∧ (∀ r, r < 32 → devWord u (a + 64 + 8 * r) = x.greg r) ∧ (∀ r, r < 8 → devWord u (a + 320 + 8 * r) = x.mreg r)
    ∧ (∀ r, r < 16 → devWord u (a + 384 + 8 * r) = (x.kreg r).setWidth 64)
    ∧ devWord u (a + 512) = x.slipwin ∧ devWord u (a + 520) = x.vshape ∧ devWord u (a + 528) = x.vstat ∧ devWord u (a + 536) = x.arithctl ∧ devWord u (a + 544) = x.wallow
    ∧ (∀ n, n < 36 → devWord u (a + 640 + 8 * n) = Tab.get 0 x.lstride n) ∧ (∀ n, n < 16 → devWord u (a + 1312 + 8 * n) = wd (Tab.get [] x.tokens n).length)
    ∧ (∀ r, r < 32 → devRead u (a + 0x4000 + 256 * r) 256 = leList 256 (x.vreg r).toNat) ∧ (∀ r, r < 16 → devRead u (a + 0x6000 + 128 * r) 128 = leList 128 (x.undoAhead.stream r).toNat)
    ∧ (∀ n i e, n < 16 → i < 4 → (x.chan n).q[i]? = some e → devRead u (a + 0x6800 + 1024 * n + 256 * i) 256 = leList 256 (e.val.getD 0).toNat)
    ∧ (∀ n, n < 1024 → devWord u (a + 0xC000 + 208 * n) = (x.gbEntry n).entry ∧ bits (devWord u (a + 0xC008 + 208 * n)) 16 16 = (x.gbEntry n).count % 2 ^ 16
        ∧ bits (devWord u (a + 0xC008 + 208 * n)) 32 16 = (x.gbEntry n).gen % 2 ^ 16)
    ∧ ∀ i e, i < 4096 → x.dq[i]? = some e → bits (devWord u (a + 0x40000 + 64 * i)) 0 32 = e.handle.toNat

/-- What a resume takes of a cell from the memory at `a`. -/
def ContextTaken (s : State) (a : Nat) (z : Cell) : Prop :=
  (∀ e, (z.agent e).pc = devWord s (a + 16 * engCode e) ∧ (z.agent e).dpos = (devWord s (a + 16 * engCode e + 8)).toNat)
    ∧ (∀ r, 0 < r → r < 32 → z.greg r = devWord s (a + 64 + 8 * r)) ∧ (∀ r, r < 8 → z.mreg r = devWord s (a + 320 + 8 * r))
    ∧ (∀ r, r < 16 → z.kreg r = (devWord s (a + 384 + 8 * r)).setWidth 32)
    ∧ z.slipwin = devWord s (a + 512) ∧ z.vshape = devWord s (a + 520) ∧ z.vstat = devWord s (a + 528) ∧ z.arithctl = devWord s (a + 536) ∧ z.wallow = devWord s (a + 544)
    ∧ (∀ n, n < 36 → Tab.get 0 z.lstride n = devWord s (a + 640 + 8 * n)) ∧ (∀ n, n < 16 → (Tab.get [] z.tokens n).length = min 16 (devWord s (a + 1312 + 8 * n)).toNat)
    ∧ (∀ r, r < 32 → z.vreg r = BitVec.ofNat 2048 (leNat (devRead s (a + 0x4000 + 256 * r) 256))) ∧ (∀ r, r < 16 → z.stream r = BitVec.ofNat 1024 (leNat (devRead s (a + 0x6000 + 128 * r) 128)))
    ∧ z.dq.length = min 4096 (devWord s (a + 0x40038)).toNat

end Sys2Proof.Claims

/-- R65 to R67, R363, R364, R368, R372 to R374, R386: a pre-emption request halts the running gang that it names and no other; a halting gang is saved only once it is quiescent, with its registers, channels, Guestbook and deferral queue in its context; a
resumed gang runs again from what its context holds, unless a record of its halt has RST 0, and a request to resume it waits while other work runs on its cells (log 35); an abort ends a halted gang and one that halts later; FNQ is read from its oldest entry and pops it, and an entry that stays is
reported once; a crew whose live agents all wait on itself for 4,096 cycles halts with code 0x04, M past HALT among them where a step of it starves.
The inner layout of a context and what a resume reads of it is log 36; which gangs a request names and what FNQ shows of a pre-emption is log 52; what a resume keeps log 54; the crew's waits log 55. -/
def Obligations.HaltsAndContexts : Prop :=
  (∀ s d w, OneWrite s w → w.reg = 0x202 → w.unit = d →
    ∃ u, exec (.preemptreq d) s = .next u ∧ u.writes = [{ w with taken := true }] ∧ u.cells = s.cells ∧ MemSame s u ∧ bits (dreg u d 0x202) 0 12 = bits w.val 0 12
      ∧ u.gangs.length = s.gangs.length
      ∧ (∀ g ∈ s.gangs, g.die = d → g.first = bits w.val 0 9 → g.kind = bits w.val 9 2 → g.run = .running → { g with run := .halting } ∈ u.gangs)
      ∧ (∀ g ∈ s.gangs, (g.die ≠ d ∨ g.first ≠ bits w.val 0 9 ∨ g.kind ≠ bits w.val 9 2 ∨ g.run ≠ .running) → g ∈ u.gangs))
  ∧ (∀ s n, (∀ h ∈ s.gangs, h.first = n → h.run ≠ .halting) → exec (.contextSave n) s = .next s)
  ∧ (∀ s n h, s.gangs.find? (fun g => g.first = n && g.run = .halting) = some h → h.cells.all (cellQuiet s) = false → exec (.contextSave n) s = .next s)
  ∧ (∀ s c, cellQuiet s c = true → (s.cell c).loads = [] ∧ (s.cell c).stores.all Store.blind = true ∧ (s.cell c).pend = [])
  ∧ (∀ s n h, s.gangs.find? (fun g => g.first = n && g.run = .halting) = some h → h.cells.all (cellQuiet s) = true → h.abort = none →
    ∃ u k, exec (.contextSave n) s = .next u ∧ u.gangs = s.gangs.map (fun q => if q.first = n ∧ q.run = .halting then k else q)
      ∧ k = { h with run := .halted, saved := k.saved } ∧ k.saved.map (·.1) = h.cells
      ∧ (∀ p ∈ k.saved, p.2.tile = (s.cell p.1).tile ∧ p.2.g = (s.cell p.1).g ∧ p.2.v = (s.cell p.1).v ∧ p.2.m = (s.cell p.1).m ∧ p.2.k = (s.cell p.1).k ∧ p.2.s = (s.cell p.1).undoAhead.s ∧ p.2.chans = (s.cell p.1).chans
          ∧ p.2.tokens = (s.cell p.1).tokens ∧ p.2.gb = (s.cell p.1).gb ∧ p.2.dq = (s.cell p.1).dq ∧ p.2.vshape = (s.cell p.1).vshape ∧ p.2.arithctl = (s.cell p.1).arithctl ∧ p.2.lstride = (s.cell p.1).lstride
          ∧ ((s.cluster (clusterOf p.1)).lessee = some (p.1 % 4) ∨ (s.cluster (clusterOf p.1)).reqs.contains (p.1 % 4) = true → h.cells = [p.1] → p.2.leaseSaved = true))
      ∧ (∀ c, h.cells = [c] → (u.cluster (clusterOf c)).lessee ≠ some (c % 4) ∧ (u.cluster (clusterOf c)).reqs.contains (c % 4) = false))
  ∧ (∀ s n h c, s.gangs.find? (fun g => g.first = n && g.run = .halting) = some h → h.cells = [c] → cellQuiet s c = true → h.abort = none → h.reports = [] → h.kind < 3 → h.first < 512 → assigned (ctxOf s c) = true →
    retained s (ctxOf s c) = false → (s.die h.die).ik.nest = false → (s.die h.die).fnq.length < 64 →
    ∃ u, exec (.contextSave n) s = .next u ∧ (u.die h.die).fnq = (s.die h.die).fnq ++ [(fnqEntry 0 h.kind 0 h.first 0, s.now, [])]
      ∧ ContextHeld u (ctxOf s c) (s.cell c))
  ∧ (∀ s n h b t, s.gangs.find? (fun g => g.first = n && g.run = .halting) = some h → h.cells.all (cellQuiet s) = true → h.abort = some b → h.first ∈ h.cells → (s.cell h.first).tile = some t →
    ∃ u, exec (.contextSave n) s = .next u ∧ u.gangs.length < s.gangs.length)
  ∧ (∀ s d w g, OneWrite s w → w.reg = 0x203 → w.unit = d → haltedGang s d w.val = some g → g.norst = false → cellsClear s g = true → (s.die d).tripped = false →
    ∃ u, exec (.resumereq d) s = .next u ∧ u.writes = [{ w with taken := true }] ∧ MemSame s u ∧ { g with run := .running, reports := [], norst := false, saved := [] } ∈ u.gangs
      ∧ (∀ h ∈ s.gangs, h ≠ g → h ∈ u.gangs)
      ∧ (∀ c y z, g.saved = [(c, y)] → z = readContext s c (decide ((s.cell c).tile = y.tile)) y →
          (u.cell c).tile = y.tile ∧ (u.cell c).agents = z.agents ∧ (u.cell c).g = z.g ∧ (u.cell c).m = z.m ∧ (u.cell c).k = z.k ∧ (u.cell c).v = z.v ∧ (u.cell c).s = z.s
          ∧ (u.cell c).tokens = z.tokens ∧ (u.cell c).outq = z.outq ∧ (u.cell c).dq = z.dq ∧ (u.cell c).slipwin = z.slipwin ∧ (u.cell c).vshape = z.vshape ∧ (u.cell c).vstat = z.vstat
          ∧ (u.cell c).arithctl = z.arithctl ∧ (u.cell c).wallow = z.wallow ∧ (u.cell c).lstride = z.lstride ∧ (u.cell c).netp = z.netp ∧ (u.cell c).jobs = y.jobs
          ∧ (u.cell c).fcache = [] ∧ (u.cell c).text = s.mem
          ∧ ((s.cell c).tile = y.tile → (u.cell c).gb = (s.cell c).gb ∧ (u.cell c).chans = (s.cell c).chans)
          ∧ ((s.cell c).tile ≠ y.tile → (u.cell c).gb = z.gb ∧ (u.cell c).chans = z.chans)
          ∧ (z.leaseSaved = true → (u.cluster (clusterOf c)).reqs.contains (c % 4) = true) ∧ ∀ k, k ≠ c → u.cell k = s.cell k))
  ∧ (∀ s c k y, assigned (ctxOf s c) = true → retained s (ctxOf s c) = false → ContextTaken s (ctxOf s c) (readContext s c k y)
      ∧ (∀ n, n < 16 → k = false → ((readContext s c k y).chan n).bind = devWord s (ctxOf s c + 928 + 8 * n) ∧ ((readContext s c k y).chan n).q.length = min 4 (bits (devWord s (ctxOf s c + 0xA800 + 8 * n)) 0 8))
      ∧ (∀ n, n < 1024 → k = false → ((readContext s c k y).gbEntry n).entry = devWord s (ctxOf s c + 0xC000 + 208 * n)))
  ∧ (∀ s c k y, (assigned (ctxOf s c) = false ∨ retained s (ctxOf s c) = true) → readContext s c k y = y)
  ∧ (∀ s d w, OneWrite s w → w.reg = 0x203 → w.unit = d → (haltedGang s d w.val = none ∨ ∃ g, haltedGang s d w.val = some g ∧ g.norst = true) →
    ∃ u, exec (.resumereq d) s = .next u ∧ u.writes = [{ w with taken := true }] ∧ u.gangs = s.gangs ∧ u.cells = s.cells ∧ MemSame s u)
  ∧ (∀ s d w g, OneWrite s w → haltedGang s d w.val = some g → g.norst = false → (cellsClear s g = false ∨ (s.die d).tripped = true) → exec (.resumereq d) s = .next s)
  ∧ (∀ s d w g t, OneWrite s w → w.reg = 0x20E → w.unit = d → haltedGang s d w.val = some g → (Tab.get Cell.reset g.saved g.first).tile = some t →
    ∃ u, exec (.abortreq d) s = .next u ∧ u.gangs.length < s.gangs.length ∧ ∀ c ∈ g.cells, (s.cell c).tile = some t → (u.cell c).tile = none)
  ∧ (∀ s d w, OneWrite s w → w.reg = 0x20E → w.unit = d → haltedGang s d w.val = none →
    ∃ u, exec (.abortreq d) s = .next u ∧ u.cells = s.cells ∧ u.gangs = s.gangs.map (fun g => if namesGang d w.val g then { g with run := if g.run = .running then .halting else g.run, abort := some (bit w.val 11) } else g))
  ∧ (∀ s d r t g n, ikWord { s with cur := .ik d } d = some (.sysrd t g n) → n.toNat = 0x20D → g.toNat = r → (s.die d).ik.running = true → fnqDue s d = false → (∀ w ∈ s.writes, w.by_ ≠ .ik d) →
    ∃ u, exec (.fnqRead d r) s = .next u ∧ (u.die d).fnq = (s.die d).fnq.tail ∧ (u.die d).ik.pc = (s.die d).ik.pc + 4 ∧ (r ≠ 0 → (u.die d).ik.greg r = ((s.die d).fnq.head?.map (·.1)).getD 0) ∧ MemSame s u)
  ∧ (∀ s d l e r, (s.die d).fnq = l ++ e :: r → (∀ p ∈ l, s.now < p.2.1 + 4000 * max 1 (bits (dreg s d 0x210) 0 32)) → e.2.1 + 4000 * max 1 (bits (dreg s d 0x210) 0 32) ≤ s.now →
    ∃ u n, exec (.fnqWatchdog d) s = .next u ∧ u.alarms = (if bit (mreg s 0x1306) 63 then s.alarms + 1 else s.alarms) ∧ (u.die d).fnq = l ++ (e.1, n, e.2.2) :: r ∧ n = e.2.1 + 2 ^ 80)
  ∧ (∀ s d, (∀ p ∈ (s.die d).fnq, s.now < p.2.1 + 4000 * max 1 (bits (dreg s d 0x210) 0 32)) → exec (.fnqWatchdog d) s = .next s)
  ∧ (∀ s c, s.now < (s.cell c).lastPass + 4096 → exec (.crewStall c) s = .next s)
  ∧ (∀ s c e, ((s.cell c).agent e).halted = false → stallOf s c e = none → exec (.crewStall c) s = .next s)
  ∧ (∀ s c e k ch pc dpos, active s c = true → (s.cell c).lastPass + 4096 ≤ s.now → (∀ f, ((s.cell c).agent f).halted = (f != e)) → (e = .M ∨ stalledStep s c = none) → stallOf s c e = some (k, ch, pc, dpos) →
    exec (.crewStall c) s = .next (raise s c e ⟨2, 4, 0, if k = 4 ∨ k = 5 then (chanFlt ((s.cell c).chan ch) ch 4).aux else 0, wd k, 0, true⟩ pc dpos))
  ∧ (∀ s c m r, active s c = true → (s.cell c).lastPass + 4096 ≤ s.now → (∀ f, ((s.cell c).agent f).halted = true) → ((s.cell c).agent .M).wait = .none → cellSteps s c = m :: r →
      m.begun = false → stepStarved s m = true → exec (.crewStall c) s = .next (raise s c .M ⟨2, 4, 0, 0, wd 6, 0, true⟩ m.pc m.dpos))
  ∧ (∀ s c e, (((s.cell c).agent e).wait = .leftToken → hasTok (s.cell c) s.now (leftOf e) e = false → stallOf s c e = some (0, 0, ((s.cell c).agent e).pc, ((s.cell c).agent e).dpos))
      ∧ (((s.cell c).agent e).wait = .rightToken → hasTok (s.cell c) s.now (rightOf e) e = false → stallOf s c e = some (1, 0, ((s.cell c).agent e).pc, ((s.cell c).agent e).dpos))
      ∧ (((s.cell c).agent e).wait = .leftSignal → 16 ≤ ((s.cell c).tok e (leftOf e)).length → stallOf s c e = some (7, 0, ((s.cell c).agent e).pc, ((s.cell c).agent e).dpos))
      ∧ (((s.cell c).agent e).wait = .rightSignal → 16 ≤ ((s.cell c).tok e (rightOf e)).length → stallOf s c e = some (8, 0, ((s.cell c).agent e).pc, ((s.cell c).agent e).dpos)))

namespace Sys2Proof.Claims
open Sys2Proof.Machine

/-- The flit `f`, of this KIND and with this payload, goes out sealed under the transmit slot of port `p` at its counter, which rises; it takes the next LSEQ and its image is held for retry (R325, R327, R341); `beside` goes with it. -/
def Seals (s u : State) (p kind : Nat) (b beside : List Byte) (f : Flit) : Prop :=
  f.kind = kind ∧ f.body = b ∧ f.lseq = (s.port p).lseq ∧ f.lack = (s.port p).lack ∧ f.slot = (s.port p).txs ∧ (s.port p).msSent.toNat ≤ f.ms.toNat ∧ (u.port p).msSent = f.ms
    ∧ (u.port p).lseq = ((s.port p).lseq + 1) % 2 ^ 24
    ∧ (u.port p).buf = (s.port p).buf ++ [⟨f, sealFlit (slotKey (s.port p) (s.port p).txs) (slotKey (s.port p) (s.port p).txs).tx f, 0⟩]
    ∧ (u.port p).wireOut = (s.port p).wireOut ++ [sealFlit (slotKey (s.port p) (s.port p).txs) (slotKey (s.port p) (s.port p).txs).tx f ++ beside]
    ∧ (slotKey (u.port p) (s.port p).txs).tx = (slotKey (s.port p) (s.port p).txs).tx + 1 ∧ (slotKey (u.port p) (s.port p).txs).sealed = true

/-- Port `p` is up with room in its retry buffer, and its transmit slot is loaded and may seal. -/
def MaySend (s : State) (p : Nat) : Prop :=
  p < 18 ∧ portUp (s.port p) = true ∧ (s.port p).buf.length < 1024 ∧ (slotKey (s.port p) (s.port p).txs).loaded = true ∧ (slotKey (s.port p) (s.port p).txs).tx < 2 ^ 40 - 2

/-- The image that comes next on port `p` opens under its receive slot, at the counter, as the flit `f`, which is the next one in LSEQ order. -/
def Comes (s : State) (p : Nat) (f : Flit) (r : List (List Byte)) : Prop :=
  p < 18 ∧ wholePacket (s.port p).rxq = false ∧ portUp (s.port p) = true ∧ f.lseq = (s.port p).expect ∧ f.slot = (s.port p).rxs ∧ (slotKey (s.port p) (s.port p).rxs).loaded = true
    ∧ ∃ b, (s.port p).wireIn = b :: r ∧ openFlit (slotKey (s.port p) (s.port p).rxs) (slotKey (s.port p) (s.port p).rxs).rx (b.take 256) = some f

/-- LACK of a flit from the peer (R327): the flits of the retry buffer that it covers leave it. -/
def Covered (x y : Port) (f : Flit) : Prop :=
  ∀ h t, x.buf = h :: t → 0 < (f.lack + 2 ^ 24 - h.flit.lseq) % 2 ^ 24 → (f.lack + 2 ^ 24 - h.flit.lseq) % 2 ^ 24 ≤ t.length + 1 → y.buf = x.buf.drop ((f.lack + 2 ^ 24 - h.flit.lseq) % 2 ^ 24)

/-- A port without what a discarded flit may change: the images on its wire and what LACK governs. -/
def noLack (x : Port) : Port := { x with wireIn := [], buf := [], stale := false, acked := 0, ackTime := 0, mark := none, switching := none, near := false }

/-- What port `p` has after it accepted a flit (R327, R335, R341). -/
def Accepts (s u : State) (p : Nat) (f : Flit) (r : List (List Byte)) : Prop :=
  (u.port p).wireIn = r ∧ (u.port p).expect = ((s.port p).expect + 1) % 2 ^ 24 ∧ (u.port p).msRecv = f.ms ∧ (slotKey (u.port p) (s.port p).rxs).rx = (slotKey (s.port p) (s.port p).rxs).rx + 1
    ∧ (u.port p).authBad = false ∧ Covered (s.port p) (u.port p) f

/-- The fields of a packet fit their places in its header (R326). -/
def Fits (k : Packet) : Prop :=
  k.ty < 16 ∧ k.cls < 4 ∧ k.dst < 4096 ∧ k.src < 4096 ∧ k.cseq < 2 ^ 32 ∧ k.cack < 2 ^ 32 ∧ k.data.length ≤ 4096

end Sys2Proof.Claims

/-- R324 to R328, R342, R440 to R444, R450: a port sends the next flit of its first packet, or a lantern when it is idle, sealed and numbered; it accepts flits only in LSEQ order, intact and under an unused counter, counts the
others, of which LACK alone is taken where the tag checks at the counter of their LSEQ, acknowledges a lantern or marker at once where no packet is coming in, and a packet only when all of it has come, and forwards it once; it resends what is not acknowledged, at most RMAX times, not counted while the peer may refuse a marker; lanes that fail narrow or break the link, and
the sequence of retraining aborts a packet in part at both ends and tells of a link state begun anew; EN down and up again discards the retry buffer and restarts LSEQ and LACK; a stalled milestone is recorded once an episode.
That the timing word of R338 goes beside the lantern's flit, whose payload is 224 zero bytes, is the model's choice, log 22; what else the spec leaves open of links is chosen in logs 13 and 61. -/
def Obligations.Links : Prop :=
  (∀ s p k r, MaySend s p → markerDue (s.port p) = false → (s.port p).txq = k :: r →
    ∃ u f, exec (.packetTransmit p) s = .next u ∧ Seals s u p (if (s.port p).part = 0 then 0 else 1) (flitBody k (s.port p).part) [] f ∧ MemSame s u
      ∧ ((s.port p).part = 0 → (u.port p).width = portWidth (s.port p))
      ∧ (flitCount k.data.length ≤ (s.port p).part + 1 → (u.port p).txq = r ∧ (u.port p).part = 0)
      ∧ ((s.port p).part + 1 < flitCount k.data.length → (u.port p).txq = k :: r ∧ (u.port p).part = (s.port p).part + 1))
  ∧ (∀ s p, MaySend s p → markerDue (s.port p) = true → ∃ u f, exec (.packetTransmit p) s = .next u
      ∧ (u.port p).txs = 1 - (s.port p).txs ∧ (u.port p).wireOut = (s.port p).wireOut ++ [sealFlit (slotKey (s.port p) (s.port p).txs) (slotKey (s.port p) (s.port p).txs).tx f]
      ∧ f.kind = 3 ∧ f.slot = (s.port p).txs ∧ f.lseq = (s.port p).lseq ∧ f.body = markerBody (1 - (s.port p).txs) (slotKey (s.port p) (1 - (s.port p).txs)).kid)
  ∧ (∀ s p, ((s.port p).txq = [] ∧ markerDue (s.port p) = false) ∨ 1024 ≤ (s.port p).buf.length ∨ portUp (s.port p) = false ∨ (slotKey (s.port p) (s.port p).txs).loaded = false → exec (.packetTransmit p) s = .next s)
  ∧ (∀ s p, MaySend s p → markerDue (s.port p) = false → (s.port p).txq = [] → ∃ u f, exec (.lantern p) s = .next u ∧ Seals s u p 2 (List.replicate 224 0) (timingBytes (timingWord s)) f ∧ MemSame s u)
  ∧ (∀ k f l, Fits k → f.kind = 0 → (f :: l).map (fun f => f.body) = (List.range (flitCount k.data.length)).map (flitBody k) → wholePacket (f :: l) = true ∧ assemble (f :: l) = some k)
  ∧ (∀ s p f r, Comes s p f r → (f.kind = 2 → ∃ u, exec (.flitReceive p) s = .next u ∧ Accepts s u p f r ∧ (u.port p).lack = (if (s.port p).rxq = [] then ((s.port p).expect + 1) % 2 ^ 24 else (s.port p).lack) ∧ (u.port p).rxq = (s.port p).rxq)
      ∧ (f.kind = 0 → ∃ u, exec (.flitReceive p) s = .next u ∧ Accepts s u p f r ∧ (u.port p).lack = (s.port p).lack ∧ (u.port p).rxq = [f] ∧ (u.port p).rwidth = portWidth (s.port p))
      ∧ (f.kind = 1 → ∃ u, exec (.flitReceive p) s = .next u ∧ Accepts s u p f r ∧ (u.port p).lack = (s.port p).lack ∧ (u.port p).rxq = (s.port p).rxq ++ [f])
      ∧ (∀ n, f.kind = 3 → (byteAt f.body 0).toNat = n → (slotKey (s.port p) n).loaded = true → (slotKey (s.port p) n).sealed = false → (slotKey (s.port p) n).kid.toNat = leNat ((f.body.drop 4).take 4) →
          ∃ u, exec (.flitReceive p) s = .next u ∧ (u.port p).rxs = n ∧ (u.port p).expect = ((s.port p).expect + 1) % 2 ^ 24 ∧ (u.port p).lack = (if (s.port p).rxq = [] then (u.port p).expect else (s.port p).lack))
      ∧ (∀ n, f.kind = 3 → (byteAt f.body 0).toNat = n →
          ((slotKey (s.port p) n).loaded = false ∨ (slotKey (s.port p) n).sealed = true ∨ (slotKey (s.port p) n).kid.toNat ≠ leNat ((f.body.drop 4).take 4)) →
          ∃ u, exec (.flitReceive p) s = .next u ∧ (u.port p).rxs = (s.port p).rxs ∧ (u.port p).expect = (s.port p).expect ∧ (u.port p).lack = (s.port p).lack ∧ (u.port p).wireIn = r
            ∧ (u.port p).refused = some f.lseq))
  ∧ (∀ s p b r, p < 18 → (s.port p).wireIn = b :: r → wholePacket (s.port p).rxq = false → portUp (s.port p) = true → (flitOf (b.take 256) []).lseq ≠ (s.port p).expect →
    ∃ u, exec (.flitReceive p) s = .next u ∧ (u.port p).wireIn = r ∧ noLack (u.port p) = noLack (s.port p)
      ∧ (∀ k n f, k = slotKey (s.port p) (s.port p).rxs → n = ((s.port p).expect + 2 ^ 24 - (flitOf (b.take 256) []).lseq) % 2 ^ 24 →
          ((k.loaded = false ∨ (flitOf (b.take 256) []).slot ≠ (s.port p).rxs) → (u.port p).buf = (s.port p).buf ∧ (u.port p).stale = (s.port p).stale)
          ∧ (k.loaded = true → (flitOf (b.take 256) []).slot = (s.port p).rxs → openFlit k (if n ≤ k.rx ∧ n < 2 ^ 23 then k.rx - n else k.rx + (2 ^ 24 - n) % 2 ^ 24) (b.take 256) = some f →
              Covered (s.port p) (u.port p) f ∧ (u.port p).stale = ((s.port p).stale || staleLack (s.port p) f))))
  ∧ (∀ x f h t, x.buf = h :: t → (staleLack x f = true ↔ 0 < (h.flit.lseq + 2 ^ 24 - f.lack) % 2 ^ 24 ∧ (h.flit.lseq + 2 ^ 24 - f.lack) % 2 ^ 24 < 2 ^ 23))
  ∧ (∀ s p b r k, p < 18 → (s.port p).wireIn = b :: r → wholePacket (s.port p).rxq = false → portUp (s.port p) = true → (flitOf (b.take 256) []).lseq = (s.port p).expect → slotKey (s.port p) (s.port p).rxs = k →
    (b.length < 256 ∨ (flitOf (b.take 256) []).slot ≠ (s.port p).rxs ∨ k.loaded = false ∨ (b.take 256).drop 240 ≠ gcmTag (roundKeys (leList 32 k.key.toNat)) (flitIv k k.rx) (b.take 16) ((b.drop 16).take 224)) →
    exec (.flitReceive p) s = .next (s.setPort p { s.port p with wireIn := r, authf := min 65535 ((s.port p).authf + 1), authBad := true }))
  ∧ (∀ s p k q, p < 18 → wholePacket (s.port p).rxq = true → assemble (s.port p).rxq = some k → k.dst ≠ selfNode s → k.cls = 0 → route s k.dst = some q → q ≠ p →
    ∃ u, exec (.packetReceive p) s = .next u ∧ (u.port q).txq = (s.port q).txq ++ [k] ∧ (u.port p).rxq = [] ∧ (u.port p).lack = (s.port p).expect ∧ MemSame s u)
  ∧ (∀ s p, p < 18 → wholePacket (s.port p).rxq = false → exec (.packetReceive p) s = .next s)
  ∧ (∀ s p h t, p < 18 → portUp (s.port p) = true → (s.port p).buf = h :: t → ((s.port p).stale = true ∨ (s.port p).ackTime + 2 * max 1 (bits (mreg s 0x110C) 0 16) ≤ s.now) →
    (∀ x ∈ h :: t, x.resent < max 1 (bits (mreg s 0x110C) 16 8)) →
    ∃ u, exec (.linkResend p) s = .next u ∧ (u.port p).wireOut = (s.port p).wireOut ++ (h :: t).map (fun x => x.image)
      ∧ (u.port p).buf = (h :: t).map (fun x => { x with resent := x.resent + (if markerHeld (s.port p) = true then 0 else 1) }) ∧ (u.port p).stale = false ∧ (u.port p).ackTime = s.now
      ∧ (u.port p).keys = (s.port p).keys ∧ (u.port p).resend = min 65535 ((s.port p).resend + 1) ∧ { u with ports := s.ports } = s)
  ∧ (∀ s p, p < 18 → portUp (s.port p) = true → (s.port p).buf ≠ [] → ((s.port p).stale = true ∨ (s.port p).ackTime + 2 * max 1 (bits (mreg s 0x110C) 0 16) ≤ s.now) →
    (∃ x ∈ (s.port p).buf, max 1 (bits (mreg s 0x110C) 16 8) ≤ x.resent) → ∀ h t, (s.port p).buf = h :: t →
    exec (.linkResend p) s = .next (nodeRecord (s.setPort p { s.port p with state := 2 }) (dieOfPort p) 0x11 (wd p) (if (s.port p).authBad = true then 3 else 2) (wd h.flit.lseq)))
  ∧ (∀ x, ((∀ h ∈ x.buf, isMarker h.flit = false) → markerHeld x = false) ∧ (∀ h t, x.buf = h :: t → isMarker h.flit = true → markerHeld x = true)
      ∧ (∀ h l m t, x.buf = h :: l ++ m :: t → isMarker h.flit = false → isMarker m.flit = true → (∀ q ∈ l, q.flit.kind = 1) → wholePacket ((h :: l).map (fun q => q.flit)) = false → markerHeld x = true))
  ∧ (∀ s p, (s.port p).buf = [] ∨ ((s.port p).stale = false ∧ s.now < (s.port p).ackTime + 2 * max 1 (bits (mreg s 0x110C) 0 16)) → exec (.linkResend p) s = .next s)
  ∧ (∀ s p n, p < 18 → 0 < n → n < (s.port p).lanes → (s.port p).state = 0 →
    ∃ u, exec (.laneFailure p n) s = .next u ∧ (u.port p).state = 1 ∧ (u.port p).lanes = (s.port p).lanes - n ∧ (u.port p).width = max (bits (s.port p).ctl 0 2) (widthCode ((s.port p).lanes - n))
      ∧ ((s.port p).width < (u.port p).width → (u.port p).narrow = min 65535 ((s.port p).narrow + 1)) ∧ (u.port p).buf = (s.port p).buf
      ∧ (u.port p).rxq = (s.port p).rxq ∧ (u.port p).trainOut.abort = decide (0 < (s.port p).part) ∧ (u.port p).trainOut.restart = false ∧ (u.port p).again = min (s.port p).buf.length (partFlits (s.port p))
      ∧ (u.port p).retrainBy = s.now + 4000 ∧ { u with ports := s.ports } = s)
  ∧ (∀ s p n, p < 18 → 0 < n → 0 < (s.port p).lanes → (s.port p).lanes ≤ n → (s.port p).state < 2 → ∃ u, exec (.laneFailure p n) s = .next u ∧ (u.port p).state = 2 ∧ (u.port p).lanes = 0
      ∧ ∃ t, u = nodeRecord t (dieOfPort p) 0x11 (wd p) 1 (wd (oldestLseq (s.port p))))
  ∧ (∀ x, x.part = 0 → partFlits x = 0)
  ∧ (∀ x l h t, 0 < x.part → x.buf = l ++ h :: t → h.flit.kind = 0 → (∀ q ∈ t, q.flit.kind ≠ 0) → partFlits x = t.length + 1)
  ∧ (∀ s p, p < 18 → (s.port p).state = 1 → (s.port p).trainIn.trains = true → ∃ u, exec (.retrainComplete p) s = .next u ∧ (u.port p).state = 0 ∧ (u.port p).trainIn = ⟨false, false, true⟩
      ∧ (u.port p).trainOut = ⟨false, false, true⟩ ∧ { u with ports := s.ports } = s
      ∧ ((s.port p).trainIn.restart = true → (u.port p).buf = [] ∧ (u.port p).rxq = [] ∧ (u.port p).lseq = 0 ∧ (u.port p).expect = 0 ∧ (u.port p).lack = 0 ∧ (u.port p).wireOut = (s.port p).wireOut ∧ (u.port p).keys = (s.port p).keys)
      ∧ ((s.port p).trainIn.restart = false → (s.port p).trainIn.abort = true → wholePacket (s.port p).rxq = false → ∀ f t, (s.port p).rxq = f :: t → (u.port p).rxq = [] ∧ (u.port p).expect = f.lseq
          ∧ (u.port p).rxs = f.slot ∧ (u.port p).buf = (s.port p).buf
          ∧ (f.slot = (s.port p).rxs → (slotKey (u.port p) f.slot).rx = (slotKey (s.port p) f.slot).rx - ((s.port p).expect + 2 ^ 24 - f.lseq) % 2 ^ 24)))
  ∧ (∀ s p, p < 18 → (s.port p).state = 1 → (s.port p).trainIn.trains = false → 3 ≤ max (bits (s.port p).ctl 0 2) (widthCode (s.port p).lanes) →
    ∃ u, exec (.retrainComplete p) s = .next u ∧ (u.port p).state = 2 ∧ ∃ t, u = nodeRecord t (dieOfPort p) 0x11 (wd p) 1 (wd (oldestLseq (s.port p))))
  ∧ (∀ s p w, p < 18 → (s.port p).state = 1 → (s.port p).trainIn.trains = false → w = max (bits (s.port p).ctl 0 2) (widthCode (s.port p).lanes) → w < 3 →
    ∃ u, exec (.retrainComplete p) s = .next u ∧ (u.port p).state = 1 ∧ (u.port p).width = w + 1 ∧ (u.port p).rwidth = w + 1 ∧ (u.port p).narrow = min 65535 ((s.port p).narrow + 1) ∧ (u.port p).retrainBy = s.now + 4000
      ∧ (u.port p).buf = (s.port p).buf ∧ (u.port p).rxq = (s.port p).rxq ∧ { u with ports := s.ports } = s)
  ∧ (∀ s p, p < 18 → (s.port p).state = 1 → (s.port p).trainIn.trains = true → (s.port p).trainIn.restart = false → (s.port p).trainIn.abort = false →
    ∃ u, exec (.retrainComplete p) s = .next u ∧ (u.port p).buf = (s.port p).buf ∧ (u.port p).keys = (s.port p).keys ∧ (u.port p).rxq = (s.port p).rxq
      ∧ (u.port p).wireOut = (s.port p).wireOut ++ ((s.port p).buf.drop ((s.port p).buf.length - (s.port p).again)).map (fun h => h.image))
  ∧ (∀ s p n, p < 18 → (s.port p).state = 0 → bit (s.port p).ctl 63 = true → (s.port p).trainIn.restart = true → 0 < n → ∃ u, exec (.lanesReturn p n) s = .next u ∧ (u.port p).state = 1
      ∧ (u.port p).retrainBy = s.now + 4000 ∧ (u.port p).trainOut.abort = decide (0 < (s.port p).part) ∧ (u.port p).buf = (s.port p).buf ∧ { u with ports := s.ports } = s)
  ∧ (∀ s p n, p < 18 → 0 < n → (s.port p).state = 2 → bit (s.port p).ctl 63 = true →
    ∃ u, exec (.lanesReturn p n) s = .next u ∧ (u.port p).state = 1 ∧ (u.port p).again = (s.port p).buf.length ∧ (u.port p).buf.map (fun h => (h.flit, h.image)) = (s.port p).buf.map (fun h => (h.flit, h.image)) ∧ { u with ports := s.ports } = s)
  ∧ (∀ s p w, OneWrite s w → p < 18 → w.reg = 0x1120 + p → bit w.val 63 = false → bit (s.port p).ctl 63 = true →
    ∃ u, exec (.portDisable p) s = .next u ∧ (u.port p).state = 3 ∧ (u.port p).buf = [] ∧ (u.port p).rxq = [] ∧ bit (u.port p).ctl 63 = false ∧ (u.port p).txq = (s.port p).txq ∧ (u.port p).keys = (s.port p).keys
      ∧ u.writes = [{ w with taken := true }] ∧ { u with ports := s.ports, writes := s.writes } = s)
  ∧ (∀ s p w, OneWrite s w → p < 18 → w.reg = 0x1120 + p → bit w.val 63 = true → bit (s.port p).ctl 63 = false → 0 < (s.port p).lanes →
    ∃ u, exec (.portEnable p) s = .next u ∧ (u.port p).state = 1 ∧ (u.port p).lseq = 0 ∧ (u.port p).expect = 0 ∧ (u.port p).lack = 0 ∧ (u.port p).buf = [] ∧ (u.port p).trainOut.restart = true ∧ bit (u.port p).ctl 63 = true
      ∧ (u.port p).keys = (s.port p).keys ∧ u.writes = [{ w with taken := true }])
  ∧ (∀ s p, p < 18 → portUp (s.port p) = true → ∃ u, exec (.portWidthChange p) s = .next u
      ∧ (u.port p).width = (if (s.port p).part = 0 then max (bits (s.port p).ctl 0 2) (widthCode (s.port p).lanes) else (s.port p).width)
      ∧ (u.port p).rwidth = (if (s.port p).rxq = [] ∨ wholePacket (s.port p).rxq = true then max (bits (s.port p).ctl 0 2) (widthCode (s.port p).lanes) else (s.port p).rwidth)
      ∧ { u.port p with width := (s.port p).width, rwidth := (s.port p).rwidth } = s.port p ∧ { u with ports := s.ports } = s)
  ∧ (∀ s p, portUp (s.port p) = false → exec (.portWidthChange p) s = .next s)
  ∧ (∀ s p, p < 18 → bit (s.port p).ctl 63 = true → (s.port p).state ≠ 3 →
      (s.podtime.toNat - (s.port p).msRecv.toNat ≤ bits (mreg s 0x1102) 32 32 → exec (.milestoneStall p) s = .next (s.setPort p { s.port p with episode := false }))
      ∧ (bits (mreg s 0x1102) 32 32 < s.podtime.toNat - (s.port p).msRecv.toNat → (s.port p).episode = true → exec (.milestoneStall p) s = .next s)
      ∧ (bits (mreg s 0x1102) 32 32 < s.podtime.toNat - (s.port p).msRecv.toNat → (s.port p).episode = false →
          exec (.milestoneStall p) s = .next (nodeRecord (s.setPort p { s.port p with episode := true }) (dieOfPort p) 0x10 (wd p) (wd (s.podtime.toNat - (s.port p).msRecv.toNat)) (s.port p).msRecv)))

/-- R303, R331 to R336, R339, R340, R446 to R448: a packet that comes next in CSEQ order applies once and is owed an acknowledgement; one out of order waits; a duplicate changes no memory; an acknowledgement names what has applied; a packet
that is not acknowledged is sent again with its CSEQ, and after CRMAX resends its connection is lost and starts afresh, what needs it being stopped in running and in halted gangs; a packet of a connection that the peer has started afresh comes first in it; ordered packets are delivered in the order of their keys, each once every milestone has passed its stamp; a contribution at
HOME counts once in its element, and one beyond NCON waits for the next round.
The field placements in packets and the order of acknowledgements of ordered packets are the model's choice, log 13. -/
def Obligations.ConnectionsAndDelivery : Prop :=
  (∀ s k, k.cls = 0 → k.ty = 0 → k.aux = 0 → (s.conn k.src).retry = [] → (s.conn k.src).early = [] →
      ((k.epoch = (s.conn k.src).epoch ∧ (s.conn k.src).recv = k.cseq) ∨ ((s.conn k.src).epoch < k.epoch ∧ k.cseq = 0 ∧ ∀ r ∈ s.reads, r.node ≠ k.src)) → k.cseq < 2 ^ 32 → (s.conn k.src).bad = false → waitsEffect s k.src = false → bit k.addr 63 = false → k.src ∈ s.resident →
    sliceRefused s k (k.addr.toNat % 2 ^ 30) k.data.length = none → s.selfq = [k] →
    ∃ u, exec (.packetReceive 18) s = .next u ∧ u.selfq = [] ∧ (u.conn k.src).recv = (k.cseq + 1) % 2 ^ 32 ∧ (u.conn k.src).epoch = k.epoch ∧ (u.conn k.src).ackDue.isSome = true ∧ (u.conn k.src).early = []
      ∧ (∀ a, memGet u.mem a = if 2 ^ 60 + k.addr.toNat % 2 ^ 30 ≤ a ∧ a < 2 ^ 60 + k.addr.toNat % 2 ^ 30 + k.data.length then byteAt k.data (a - (2 ^ 60 + k.addr.toNat % 2 ^ 30)) else memGet s.mem a))
  ∧ (∀ s k, k.ty ≠ 10 → (s.conn k.src).retry = [] → k.epoch ≤ (s.conn k.src).epoch → 2 ^ 31 ≤ (k.cseq + 2 ^ 32 - (s.conn k.src).recv) % 2 ^ 32 → (s.conn k.src).bad = false → k.src ∈ s.resident → s.selfq = [k] →
    ∃ u, exec (.packetReceive 18) s = .next u ∧ (u.conn k.src).recv = (s.conn k.src).recv ∧ (u.conn k.src).ackDue.isSome = true ∧ MemSame s u ∧ u.cells = s.cells ∧ u.dies = s.dies)
  ∧ (∀ s k, k.ty ≠ 10 → (s.conn k.src).retry = [] → (s.conn k.src).early = [] → k.epoch = (s.conn k.src).epoch → (s.conn k.src).recv < 2 ^ 32 →
      ((0 < (k.cseq + 2 ^ 32 - (s.conn k.src).recv) % 2 ^ 32 ∧ (k.cseq + 2 ^ 32 - (s.conn k.src).recv) % 2 ^ 32 < 2 ^ 31) ∨ (k.cseq = (s.conn k.src).recv ∧ k.ty = 0 ∧ k.cls = 0 ∧ bit k.addr 63 = true)) →
      (s.conn k.src).bad = false → k.src ∈ s.resident → s.selfq = [k] →
    ∃ u, exec (.packetReceive 18) s = .next u ∧ (u.conn k.src).recv = (s.conn k.src).recv ∧ (u.conn k.src).early = [k] ∧ (u.conn k.src).ackDue = (s.conn k.src).ackDue ∧ MemSame s u ∧ u.cells = s.cells ∧ u.dies = s.dies)
  ∧ (∀ s, s.selfq = [] → exec (.packetReceive 18) s = .next s)
  ∧ (∀ s k, k.ty = 1 → sliceRefused s k (k.addr.toNat % 2 ^ 30) k.data.length = none →
      effect s k = owe (eventSignal (effectNow s { k with ty := 0 }) (dieOf s (k.addr.toNat % 2 ^ 30 / 2 ^ 21)) (bits k.aux 0 16)) k.src)
  ∧ (∀ s n, s.resident.length ≤ 1024 → ∃ l, (touchConn s n).resident = n :: l ∧ l.length < 1024 ∧ ∀ m ∈ s.resident, m ≠ n → m ∈ l ∨ s.resident.getLast? = some m)
  ∧ (∀ s p a st jb, Fits p → p.dst ∈ s.resident → copyPlace s (copyLines p) = some a → (s.conn p.dst).send < 2 ^ 32 → (s.conn p.dst).epoch < 2 ^ 21 →
    ∃ r, ((sendNow s p st jb).conn p.dst).retry = (s.conn p.dst).retry ++ [r] ∧ r.pkt = { p with src := selfNode s, cseq := (s.conn p.dst).send, cack := ackOf s p.dst, epoch := (s.conn p.dst).epoch } ∧ r.place = a ∧ r.store = st ∧ r.job = jb
      ∧ ((sendNow s p st jb).conn p.dst).send = ((s.conn p.dst).send + 1) % 2 ^ 32 ∧ copyOf (sendNow s p st jb) r = r.pkt)
  ∧ (∀ s n, (s.conn n).ackDue = none → exec (.connectionAck n) s = .next s)
  ∧ (∀ s n q, (s.conn n).ackDue ≠ none → n ≠ selfNode s → (n ∈ s.resident ∨ s.resident.length < 1024) → route s n = some q →
    ∃ u k, exec (.connectionAck n) s = .next u ∧ (u.conn n).ackDue = none ∧ (u.port q).txq = (s.port q).txq ++ [k] ∧ k.ty = 10 ∧ k.dst = n ∧ k.src = selfNode s ∧ k.cack = ackOf s n ∧ k.data = []
      ∧ (u.conn n).send = (s.conn n).send ∧ MemSame s u)
  ∧ (∀ s n i r q, (s.conn n).retry[i]? = some r → n ≠ selfNode s → n ∈ s.resident → (s.conn n).bad = false → r.sent + 2 * bits (mreg s 0x110D) 0 32 ≤ s.now → r.times < max 1 (bits (mreg s 0x110D) 40 8) → retryPoisoned s r = false →
      (copyOf s r).cls = 0 → (copyOf s r).dst = n → route s n = some q →
    ∃ u, exec (.connectionResend n i) s = .next u ∧ (u.port q).txq = (s.port q).txq ++ [{ copyOf s r with cack := ackOf s n }] ∧ (u.conn n).retry.length = (s.conn n).retry.length
      ∧ ⟨{ copyOf s r with cack := ackOf s n }, s.now, r.times + 1, r.store, r.job, r.place⟩ ∈ (u.conn n).retry ∧ (u.conn n).send = (s.conn n).send ∧ MemSame s u)
  ∧ (∀ s n i r, (s.conn n).retry[i]? = some r → n ≠ selfNode s → n ∈ s.resident → (s.conn n).bad = false → s.now < r.sent + 2 * bits (mreg s 0x110D) 0 32 → exec (.connectionResend n i) s = .next s)
  ∧ (∀ s n i r, (s.conn n).retry[i]? = some r → n ≠ selfNode s →
      ((s.conn n).bad = true → exec (.connectionResend n i) s = .next (loseConn (touchConn s n) n 3))
      ∧ (n ∉ s.resident → poisoned s (bits (mreg s 0x1104) 0 48 + 128 * n) 128 = true → exec (.connectionResend n i) s = .next (loseConn (touchConn s n) n 3))
      ∧ (n ∈ s.resident → (s.conn n).bad = false → r.sent + 2 * bits (mreg s 0x110D) 0 32 ≤ s.now → max 1 (bits (mreg s 0x110D) 40 8) ≤ r.times → exec (.connectionResend n i) s = .next (loseConn (touchConn s n) n 1))
      ∧ (n ∈ s.resident → (s.conn n).bad = false → r.sent + 2 * bits (mreg s 0x110D) 0 32 ≤ s.now → r.times < max 1 (bits (mreg s 0x110D) 40 8) → retryPoisoned s r = true → exec (.connectionResend n i) s = .next (loseConn (touchConn s n) n 2)))
  ∧ (∀ s n k, bit (mreg s 0x1306) 63 = false → (loseConn s n k).conn n = { Conn.reset with epoch := (s.conn n).epoch + 1 } ∧ (loseConn s n k).reads = s.reads.filter (fun r => r.node != n) ∧ ∀ m, m ≠ n → (loseConn s n k).conn m = s.conn m)
  ∧ (∀ s n k c j a, j ∈ (s.cell c).jobs → a ∈ j.acks → a.1 = n → ∃ i ∈ ((loseConn s n k).cell c).jobs, i.dpos = j.dpos ∧ i.lost = true)
  ∧ (∀ s n k g p j a, g ∈ s.gangs → g.run = .halted → p ∈ g.saved → j ∈ p.2.jobs → a ∈ j.acks → a.1 = n → ∃ h ∈ (loseConn s n k).gangs, h.first = g.first ∧ h.run = .halted ∧ h.norst = true)
  ∧ (∀ s p, firstOrdered s = some p → p ∈ s.ordered ∧ ∀ q ∈ s.ordered, keyLe (keyOf p.2) (keyOf q.2) = true)
  ∧ (∀ s, floorMs s ≤ s.podtime.toNat ∧ (∀ p ∈ inputs s, floorMs s ≤ (s.port p).msRecv.toNat) ∧ (∀ m ∈ heldStamps s, floorMs s ≤ m))
  ∧ (∀ s p, firstOrdered s = some p → p.1 < s.now → p.2.stamp.toNat < floorMs s → (∀ q ∈ s.selfq, q.cls = 1 → keyLe (keyOf q) (keyOf p.2) = false) → (∀ c ∈ s.conns, ∀ q ∈ c.2.early, q.cls = 1 → keyLe (keyOf q) (keyOf p.2) = false) →
      (∀ c ∈ s.clusters, ∀ b ∈ c.2.blocks, ∀ x, b.src = some x → x.2.2 ≠ 1) →
    exec .orderedDelivery s = .next (effect { s with ordered := s.ordered.erase p, delivered := some (keyOf p.2) } p.2))
  ∧ (∀ s, (s.ordered = [] ∨ ∃ p, firstOrdered s = some p ∧ (s.now ≤ p.1 ∨ floorMs s ≤ p.2.stamp.toNat ∨ (∃ q ∈ s.selfq, q.cls = 1 ∧ keyLe (keyOf q) (keyOf p.2) = true)
        ∨ (∃ c ∈ s.conns, ∃ q ∈ c.2.early, q.cls = 1 ∧ keyLe (keyOf q) (keyOf p.2) = true) ∨ (∃ c ∈ s.clusters, ∃ b ∈ c.2.blocks, ∃ x, b.src = some x ∧ x.2.2 = 1))) → exec .orderedDelivery s = .next s)
  ∧ (∀ s d o v, (Tab.get ⟨0, 0⟩ s.redux (redBuf (redDesc s d) + o)).count < redCount (redDesc s d) →
      (Tab.get ⟨0, 0⟩ (redTake s d o v).redux (redBuf (redDesc s d) + o)).count = (Tab.get ⟨0, 0⟩ s.redux (redBuf (redDesc s d) + o)).count + 1 ∧ (redTake s d o v).redHeld = s.redHeld
      ∧ (0 < (Tab.get ⟨0, 0⟩ s.redux (redBuf (redDesc s d) + o)).count → redType (redDesc s d) = 2 → redOp (redDesc s d) = 0 →
          (Tab.get ⟨0, 0⟩ (redTake s d o v).redux (redBuf (redDesc s d) + o)).acc = wd (((Tab.get ⟨0, 0⟩ s.redux (redBuf (redDesc s d) + o)).acc.toNat + v) % 2 ^ 32)))
  ∧ (∀ s d o v, redCount (redDesc s d) ≤ (Tab.get ⟨0, 0⟩ s.redux (redBuf (redDesc s d) + o)).count → redTake s d o v = { s with redHeld := s.redHeld ++ [(d, o, v)] })

/-- R303, R326, R329, R330, R338, R343, R452: a TYPE 6 packet of an enabled host writes a queue's tail and nothing else, TYPE 7 reads an open register, TYPE 8 reads this node's slice, each answered in a TYPE 9 packet that names the
request; other nodes and registers are refused and recorded; MASTER locks pod time unless a lower-numbered master is heard, and a lost lock is recorded; SLTCMD loads a die's slot tables, which take effect together in a slot-0 cycle; a flit of a
circuit enters the peer's channel when it has room, one in a slot, after each router of its circuit has carried it in the slot in which it passed.
The field placements in packets are the model's choice, log 13; how a timing word goes with a lantern log 22; the link delays and how the count is slewed log 37; the routers of a circuit and the time a flit takes log 67; that hosts count as enabled after boot log 63. -/
def Obligations.HostsTimeAndCircuits : Prop :=
  (∀ s i k, s.hostq[i]? = some k → k.ty = 6 → hostEnabled s k.src = true → 0x4C0 ≤ bits k.addr 0 13 → bits k.addr 0 13 < 0x500 → (s.conn k.src).early = [] →
    ∃ u, exec (.hostRegisterWrite i) s = .next u ∧ u.hostq = s.hostq.erase k ∧ (u.conn k.src).ackDue.isSome = true
      ∧ (∀ n, qtail (u.die (bits k.addr 14 2)) n = qtail ((takeTail s (bits k.addr 14 2) (bits k.addr 0 13 - 0x4C0) (leNat (k.data.take 8) % 2 ^ 16) k.src).die (bits k.addr 14 2)) n))
  ∧ (∀ s i k, s.hostq[i]? = some k → k.ty = 6 → (s.conn k.src).early = [] → (hostEnabled s k.src = false ∨ bits k.addr 0 13 < 0x4C0 ∨ 0x500 ≤ bits k.addr 0 13) →
    ∃ u, exec (.hostRegisterWrite i) s = .next u ∧ u.hostq = s.hostq.erase k ∧ (∀ d n, qtail (u.die d) n = qtail (s.die d) n)
      ∧ u = owe { hostRefused s k (if hostEnabled s k.src then 1 else 0) with hostq := s.hostq.erase k } k.src)
  ∧ (∀ s i k q, s.hostq[i]? = some k → k.ty = q → q ≠ 6 → exec (.hostRegisterWrite i) s = .next s)
  ∧ (∀ s i, s.hostq[i]? = none → exec (.hostRegisterWrite i) s = .next s ∧ exec (.hostRegisterRead i) s = .next s ∧ exec (.readRequest i) s = .next s)
  ∧ (∀ s i k v, s.hostq[i]? = some k → k.ty = 7 → hostEnabled s k.src = true → hostRead s k = some v → canSend s k.src = true → (∀ p ∈ s.sendq, p.dst ≠ k.src) → (s.conn k.src).early = [] →
    ∃ u p, exec (.hostRegisterRead i) s = .next u ∧ u.hostq = s.hostq.erase k ∧ (u.conn k.src).retry.map (fun r => (r.pkt, r.sent, r.times)) = (s.conn k.src).retry.map (fun r => (r.pkt, r.sent, r.times)) ++ [(p, s.now, 0)]
      ∧ p.ty = 9 ∧ p.cls = 0 ∧ p.dst = k.src ∧ p.src = selfNode s ∧ p.cseq = (s.conn k.src).send ∧ p.addr = wd (k.cseq % 2 ^ 32) ∧ p.aux = 0 ∧ p.data = wordBytes v)
  ∧ (∀ s k, (0x480 ≤ bits k.addr 0 13 → bits k.addr 0 13 < 0x4C0 → hostRead s k = some (readDie s (bits k.addr 14 2) (bits k.addr 0 13))) ∧ (bits k.addr 0 13 = 6 → hostRead s k = some s.podtime)
      ∧ (0x1200 ≤ bits k.addr 0 13 → bits k.addr 0 13 < 0x1240 → hostRead s k = some (capWord s (bits k.addr 0 13 - 0x1200)))
      ∧ (bits k.addr 0 13 ≠ 6 → (bits k.addr 0 13 < 0x480 ∨ (0x4C0 ≤ bits k.addr 0 13 ∧ bits k.addr 0 13 < 0x1200) ∨ 0x1240 ≤ bits k.addr 0 13) → hostRead s k = none))
  ∧ (∀ s i k, s.hostq[i]? = some k → k.ty = 8 → bits k.addr 32 13 ≤ 4096 → sliceRefused s k (k.addr.toNat % 2 ^ 30) (bits k.addr 32 13) = none → (k.src ≠ selfNode s ∨ s.reads = []) → s.poison = [] → s.latent = [] → canSend s k.src = true → (∀ p ∈ s.sendq, p.dst ≠ k.src) →
      (s.conn k.src).early = [] →
    ∃ u p, exec (.readRequest i) s = .next u ∧ u.hostq = s.hostq.erase k ∧ (u.conn k.src).retry.map (fun r => (r.pkt, r.sent, r.times)) = (s.conn k.src).retry.map (fun r => (r.pkt, r.sent, r.times)) ++ [(p, s.now, 0)]
      ∧ p.ty = 9 ∧ p.dst = k.src ∧ p.addr = wd (k.cseq % 2 ^ 32) ∧ p.aux = 0 ∧ p.data = rd s (2 ^ 60 + k.addr.toNat % 2 ^ 30) (bits k.addr 32 13))
  ∧ (∀ s w, OneWrite s w → w.reg = 0x1101 → bit w.val 0 = true → bit (mreg s 0x1101) 0 = false →
      (hearsLower s = false → ∃ u, exec .timeMasterSet s = .next u ∧ u.locked = true ∧ bit (mreg u 0x1101) 0 = true ∧ u.writes = [{ w with taken := true }] ∧ MemSame s u)
      ∧ (hearsLower s = true → ∃ u, exec .timeMasterSet s = .next u ∧ u.locked = false ∧ bit (mreg u 0x1101) 0 = true))
  ∧ (∀ s, s.locked = true → bit (mreg s 0x1101) 0 = false → exec .lockLost s = .next (nodeRecord { s with heard := none, locked := false } 0 0x16 0 0 s.podtime))
  ∧ (∀ s, s.locked = false → bit (mreg s 0x1101) 0 = false → exec .lockLost s = .next { s with heard := none })
  ∧ (∀ s, bit (mreg s 0x1101) 0 = true → (s.locked = true → hearsLower s = true → exec .lockLost s = .next (nodeRecord { s with locked := false } 0 0x16 0 0 s.podtime))
      ∧ ((s.locked = false ∨ hearsLower s = false) → exec .lockLost s = .next s))
  ∧ (∀ s m, (s.heard = some m → m < selfNode s → hearsLower s = true) ∧ (s.heard = none → hearsLower s = false) ∧ (bit (mreg s 0x1101) 0 = true → hearsLower s = false → timingWord s = some (selfNode s, s.podtime))
      ∧ (bit (mreg s 0x1101) 0 = true → hearsLower s = true → timingWord s = none) ∧ (bit (mreg s 0x1101) 0 = false → s.heard = some m → timingWord s = some (m, s.podtime)))
  ∧ (∀ s p m t h, bit (mreg s 0x1101) 0 = false → s.heard = some h → h < m → hear s p (some (m, t)) = s)
  ∧ (∀ s p m t d, bit (mreg s 0x1101) 0 = false → m ≠ selfNode s → (∀ h, s.heard = some h → m ≤ h) → (t + wd (Config.linkDelay p) - s.podtime).toInt = d →
      (hear s p (some (m, t))).heard = some m ∧ (hear s p (some (m, t))).locked = decide (-32 ≤ d ∧ d ≤ 32) ∧ (hear s p (some (m, t))).podtime = s.podtime
      ∧ ((d = 0 ∨ s.now < s.slewAt + 4096) → (hear s p (some (m, t))).slew = s.slew ∧ (hear s p (some (m, t))).slewAt = s.slewAt)
      ∧ (d ≠ 0 → s.slewAt + 4096 ≤ s.now → (hear s p (some (m, t))).slew = some (decide (0 < d)) ∧ (hear s p (some (m, t))).slewAt = s.now))
  ∧ (∀ s p m t, bit (mreg s 0x1101) 0 = true → (selfNode s < m → hear s p (some (m, t)) = s)
      ∧ (m < selfNode s → s.heard = none → s.locked = false → hear s p (some (m, t)) = nodeRecord { s with heard := some m } 0 0x17 (wd m) 0 s.podtime))
  ∧ (∀ s p, hear s p none = s)
  ∧ (∀ s d w, OneWrite s w → w.reg = 0x206 → w.unit = d → bit w.val 0 = true →
    ∃ u t, exec (.slotTableLoad d) s = .next u ∧ (u.die d).newSlots = some ((s.now / 512 + 1) * 512, t) ∧ (u.die d).slots = (s.die d).slots ∧ u.writes = [{ w with taken := true }] ∧ MemSame s u
      ∧ (∀ r e, r < 40 → e < 256 → Tab.get 0 t (256 * r + e) = BitVec.ofNat 32 (leNat (((devRead s (bits (dreg s d 0x205) 0 48) 40960).drop (4 * (256 * r + e))).take 4))))
  ∧ (∀ s d t, d < 4 → (s.die d).newSlots = some t → (t.1 ≤ s.now → exec (.slotTableSwitch d) s = .next (s.setDie d { s.die d with slots := t.2, newSlots := none }))
      ∧ (s.now < t.1 → exec (.slotTableSwitch d) s = .next s))
  ∧ (∀ s d, (s.die d).newSlots = none → exec (.slotTableSwitch d) s = .next s)
  ∧ (∀ s c n f m, s.netq.find? (fun q => q.cell = c && q.chan = n) = some f → portChan (s.cell f.peer) f.port true = some m → ((s.cell f.peer).chan m).q.length < 4 → circuitOpen s f = true →
    ∃ u, exec (.networkFlitArrive c n) s = .next u ∧ u.netq = s.netq.erase f ∧ ((u.cell f.peer).chan m).q.map (fun q => q.val) = ((s.cell f.peer).chan m).q.map (fun q => q.val) ++ [some f.val]
      ∧ Tab.look (u.cell f.peer).netAt f.port = some (s.now / 2) ∧ (∀ k, k ≠ m → (u.cell f.peer).chan k = (s.cell f.peer).chan k) ∧ (∀ k, k ≠ f.peer → u.cell k = s.cell k) ∧ { u with cells := s.cells, netq := s.netq } = s)
  ∧ (∀ s c n f m, s.netq.find? (fun q => q.cell = c && q.chan = n) = some f → portChan (s.cell f.peer) f.port true = some m → (4 ≤ ((s.cell f.peer).chan m).q.length ∨ circuitOpen s f = false) → exec (.networkFlitArrive c n) s = .next s)
  ∧ (∀ s f, circuitOpen s f = true ↔ Tab.look (s.cell f.peer).netAt f.port ≠ some (s.now / 2) ∧ ∀ i h, i < 40 → (Config.circuit f.peer f.port)[i]? = some h →
      (Tab.get 0 (s.die (dieOf s f.peer)).slots (256 * (h.router % 40) + (s.now / 2 + 256 - i) % 256)).toNat / 2 ^ (4 * (h.output % 6)) % 16 = h.input % 6)

/-- R5, R346, R350 to R356, R375: boot runs only a verified image, measures it, numbers the clusters that the deconfiguration record leaves, loads the link keys, and sets DONE once pod time is locked or 10 s have passed; an idle cluster is
gated; a die enters Retention once nothing of it runs or is served and the accesses of its memory that were checked before are over (log 40), and its scratchpads read 0 afterwards; MARGIN and the array's clock limit follow the guard-bands and the cap, and the guard-bands the monitors; a trip or a rail fault halts
the die's gangs; a deconfiguration request never takes a die's last cluster; wear records are appended and chained until the log is full; a report is written once it is asked for.
The image, the sensors and the wear log's storage are inputs, log 7; digests and the signature log 8; a RET set while some queue has EN 1 takes effect once every EN is 0, log 66; a report that cannot be written log 38; a guard-band above 255 mV in CLWEAR log 66; which gangs a trip or a rail fault halts log 39. -/
def Obligations.BootPowerAndWear : Prop :=
  (∀ s, s.booted = false → s.bootStep = 0 → xmssVerify (hashBytes s.fuses.vendor.root) (hashBytes s.fuses.vendor.seed) s.flash.fw.image s.flash.fw.sig = true → s.fuses.minVersion.toNat ≤ s.flash.fw.version.toNat →
    ∃ u, exec .boot s = .next u ∧ u.bootStep = 5 ∧ u.booted = false ∧ u.bootAt = s.now ∧ u.meas = BitVec.ofNat 256 (leNat (shake256 s.flash.fw.image))
      ∧ u.configured = (List.range 128).filter (fun p => !s.flash.deconf.contains p) ∧ Tab.get none u.keySlots 0 = some s.flash.memkey0 ∧ (s.flash.master = selfNode s → u.locked = true)
      ∧ (∀ p k, p < 18 → Tab.look s.flash.keys p = some k → s.flash.fitted.toNat / 2 ^ p % 2 = 1 →
          slotKey (u.port p) 0 = { k with loaded := true, tx := 0, rx := 0, sealed := false } ∧ (slotKey (u.port p) 1).loaded = false ∧ (u.port p).txs = 0)
      ∧ (∀ p, p < 18 → Tab.look s.flash.keys p = none → bit (u.port p).ctl 63 = false))
  ∧ (∀ s, s.booted = false → s.bootStep = 0 → (xmssVerify (hashBytes s.fuses.vendor.root) (hashBytes s.fuses.vendor.seed) s.flash.fw.image s.flash.fw.sig = false ∨ s.flash.fw.version.toNat < s.fuses.minVersion.toNat) → exec .boot s = .next s)
  ∧ (∀ s, s.booted = true → exec .boot s = .next s)
  ∧ (∀ s, s.booted = false → s.bootStep = 5 → s.locked = true →
    ∃ u, exec .boot s = .next u ∧ u.booted = true ∧ u.bootStep = 6 ∧ (∀ d, d < 4 → (u.die d).ik.running = true ∧ (u.die d).ik.pc = s.flash.fw.entry) ∧ MemSame s u)
  ∧ (∀ s, s.booted = false → s.bootStep = 5 → s.locked = false → exec .boot s = .next s
      ∧ (s.bootAt + 40000000000 ≤ s.now → ∃ u, exec .bootLockTimeout s = .next u ∧ u.booted = true ∧ u.locked = false ∧ ∀ d, d < 4 → (u.die d).ik.running = true ∧ (u.die d).ik.pc = s.flash.fw.entry)
      ∧ (s.now < s.bootAt + 40000000000 → exec .bootLockTimeout s = .next s))
  ∧ (∀ s l, s.booted = true → l < clusterCount s → (s.cluster l).gated = false → (∀ g ∈ s.gangs, g.run ≠ .halted → ∀ c ∈ g.cells, clusterOf c ≠ l) → (s.cluster l).idleFrom + 4096 ≤ s.now →
    exec (.clusterGate l) s = .next (s.setCluster l { s.cluster l with gated := true }))
  ∧ (∀ s l, ((∃ g ∈ s.gangs, g.run ≠ .halted ∧ ∃ c ∈ g.cells, clusterOf c = l) ∨ s.now < (s.cluster l).idleFrom + 4096) → exec (.clusterGate l) s = .next s)
  ∧ (∀ s d w, OneWrite s w → d < 4 → w.reg = 0x1301 → bit w.val (44 + d) = true → bit (mreg s 0x1301) (44 + d) = false →
    ∃ u, exec (.retentionRequest d) s = .next u ∧ bit (mreg u 0x1301) (44 + d) = true ∧ u.writes = [{ w with taken := true }] ∧ MemSame s u ∧ u.dies = s.dies)
  ∧ (∀ s d, d < 4 → (s.die d).retention = false → bit (mreg s 0x1301) (44 + d) = true → (∀ g ∈ s.gangs, g.die ≠ d) → reaches s d = false → (∀ q, q < 64 → bit (qcfgOf (s.die d) q) 7 = false) →
    exec (.retentionEntry d) s = .next (s.setDie d { s.die d with retention := true, ik := { (s.die d).ik with running := false } }))
  ∧ (∀ s d, (bit (mreg s 0x1301) (44 + d) = false ∨ (∃ g ∈ s.gangs, g.die = d) ∨ reaches s d = true ∨ (∃ q, q < 64 ∧ bit (qcfgOf (s.die d) q) 7 = true)) → exec (.retentionEntry d) s = .next s)
  ∧ (∀ s d, (∀ c ∈ s.cells, c.2.loads = [] ∧ (∀ q ∈ c.2.stores, q.applied = true) ∧ c.2.jobs = []) → (∀ p ∈ s.clusters, p.2.blocks = []) → reaches s d = false)
  ∧ (∀ s d c x l g a h, Tab.look s.cells c = some x → l ∈ x.loads → g ∈ l.accs → a ∈ g → a.loc = .home h → homeKind h ≠ 4 → homeDie s h = d → reaches s d = true)
  ∧ (∀ s d, d < 4 → (s.die d).retention = true → bit (mreg s 0x1301) (44 + d) = false →
    ∃ u, exec (.retentionExit d) s = .next u ∧ (u.die d).retention = false ∧ (∀ a, memGet u.mem a = if 2 ^ 48 ≤ a ∧ homeDie s a = d then 0 else memGet s.mem a)
      ∧ (∀ a ∈ u.poison, ¬ (2 ^ 48 ≤ a ∧ homeDie s a = d)) ∧ u.cells = s.cells ∧ u.regs = s.regs)
  ∧ (∀ s, s.now < s.powerAt + 4000000 → exec .powerControlTick s = .next s)
  ∧ (∀ s, s.powerAt + 4000000 ≤ s.now → ∃ u n, exec .powerControlTick s = .next u ∧ u.powerAt = s.now ∧ { u with regs := s.regs, powerAt := s.powerAt } = s ∧ n = bits (mreg u 0x1302) 0 3 ∧ n ≤ 4
      ∧ (80 ≤ gbSum s → bits (mreg u 0x1302) 16 16 = 60 + (gbSum s - 79) / 2)
      ∧ (∀ j, j < n → ((1050 * j : Nat) : Int) < 8 * ((gbSum s : Int) - 80) + 16 * (2350 - (min 2400 (bits (mreg s 0x1301) 0 12) : Nat)))
      ∧ (n < 4 → 8 * ((gbSum s : Int) - 80) + 16 * (2350 - (min 2400 (bits (mreg s 0x1301) 0 12) : Nat)) ≤ ((1050 * n : Nat) : Int)))
  ∧ (∀ s, (s.booted = false ∨ s.now < s.hourAt + 14400000000000) → exec .wearMonitorReading s = .next s)
  ∧ (∀ s, s.booted = true → s.hourAt + 14400000000000 ≤ s.now → (∀ l, l < clusterCount s → gbd s l ≤ 60) →
    ∃ u, exec .wearMonitorReading s = .next u ∧ u.hours = s.hours + 1 ∧ u.hourAt = s.now ∧ u.gangs = s.gangs ∧ (∀ d, d < 4 → dreg u d 0x207 = wd ((((clustersOfDie s d).filter (fun l => !(s.cluster l).stopped)).map (gbd s)).foldl max 0)) ∧ MemSame s u)
  ∧ (∀ s l, gbd s l = 20 + ((s.cluster l).delay + 499) / 500 ∧ readCluster (s.cluster l) 0x102 = wd (gbd s l % 256 * 2 ^ 24 + (s.cluster l).delay % 2 ^ 20))
  ∧ (∀ s l, (60 < gbd s l → gbd s l ≤ 72 → fenced s l = false → fenced (checkCluster s l) l = true ∧ (checkCluster s l).gangs = s.gangs)
      ∧ (72 < gbd s l → (s.cluster l).stopped = false → fenced (checkCluster s l) l = true ∧ ((checkCluster s l).cluster l).stopped = true
          ∧ ∀ g ∈ s.gangs, g.run = .running → (∃ c ∈ g.cells, clusterOf c = l) → ∃ h ∈ (checkCluster s l).gangs, h.first = g.first ∧ h.run = .halting ∧ h.norst = true)
      ∧ (72 < gbd s l → (s.cluster l).stopped = false → ∀ g ∈ s.gangs, g.run = .halted → (∃ c ∈ g.cells, clusterOf c = l) → { g with norst := true } ∈ (checkCluster s l).gangs))
  ∧ (∀ s d, d < 4 → (s.die d).tripped = false → (∀ g ∈ s.gangs, g.cells ≠ []) → ∃ u, exec (.temperatureTrip d) s = .next u ∧ (u.die d).tripped = true
      ∧ ∀ g ∈ s.gangs, g.die = d → g.run = .running → ∃ h ∈ u.gangs, h.first = g.first ∧ h.run = .halting ∧ ∃ r ∈ h.reports, r.cls = 0xD ∧ r.code = 3 ∧ r.rst = true)
  ∧ (∀ s d, (s.die d).tripped = true → exec (.temperatureTrip d) s = .next s)
  ∧ (∀ s d, d < 4 → exec (.temperatureClear d) s = .next (s.setDie d { s.die d with tripped := false }))
  ∧ (∀ s d, d < 4 → ∃ u, exec (.railFault d) s = .next u ∧ (∀ l, l < clusterCount s → dieOfCluster s l = d → (u.cluster l).stopped = true ∧ fenced u l = true)
      ∧ ∀ g ∈ s.gangs, g.die = d → g.run = .running → ∃ h ∈ u.gangs, h.first = g.first ∧ h.run = .halting ∧ h.norst = true)
  ∧ (∀ l p, (l.contains p = true → deconfWith l p = some l)
      ∧ (l.contains p = false → (∃ k, k < 32 ∧ 32 * (p / 32) + k ≠ p ∧ l.contains (32 * (p / 32) + k) = false) → deconfWith l p = some (l ++ [p]))
      ∧ (l.contains p = false → (∀ k, k < 32 → 32 * (p / 32) + k ≠ p → l.contains (32 * (p / 32) + k) = true) → deconfWith l p = none))
  ∧ (∀ s w, OneWrite s w → w.reg = 0x1303 → bit w.val 63 = true →
      (∀ l, deconfWith s.flash.deconf (bits w.val 0 7) = some l → ∃ u, exec .deconfRequest s = .next u ∧ u.flash.deconf = l ∧ bit (mreg u 0x1303) 62 = false ∧ u.configured = s.configured)
      ∧ (deconfWith s.flash.deconf (bits w.val 0 7) = none → ∃ u, exec .deconfRequest s = .next u ∧ u.flash = s.flash ∧ bit (mreg u 0x1303) 62 = true))
  ∧ (∀ s, s.booted = true → recordDue s = true → (s.flash.log.length < 131072 → exec .wearRecord s = .next { s with flash := { s.flash with log := s.flash.log ++ [wearBytes s] } })
      ∧ (131072 ≤ s.flash.log.length → exec .wearRecord s = .next { s with flash := { s.flash with live := wearBytes s } }))
  ∧ (∀ s, (s.booted = false ∨ recordDue s = false) → exec .wearRecord s = .next s)
  ∧ (∀ s, (wearBytes s).drop 32 = (match s.flash.log.getLast? with | some p => shake256 p | none => List.replicate 32 0)
      ∧ bits (wordAt (wearBytes s) 0) 0 32 = s.hours % 2 ^ 32 ∧ bits (wordAt (wearBytes s) 0) 32 32 = min 131072 s.flash.log.length)
  ∧ (∀ s, s.report = none → exec .attestationReport s = .next s)
  ∧ (∀ s a v, s.report = some (a, v) → ∃ u, exec .attestationReport s = .next u ∧ u.report = none ∧ mreg u 0x1304 = (v &&& ~~~ 255#64) ||| 1 ∧ s.fuses.leaf ≤ u.fuses.leaf ∧ u.fuses.leaf ≤ s.fuses.leaf + 1)
  ∧ (∀ s a v s1 s2 q w, s.report = some (a, v) → checkMany s a .S 1 false false [((v &&& ~~~ 255#64) + 8, 32)] = (s1, .ok q) → checkMany s1 a .S 1 true false (reportLines (v &&& ~~~ 255#64)) = (s2, .ok w) → s.fuses.leaf < 2 ^ 20 →
    ∃ u, exec .attestationReport s = .next u ∧ u.fuses.leaf = s.fuses.leaf + 1)

namespace Sys2Proof.Claims
open Sys2Proof.Machine

/-- The moment of a turn that waits `n` cycles. -/
def momentOf (s : State) (n : Nat) (m : Move) : Nat × Nat := turnMoment s (s.now + n) m

/-- The turn of `s` is that of an agent after `n` cycles, no dated event comes first, the agent may issue, and `s0` is the state in which it looks at its word. -/
def AgentTurn (s s0 : State) (c : Nat) (e : Engine) (n : Nat) (r : List Turn) : Prop :=
  s.agenda = ⟨n, .agent c e⟩ :: r ∧ c < 512 ∧ firstDue s (momentOf s n (.agent c e)) = none ∧ s0 = { markMoved (at_ { s with agenda := r } (momentOf s n (.agent c e))) (.agent c e) with cur := .agent c e }
    ∧ active s0 c = true ∧ ((s.cell c).agent e).halted = false ∧ (s.cell c).upset = none ∧ (s.die (dieOf s c)).upsets = []

/-- The same for the Innkeeper of die `d`. -/
def IkTurn (s s0 : State) (d n : Nat) (r : List Turn) : Prop :=
  s.agenda = ⟨n, .innkeeper d⟩ :: r ∧ d < 4 ∧ firstDue s (momentOf s n (.innkeeper d)) = none ∧ s0 = { markMoved (at_ { s with agenda := r } (momentOf s n (.innkeeper d))) (.innkeeper d) with cur := .ik d } ∧ (s.die d).ik.running = true ∧ (s.die d).upsets = []

/-- The text word of an agent at `va` is not cached, its page is in the scalar TLB with X, and its bytes may be read: `pa` is where they stand, `k` their key slot. -/
def TextAt (s : State) (c : Nat) (e : Engine) (va : Word) (pa k : Nat) : Prop :=
  Tab.look ((s.cell c).agent e).replay (va.toNat / 4) = none ∧ Tab.look (s.cell c).fcache (va.toNat / 4) = none ∧ va.toNat < 2 ^ 56
    ∧ (∃ t, tlbFind (s.cell c).stlb va.toNat = some t ∧ t.x = true ∧ t.key = k ∧ pa = t.pa + (va.toNat - t.base)) ∧ retained s pa = false ∧ keyAllowed s (.agent c e) k = true
    ∧ (Tab.get none s.keySlots k).isSome = true ∧ s.poison = [] ∧ s.latent = []

end Sys2Proof.Claims

/-- R183 to R193, R239, R288: decoding the word that encodes a well-formed instruction gives that instruction, with every operand at every value; and an instruction that a word stands for is well formed and encodes to that very word. Events
alone have no encoding. -/
def Obligations.DecodeEncode : Prop :=
  (∀ (i : Instr) (w : BitVec 32 × BitVec 32), i.wellFormed = true → encode i = some w → decode w.1 w.2 = .instr i)
  ∧ (∀ (w x : BitVec 32) (i : Instr), decode w x = .instr i → i.wellFormed = true ∧ encode i = some (w, if eBit w then x else 0))
  ∧ (∀ (i : Instr) (w : BitVec 32 × BitVec 32) (b : List (BitVec 8)), i.wellFormed = true → encode i = some w → decodeBytes (leBytes w.1 ++ leBytes w.2 ++ b) = .instr i)

/-- R183 to R193: words written out from the encodings of the spec, one or more of each engine, and words that are refused by name. -/
def Obligations.DecodeSamples : Prop :=
  decode 0x00088409 0 = .instr (.mul 0 4 4 9) ∧ decode 0x00106A2B 0 = .instr (.div 0 3 10 1 11) ∧ decode 0x00504304 0 = .instr (.bext 0 2 3 4) ∧ decode 0x00A04009 0 = .instr (.li 0 2 9)
  ∧ decode 0x0D080000 0 = .instr (.tok 6) ∧ decode 0x01AC0030 0 = .instr (.lstg 1 1 0) ∧ decode 0x01A80602 0 = .instr (.loop 0 6 2)
  ∧ decode 0x60000000 0x00510008 = .instr (.vshape 0 0x00510008) ∧ decode 0x40882084 0 = .instr (.vshl 0 1 1 2 0) ∧ decode 0x61502000 0x40000100 = .instr (.vld 0 1 0 8 0x100)
  ∧ decode 0x80500000 0 = .instr (.mlease 0) ∧ decode 0xA02C0000 0x62000000 = .instr (.mdrain 0 3 0 12 1) ∧ decode 0xE00214C7 0x60020010 = .instr (.xmoveExt 0 4 5 6 7 1 2 0 16 16)
  ∧ decode 0xC2300001 0 = .instr (.xbar 1 1) ∧ decode 0xC0D10C00 0 = .instr (.xarrive 0 2 3)
  ∧ decode 0x01BC0000 0 = .bad .unassigned ∧ decode 0x01080001 0 = .bad .reserved ∧ decode 0x20088409 0 = .bad .extension

/-- R17, R38, R39, R371: a step runs the word that stands at the PC. For the agent that has the turn the bytes there decode to an instruction of its engine, and that instruction is what runs; a word of another engine is passed, and an all-agent
word takes S's outcome; the Innkeeper takes a notification first, where one is due; a dated event comes before a later turn; a turn of an event runs it.
That a step is one turn, and which turn comes next, is the model's choice, log 1; which text fetch sees is log 12, and the order of the moves of one cycle log 28. -/
def Obligations.StepRunsDecoded : Prop :=
  (∀ s s0 c e n r pa k i, AgentTurn s s0 c e n r → TextAt s0 c e ((s0.cell c).agent e).pc pa k → eBit (BitVec.ofNat 32 (leNat (readHome (textView s0 (.agent c e)) pa 4 (some k)))) = false →
    (wordTag (BitVec.ofNat 32 (leNat (readHome (textView s0 (.agent c e)) pa 4 (some k))))).toNat = engCode e → decode (BitVec.ofNat 32 (leNat (readHome (textView s0 (.agent c e)) pa 4 (some k)))) 0 = .instr i →
    ((s0.cell c).agent e).skipTo = none → ((s0.cell c).agent e).levels = [] →
    step s = exec i (keepG (s0.setCell c { s0.cell c with fcache := fcachePut (s0.cell c).fcache s0.ticks (((s0.cell c).agent e).pc.toNat / 4) (BitVec.ofNat 32 (leNat (readHome (textView s0 (.agent c e)) pa 4 (some k)))) })
      c e (BitVec.ofNat 32 (leNat (readHome (textView s0 (.agent c e)) pa 4 (some k))))))
  ∧ (∀ s s0 c e n r s1 w x i, AgentTurn s s0 c e n r → agentFetch s0 c e = (s1, .ok (w, x)) → (wordTag w).toNat = engCode e → decode w x = .instr i → ((s1.cell c).agent e).skipTo = none → stageOk ((s1.cell c).agent e) = true →
    step s = exec i (keepReplay (keepG s1 c e w) c e (w, x)))
  ∧ (∀ s s0 c e n r s1 w x b, AgentTurn s s0 c e n r → agentFetch s0 c e = (s1, .ok (w, x)) → (wordTag w).toNat = engCode e → (e = .S ∨ lstgFields w = none) → decode w x = .bad b → ((s1.cell c).agent e).skipTo = none → stageOk ((s1.cell c).agent e) = true →
    step s = exec .notAnInstruction (keepReplay (keepG s1 c e w) c e (w, x)))
  ∧ (∀ s s0 c e n r s1 w x, AgentTurn s s0 c e n r → agentFetch s0 c e = (s1, .ok (w, x)) → (wordTag w).toNat ≠ engCode e → isAllAgent w = false → lstgFields w = none → step s = exec .skipWord (keepReplay (keepG s1 c e w) c e (w, x)))
  ∧ (∀ s s0 c e n r s1 w x f, AgentTurn s s0 c e n r → agentFetch s0 c e = (s1, .ok (w, x)) → e ≠ .S → lstgFields w = some f → ((s1.cell c).agent e).skipTo = none →
    step s = exec (.lstg f.1 (BitVec.ofBool f.2.1) (BitVec.ofBool f.2.2)) (keepReplay (keepG s1 c e w) c e (w, x)))
  ∧ (∀ s s0 c e n r s1 w x t, AgentTurn s s0 c e n r → agentFetch s0 c e = (s1, .ok (w, x)) → ((s1.cell c).agent e).skipTo = some t → step s = exec .skipWord (keepReplay (keepG s1 c e w) c e (w, x)))
  ∧ (∀ s s0 c e n r s1 w x, AgentTurn s s0 c e n r → agentFetch s0 c e = (s1, .ok (w, x)) → e ≠ .S → isAllAgent w = true → lstgFields w = none → ((s1.cell c).agent e).skipTo = none → stageOk ((s1.cell c).agent e) = true → step s = exec .outcomeTake (keepReplay (keepG s1 c e w) c e (w, x)))
  ∧ (∀ s s0 c e n r s1 w x, AgentTurn s s0 c e n r → agentFetch s0 c e = (s1, .ok (w, x)) → lstgFields w = none → stageOk ((s1.cell c).agent e) = false → step s = exec .skipWord (keepReplay (keepG s1 c e w) c e (w, x)))
  ∧ (∀ s s0 c e n r s1 f, AgentTurn s s0 c e n r → agentFetch s0 c e = (s1, .flt f) → step s = exec .fetchTranslationFault s0)
  ∧ (∀ s c e n r, s.agenda = ⟨n, .agent c e⟩ :: r → c < 512 → firstDue s (momentOf s n (.agent c e)) = none → ((s.cell c).agent e).halted = true →
    step s = .next (flushSig { markMoved (at_ { s with agenda := r } (momentOf s n (.agent c e))) (.agent c e) with cur := .agent c e } c e))
  ∧ (∀ s s0 d n r s1 w x i, IkTurn s s0 d n r → ((s.die d).fnq = [] ∨ ikActive s d = true ∨ (s.die d).ik.sop.isSome = true) → ikFetch s0 d = (s1, .ok (w, x)) → wordTag w = 0 → decode w x = .instr i → step s = exec i s1)
  ∧ (∀ s s0 d n r, IkTurn s s0 d n r → (s.die d).fnq ≠ [] → ikActive s d = false → (s.die d).ik.sop = none → step s = exec (.innkeeperExceptionEntry d) s0)
  ∧ (∀ s n i r, s.agenda = ⟨n, .event i⟩ :: r → firstDue s (momentOf s n (.event i)) = none → ownTurn i = true → step s = exec i (at_ { s with agenda := r } (momentOf s n (.event i))))
  ∧ (∀ s n m r q, s.agenda = ⟨n, m⟩ :: r → firstDue s (momentOf s n m) = some q → step s = exec q.2 (at_ { s with agenda := ⟨s.now + n - q.1.1, m⟩ :: r } q.1))
  ∧ (∀ s m q, firstDue s m = some q → q ∈ allDue s ∧ sooner m q.1 = false ∧ ∀ x ∈ allDue s, sooner x.1 q.1 = false)
  ∧ (∀ s m, firstDue s m = none → ∀ x ∈ allDue s, sooner m x.1 = true)
  ∧ (∀ s t r, s.now ≤ (moment s t r).1 ∧ t ≤ (moment s t r).1 ∧ (moment s t r).1 ≤ max t (s.now + 1) ∧ (moment s t r).2 = r
      ∧ (t ≤ s.now → r < s.rank → (moment s t r).1 = s.now + 1) ∧ (t ≤ s.now → r = s.rank → repeats r = false → (moment s t r).1 = s.now + 1))
  ∧ (∀ s t m, (hasMoved s m = true → t ≤ s.now → turnMoment s t m = (s.now + 1, turnRank s m)) ∧ ((hasMoved s m = false ∨ s.now < t) → turnMoment s t m = moment s t (turnRank s m)))
  ∧ (∀ s c e d, hasMoved (markMoved s (.agent c e)) (.agent c e) = true ∧ hasMoved (markMoved s (.innkeeper d)) (.innkeeper d) = true)
  ∧ (∀ s c, agentRank s c .S < agentRank s c .V ∨ ∃ w x t g, (agentFetch { s with cur := .agent c .S } c .S).2 = .ok (w, x) ∧ decode w x = .instr (.syswr t g 1))
  ∧ (∀ s c, c < 512 → agentRank s c .V < agentRank s c .M ∧ agentRank s c .M < agentRank s c .X ∧ (∀ e, repeats (agentRank s c e) = false))
  ∧ (∀ s p x, (p, x) ∈ s.ports → p < 18 → lanternReady x = true → (moment s (x.lastTx + 2 * max 1 (bits (mreg s 0x1102) 0 16)) (10 * 2 ^ 20 + 2 ^ 12), Instr.lantern p) ∈ allDue s)
  ∧ (∀ s l x, (l, x) ∈ s.clusters → x.lessee.isSome = true → (x.replay.isSome = true ∨ ∀ m ∈ x.steps, m.begun = false) → (moment s (x.granted + 4096) (8 * 2 ^ 20 + 2 ^ 12 + 4 * l), Instr.leaseCycleLimit l) ∈ allDue s)
  ∧ (∀ s l x, (l, x) ∈ s.clusters → l < 128 → (s.cluster l).lessee = none → (∃ i ∈ (s.cluster l).reqs, i < 4 ∧ tileRuns s (4 * l + i) = true) → (moment s s.now (8 * 2 ^ 20 + 2 ^ 12 + 4 * l + 1), Instr.leaseGrant l) ∈ allDue s)
  ∧ (∀ s n x t, (n, x) ∈ s.conns → x.ackDue = some t → (moment s (t + 2 * bits (mreg s 0x1103) 0 16) (2 ^ 20), Instr.connectionAck n) ∈ allDue s)
  ∧ (∀ s p x, (p, x) ∈ s.ports → p < 18 → x.state = 1 → (moment s x.retrainBy (2 ^ 20), Instr.retrainComplete p) ∈ allDue s)
  ∧ (∀ s c e n r, s.agenda = ⟨n, .agent c e⟩ :: r → 512 ≤ c → firstDue s (momentOf s n (.agent c e)) = none → step s = .fault .noSuchUnit)
  ∧ (∀ s n, (advance s n).now = s.now + n ∧ (s.slew = none → (advance s n).podtime = s.podtime + wd n)
      ∧ (0 < n → (advance s n).slew = none ∧ (advance s n).rank = 0 ∧ (advance s n).moved = [] ∧ (s.slew = some true → (advance s n).podtime = s.podtime + wd (n + 1)) ∧ (s.slew = some false → (advance s n).podtime = s.podtime + wd (n - 1))))

/-- R8, R19, R41, R55, R60, R77, R172, R174, R181, R337, R341, R345, R346, R353, R356, R369, R453: what the spec says a register reads after reset, and that nothing has booted, run, or been queued.
The contents of free Guestbook entries and the registers of an agent before its first tile are the model's values, log 6. -/
def Obligations.ResetValues : Prop :=
  MemOk State.reset ∧ State.reset.booted = false ∧ State.reset.gangs = [] ∧ State.reset.writes = [] ∧ State.reset.locked = false ∧ State.reset.podtime = 0
  ∧ (∀ c, readCell State.reset c 0 = 64 ∧ readCell State.reset c 1 = 0x8006 ∧ readCell State.reset c 2 = 0 ∧ readCell State.reset c 3 = 0 ∧ readCell State.reset c 5 = 0x20202020
      ∧ (∀ n, n < 16 → readCell State.reset c (0x40 + n) = 0x80) ∧ (∀ n, n < 36 → readCell State.reset c (0x18 + n) = 0) ∧ (∀ e n, n < 1024 → (State.reset.cell c).gbEntry n = ⟨0, 0, 0, [], [], 0, 1⟩ ∧ (State.reset.cell c).agent e = Agent.reset))
  ∧ (∀ d, readDie State.reset d 0x200 = 16 ∧ readDie State.reset d 0x210 = 1000 ∧ (∀ n, n < 64 → readDie State.reset d (0x440 + n) = 0x4000 ∧ qhead (State.reset.die d) n = 0 ∧ qtail (State.reset.die d) n = 0)
      ∧ (State.reset.die d).fnq = [] ∧ (State.reset.die d).stages = [] ∧ (State.reset.die d).ik.running = false)
  ∧ readModule State.reset 0x1102 = wd (80000 * 2 ^ 32 + 64) ∧ readModule State.reset 0x1103 = wd (64 * 2 ^ 32 + 256) ∧ readModule State.reset 0x110C = wd (8 * 2 ^ 16 + 512) ∧ readModule State.reset 0x110D = wd (16 * 2 ^ 40 + 200000)
  ∧ readModule State.reset 0x1301 = 2400 ∧ readModule State.reset 0x1302 = wd (60 * 2 ^ 16) ∧ readModule State.reset 0x1305 = 24 ∧ bit (readModule State.reset 0x1300) 63 = false
  ∧ (∀ p, p < 18 → readModule State.reset (0x1120 + p) = 0x8000000000000000 ∧ ∀ n, (slotKey (State.reset.port p) n).loaded = false)

/-- Log 5, R143: whatever step is taken from a state whose memory is in canonical form, its memory is in that form afterwards. -/
def Obligations.StepKeepsMemory : Prop := ∀ s t, MemOk s → step s = .next t → MemOk t

namespace Sys2Proof.Claims
open Sys2Proof.Machine

/-- A load of `n` bytes from a home of this node by the Innkeeper whose word `i` this is: rd takes the value, the PC goes on `w` words, memory stays as it is. -/
def IkLoads (i : Instr) (w : Nat) (d a : BitVec 5) (im : Int) (n : Nat) (sg : Bool) : Prop :=
  ∀ s k s1 q h key m va, s.cur = .ik k → (s.die k).ik.sop = none → s.poison = [] → s.latent = [] →
    checkAccess s (.ik k) .S ((s.die k).ik.greg a.toNat + BitVec.ofInt 64 im) n n false false = (s1, .ok q) → q.accs = [⟨.home h, n, key, m, va⟩] →
    ∃ u, exec i s = .next u ∧ (u.die k).ik.pc = (s.die k).ik.pc + wd (4 * w) ∧ MemSame s u ∧ u.cells = s.cells ∧ (∀ j, j ≠ k → (u.die j).ik = (s.die j).ik)
      ∧ (d ≠ 0 → (u.die k).ik.greg d.toNat = if sg then (BitVec.ofNat (8 * n) (leNat ((readHome s1 h n key).take n))).signExtend 64 else wd (leNat ((readHome s1 h n key).take n)))
      ∧ (∀ r, r ≠ d.toNat → (u.die k).ik.greg r = (s.die k).ik.greg r)

/-- A store of the `n` bytes `v` by the Innkeeper. In a window of this node the bytes stand there, every other byte reads as before; in the paged half they read back under the key of
their page, with every other byte as it reads once the D bit is set, and the lines that they do not touch stay as they are. -/
def IkWrites (i : Instr) (w : Nat) (a : BitVec 5) (im : Int) (n : Nat) (v : Innkeeper → List Byte) : Prop :=
  ∀ s k s1 q h m va, s.cur = .ik k → checkAccess s (.ik k) .S ((s.die k).ik.greg a.toNat + BitVec.ofInt 64 im) n n true false = (s1, .ok q) →
    (q.accs = [⟨.home h, n, none, m, va⟩] → q.leaf = none →
      ∃ u, exec i s = .next u ∧ (u.die k).ik.pc = (s.die k).ik.pc + wd (4 * w) ∧ u.cells = s.cells ∧ (u.die k).ik.g = (s.die k).ik.g
        ∧ (∀ x, memGet u.mem x = if h ≤ x ∧ x < h + n then byteAt (v (s.die k).ik) (x - h) else memGet s.mem x))
    ∧ (∀ key, q.accs = lineAccs va h n key → h + n ≤ 2 ^ 48 →
      ∃ u, exec i s = .next u ∧ (u.die k).ik.pc = (s.die k).ik.pc + wd (4 * w) ∧ u.cells = s.cells ∧ (u.die k).ik.g = (s.die k).ik.g
        ∧ (∀ x, readHome u x 1 (some key) = if h ≤ x ∧ x < h + n then [byteAt (v (s.die k).ik) (x - h)] else readHome (markDirty s1 q.leaf) x 1 (some key))
        ∧ (∀ x, x < h / 64 * 64 ∨ (h + n + 63) / 64 * 64 ≤ x → memGet u.mem x = memGet (markDirty s1 q.leaf).mem x))

/-- A store of the low `n` bytes of gb. -/
def IkStores (i : Instr) (w : Nat) (b a : BitVec 5) (im : Int) (n : Nat) : Prop := IkWrites i w a im n (fun y => leList n (y.greg b.toNat).toNat)

/-- SLDR by the Innkeeper: the 128 bytes replace its image `r`; its other images and its registers stay. -/
def IkImage (i : Instr) (w : Nat) (r : BitVec 4) (a : BitVec 5) (im : Int) : Prop :=
  ∀ s k s1 q h key m va, s.cur = .ik k → (s.die k).ik.sop = none → s.poison = [] → s.latent = [] →
    checkAccess s (.ik k) .S ((s.die k).ik.greg a.toNat + BitVec.ofInt 64 im) 128 128 false false = (s1, .ok q) →
    ((q.accs = [⟨.home h, 128, none, m, va⟩] ∧ key = none) ∨ ∃ j, key = some j ∧ q.accs = lineAccs va h 128 j) →
    ∃ u, exec i s = .next u ∧ (u.die k).ik.pc = (s.die k).ik.pc + wd (4 * w) ∧ MemSame s u ∧ u.cells = s.cells ∧ (u.die k).ik.g = (s.die k).ik.g
      ∧ Tab.get 0 (u.die k).ik.s r.toNat = BitVec.ofNat 1024 (leNat (readHome s1 h 128 key)) ∧ ∀ j, j ≠ r.toNat → Tab.get 0 (u.die k).ik.s j = Tab.get 0 (s.die k).ik.s j

/-- JTAB by the Innkeeper (R214): the entry of a table of `l` is loaded, entry `l` where the index is not below it, and its PC goes by 4 times the entry; an empty table is R378 code 0x05. -/
def IkTable (i : Instr) (a b : BitVec 5) (l : Nat) : Prop :=
  (l = 0 → ∀ s k, s.cur = .ik k → exec i s = .next (ikFault s k { cls := 1, code := 5 }))
  ∧ (0 < l → ∀ s k s1 q h key m va e, s.cur = .ik k → (s.die k).ik.sop = none → s.poison = [] → s.latent = [] → e = min ((s.die k).ik.greg b.toNat).toNat l →
      checkAccess s (.ik k) .S ((s.die k).ik.greg a.toNat + wd (4 * e)) 4 4 false false = (s1, .ok q) → q.accs = [⟨.home h, 4, key, m, va⟩] →
      ∃ u, exec i s = .next u ∧ (u.die k).ik.pc = (s.die k).ik.pc + ((BitVec.ofNat 32 (leNat (readHome s1 h 4 key))).signExtend 64 <<< 2) ∧ MemSame s u ∧ u.cells = s.cells ∧ (u.die k).ik.g = (s.die k).ik.g)

/-- The cell that CLSEL of die `k` selects, which the die has (R367). -/
def Selected (s : State) (k c : Nat) : Prop := bits (dreg s k 0x20F) 2 5 < dieClusters s k ∧ c = 4 * (firstCluster s k + bits (dreg s k 0x20F) 2 5) + bits (dreg s k 0x20F) 0 2

/-- A branch of the Innkeeper: its PC goes by `off` where `p` holds of its two registers, else to the next word; nothing else changes. -/
def IkBranches (i : Instr) (n : Nat) (a b : BitVec 5) (off : Int) (p : Word → Word → Prop) : Prop :=
  ∀ s k, s.cur = .ik k → ∃ u, exec i s = .next u ∧ OnlyIk s u k ∧ (u.die k).ik.g = (s.die k).ik.g
    ∧ (p ((s.die k).ik.greg a.toNat) ((s.die k).ik.greg b.toNat) → (u.die k).ik.pc = (s.die k).ik.pc + BitVec.ofInt 64 off)
    ∧ (¬ p ((s.die k).ik.greg a.toNat) ((s.die k).ik.greg b.toNat) → (u.die k).ik.pc = (s.die k).ik.pc + wd (4 * n))

end Sys2Proof.Claims

/-- R26, R237, R233, R367: the words that an Innkeeper executes as a cell does, in all their forms: its loads, stores and stream images act at once (log 11), its branches and jumps record no outcome, PREF does nothing (log 16), its token bits are ignored, and its register words reach supervisor
registers and, through CLSEL, those of a cell and a cluster; where CLSEL names none of the die's, a read is a free value (log 19). -/
def Obligations.InnkeeperWords : Prop :=
  (∀ t d a j, IkLoads (.ldI8 t d a j) 1 d a j.toInt 1 true ∧ IkLoads (.ldI16 t d a j) 1 d a j.toInt 2 true ∧ IkLoads (.ldI32 t d a j) 1 d a j.toInt 4 true ∧ IkLoads (.ld64 t d a j) 1 d a j.toInt 8 false
      ∧ IkLoads (.ldN8 t d a j) 1 d a j.toInt 1 false ∧ IkLoads (.ldN16 t d a j) 1 d a j.toInt 2 false ∧ IkLoads (.ldN32 t d a j) 1 d a j.toInt 4 false)
  ∧ (∀ t d a x, IkLoads (.ldI8Ext t d a x) 2 d a x.toInt 1 true ∧ IkLoads (.ldI16Ext t d a x) 2 d a x.toInt 2 true ∧ IkLoads (.ldI32Ext t d a x) 2 d a x.toInt 4 true ∧ IkLoads (.ld64Ext t d a x) 2 d a x.toInt 8 false
      ∧ IkLoads (.ldN8Ext t d a x) 2 d a x.toInt 1 false ∧ IkLoads (.ldN16Ext t d a x) 2 d a x.toInt 2 false ∧ IkLoads (.ldN32Ext t d a x) 2 d a x.toInt 4 false)
  ∧ (∀ t b a j, IkStores (.st8 t b a j) 1 b a j.toInt 1 ∧ IkStores (.st16 t b a j) 1 b a j.toInt 2 ∧ IkStores (.st32 t b a j) 1 b a j.toInt 4 ∧ IkStores (.st64 t b a j) 1 b a j.toInt 8)
  ∧ (∀ t b a x, IkStores (.st8Ext t b a x) 2 b a x.toInt 1 ∧ IkStores (.st16Ext t b a x) 2 b a x.toInt 2 ∧ IkStores (.st32Ext t b a x) 2 b a x.toInt 4 ∧ IkStores (.st64Ext t b a x) 2 b a x.toInt 8)
  ∧ (∀ t a b o, IkBranches (.beq t a b o) 1 a b (4 * o.toInt) (fun x y => x = y) ∧ IkBranches (.bne t a b o) 1 a b (4 * o.toInt) (fun x y => x ≠ y)
      ∧ IkBranches (.blt t a b o) 1 a b (4 * o.toInt) (fun x y => x.toInt < y.toInt) ∧ IkBranches (.bge t a b o) 1 a b (4 * o.toInt) (fun x y => y.toInt ≤ x.toInt)
      ∧ IkBranches (.bltn t a b o) 1 a b (4 * o.toInt) (fun x y => x.toNat < y.toNat) ∧ IkBranches (.bgen t a b o) 1 a b (4 * o.toInt) (fun x y => y.toNat ≤ x.toNat))
  ∧ (∀ t a b x, IkBranches (.beqExt t a b x) 2 a b (4 * x.toInt) (fun x y => x = y) ∧ IkBranches (.bneExt t a b x) 2 a b (4 * x.toInt) (fun x y => x ≠ y)
      ∧ IkBranches (.bltExt t a b x) 2 a b (4 * x.toInt) (fun x y => x.toInt < y.toInt) ∧ IkBranches (.bgeExt t a b x) 2 a b (4 * x.toInt) (fun x y => y.toInt ≤ x.toInt)
      ∧ IkBranches (.bltnExt t a b x) 2 a b (4 * x.toInt) (fun x y => x.toNat < y.toNat) ∧ IkBranches (.bgenExt t a b x) 2 a b (4 * x.toInt) (fun x y => y.toNat ≤ x.toNat))
  ∧ (∀ t o x, IkBranches (.j t o) 1 0 0 (4 * o.toInt) (fun _ _ => True) ∧ IkBranches (.jExt t o x) 2 0 0 (4 * (o ++ x).toInt) (fun _ _ => True))
  ∧ (∀ t o x i n off s k, ((i = .jl t o ∧ n = 1 ∧ off = 4 * o.toInt) ∨ (i = .jlExt t o x ∧ n = 2 ∧ off = 4 * (o ++ x).toInt)) → s.cur = .ik k →
      ∃ u, exec i s = .next u ∧ OnlyIk s u k ∧ (u.die k).ik.greg 23 = (s.die k).ik.pc + wd (4 * n) ∧ (u.die k).ik.pc = (s.die k).ik.pc + BitVec.ofInt 64 off
        ∧ ∀ r, r ≠ 23 → (u.die k).ik.greg r = (s.die k).ik.greg r)
  ∧ (∀ t r a j x, IkImage (.sldr t r a j) 1 r a j.toInt ∧ IkImage (.sldrExt t r a x) 2 r a x.toInt
      ∧ IkWrites (.sstr t r a j) 1 a j.toInt 128 (fun y => leList 128 (Tab.get 0 y.s r.toNat).toNat) ∧ IkWrites (.sstrExt t r a x) 2 a x.toInt 128 (fun y => leList 128 (Tab.get 0 y.s r.toNat).toNat))
  ∧ (∀ t a b n m, IkTable (.jtab t a b n) a b n.toNat ∧ IkTable (.jtabExt t a b m) a b m.toNat)
  ∧ (∀ t a j x i n s k, ((i = .pref t a j ∧ n = 1) ∨ (i = .prefExt t a x ∧ n = 2)) → s.cur = .ik k →
      ∃ u, exec i s = .next u ∧ OnlyIk s u k ∧ (u.die k).ik.g = (s.die k).ik.g ∧ (u.die k).ik.pc = (s.die k).ik.pc + wd (4 * n))
  ∧ (∀ t a s k, s.cur = .ik k → ((s.die k).ik.greg a.toNat).toNat % 4 = 0 → ∃ u, exec (.jr t a) s = .next u ∧ OnlyIk s u k ∧ (u.die k).ik.pc = (s.die k).ik.greg a.toNat ∧ (u.die k).ik.g = (s.die k).ik.g)
  ∧ (∀ t a s k, s.cur = .ik k → ((s.die k).ik.greg a.toNat).toNat % 4 ≠ 0 → exec (.jr t a) s = .next (ikFault s k { cls := 6, code := 3, addr := (s.die k).ik.greg a.toNat }))
  ∧ (∀ t g n s k, s.cur = .ik k → regKnown n.toNat = true → 0x200 ≤ n.toNat → n.toNat ≠ 0x20D → (∀ q ∈ s.writes, q.by_ ≠ .ik k) →
      ∃ u, exec (.sysrd t g n) s = .next u ∧ OnlyIk s u k ∧ (u.die k).ik.pc = (s.die k).ik.pc + 4 ∧ (g ≠ 0 → (u.die k).ik.greg g.toNat = readReg s n.toNat (if n.toNat < 0x1000 then k else 0)))
  ∧ (∀ t g n s k, s.cur = .ik k → regKnown n.toNat = true → 0x200 ≤ n.toNat →
      ∃ u, exec (.syswr t g n) s = .next u ∧ (u.die k).ik.pc = (s.die k).ik.pc + 4 ∧ u.writes = s.writes ++ [⟨.ik k, n.toNat, if n.toNat < 0x1000 then k else 0, (s.die k).ik.greg g.toNat, false, 0⟩] ∧ MemSame s u)
  ∧ (∀ t g n s k c, s.cur = .ik k → regKnown n.toNat = true → n.toNat < 0x200 → Selected s k c → (∀ q ∈ s.writes, q.by_ ≠ .ik k) →
      ∃ u, exec (.sysrd t g n) s = .next u ∧ OnlyIk s u k ∧ (u.die k).ik.pc = (s.die k).ik.pc + 4 ∧ (∀ r, r ≠ g.toNat → (u.die k).ik.greg r = (s.die k).ik.greg r)
        ∧ (g ≠ 0 → (u.die k).ik.greg g.toNat = if n.toNat < 0x100 then readCell s c n.toNat else readCluster (s.cluster (clusterOf c)) n.toNat))
  ∧ (∀ t g n s k c, s.cur = .ik k → regKnown n.toNat = true → Selected s k c →
      (n.toNat < 0x100 → ∃ u, exec (.syswr t g n) s = .next u ∧ (u.die k).ik = { (s.die k).ik with pc := (s.die k).ik.pc + 4 } ∧ (∀ j, j ≠ k → u.die j = s.die j)
        ∧ { u with dies := s.dies } = writeCell s c n.toNat ((s.die k).ik.greg g.toNat))
      ∧ (0x100 ≤ n.toNat → n.toNat < 0x200 → ∃ u, exec (.syswr t g n) s = .next u ∧ (u.die k).ik = { (s.die k).ik with pc := (s.die k).ik.pc + 4 } ∧ (∀ j, j ≠ k → u.die j = s.die j)
        ∧ { u with dies := s.dies } = { s with writes := s.writes ++ [⟨.ik k, n.toNat, clusterOf c, (s.die k).ik.greg g.toNat, false, 0⟩] }))
  ∧ (∀ t g n s k, s.cur = .ik k → regKnown n.toNat = true → n.toNat < 0x200 → dieClusters s k ≤ bits (dreg s k 0x20F) 2 5 →
      (∃ u, exec (.sysrd t g n) s = .next u ∧ (u.die k).ik.pc = (s.die k).ik.pc + 4 ∧ { u with dies := s.dies, ticks := s.ticks } = s ∧ (g ≠ 0 → (u.die k).ik.greg g.toNat = (Config.freeVec s.ticks).setWidth 64))
      ∧ (∃ u, exec (.syswr t g n) s = .next u ∧ (u.die k).ik.pc = (s.die k).ik.pc + 4 ∧ (u.die k).ik.g = (s.die k).ik.g ∧ { u with dies := s.dies } = s))
  ∧ (∀ t g n i s k, (i = .sysrd t g n ∨ i = .syswr t g n) → s.cur = .ik k → regKnown n.toNat = false → exec i s = .next (ikFault s k { cls := 1, code := 5 }))
end

