-- ==== Sys2Proof/Laws/Flit.lean ====
section
/-!
SUPPORT. The image of a flit: its length, and that it opens, under the slot and the counter that sealed it, as the flit that it was.
-/
namespace Sys2Proof.Machine

@[simp] theorem leList_length (n v : Nat) : (leList n v).length = n := by simp [leList]

@[simp] theorem xorL_length (a b : List Byte) : (xorL a b).length = min a.length b.length := by simp [xorL]

/-- Two equal masks cancel. -/
theorem xorL_xorL (a b : List Byte) (h : a.length ≤ b.length) : xorL (xorL a b) b = a := by
  induction a generalizing b with
  | nil => simp [xorL]
  | cons x a ih =>
    cases b with
    | nil => simp at h
    | cons y b =>
      have e := ih b (by simpa using h)
      simp only [xorL] at e ⊢
      simp [e, BitVec.xor_assoc]

theorem getD_of_lt {α : Type} (l : List α) (i : Nat) (d : α) (h : i < l.length) : l.getD i d = l[i] := by simp [h]

/-- Every word of a key schedule has four bytes. -/
theorem keyWords_words (n : Nat) (l : List (List Byte)) (h8 : 8 ≤ l.length) (h : ∀ w ∈ l, w.length = 4) :
    (∀ w ∈ keyWords n l, w.length = 4) ∧ (keyWords n l).length = n + l.length := by
  have at_ : ∀ m : List (List Byte), 8 ≤ m.length → (∀ w ∈ m, w.length = 4) → ∀ i, i < 8 → (m.getD i []).length = 4 := by
    intro m h8 h i hi
    rw [getD_of_lt _ _ _ (by omega)]
    exact h _ (List.getElem_mem _)
  induction n generalizing l with
  | zero => exact ⟨h, by simp [keyWords]⟩
  | succ k ih =>
    simp only [keyWords]
    have h0 := at_ l h8 h 0 (by omega)
    have h7 := at_ l h8 h 7 (by omega)
    have e := ih (xorL (l.getD 7 []) (if l.length % 8 = 0 then
        xorL [sbox (byteAt (l.getD 0 []) 1), sbox (byteAt (l.getD 0 []) 2), sbox (byteAt (l.getD 0 []) 3), sbox (byteAt (l.getD 0 []) 0)] [rcon (l.length / 8 - 1), 0, 0, 0]
      else if l.length % 8 = 4 then (l.getD 0 []).map sbox else l.getD 0 []) :: l) (by simp; omega) (by
        intro w hw
        rcases List.mem_cons.mp hw with rfl | hw
        · rw [xorL_length, h7]
          split
          · simp
          · split <;> simp [h0, -List.getD_eq_getElem?_getD]
        · exact h w hw)
    exact ⟨e.1, by rw [e.2]; simp; omega⟩

/-- The last round key of a 32-byte key has 16 bytes. -/
theorem roundKeys_last (key : List Byte) (h : key.length = 32) : ((roundKeys key).getD 14 []).length = 16 := by
  have w := keyWords_words 52 ((List.range 8).map (fun i => (key.drop (4 * i)).take 4)).reverse (by simp) (by
    intro w hw
    simp only [List.mem_reverse, List.mem_map, List.mem_range] at hw
    obtain ⟨i, hi, rfl⟩ := hw
    simp [h]; omega)
  simp only [roundKeys]
  rw [getD_of_lt _ _ _ (by simp), List.getElem_map, List.getElem_range]
  have l : (keyWords 52 ((List.range 8).map (fun i => (key.drop (4 * i)).take 4)).reverse).reverse.length = 60 := by
    rw [List.length_reverse, w.2]; simp
  rw [List.length_flatten]
  have : ∀ m : List (List Byte), (∀ w ∈ m, w.length = 4) → (m.map List.length).sum = 4 * m.length := by
    intro m hm
    induction m with
    | nil => rfl
    | cons a m ih =>
      have e := hm a (by simp)
      have f := ih (fun w hw => hm w (by simp [hw]))
      simp only [List.map_cons, List.sum_cons, List.length_cons, e, f]
      omega
  rw [this _ (fun v hv => w.1 v (by
    have := List.mem_of_mem_drop (List.mem_of_mem_take hv)
    simpa using this))]
  rw [List.length_take, List.length_drop, l]; rfl

/-- A block encryption gives as many bytes as its last round key has, at most 16. -/
theorem aesEnc_length (rk : List (List Byte)) (b : List Byte) : (aesEnc rk b).length = min 16 (rk.getD 14 []).length := by
  simp [aesEnc, shiftRows, -List.getD_eq_getElem?_getD]

/-- The key stream of `n` blocks. -/
theorem gcmStream_length (key iv : List Byte) (h : key.length = 32) (n : Nat) : (gcmStream (roundKeys key) iv n).length = 16 * n := by
  have e : ∀ b, (aesEnc (roundKeys key) b).length = 16 := fun b => by rw [aesEnc_length, roundKeys_last key h]; rfl
  simp only [gcmStream]
  rw [List.length_flatten]
  simp only [List.map_map, Function.comp_def, e]
  induction n with
  | zero => rfl
  | succ k ih => rw [List.range_succ, List.map_append, List.sum_append, ih]; simp; omega

@[simp] theorem gcmTag_length (key iv aad c : List Byte) (h : key.length = 32) : (gcmTag (roundKeys key) iv aad c).length = 16 := by
  simp [gcmTag, aesEnc_length, roundKeys_last key h, -List.getD_eq_getElem?_getD]

@[simp] theorem gcmCrypt_length (key iv p : List Byte) (h : key.length = 32) : (gcmCrypt (roundKeys key) iv p).length = p.length := by
  rw [gcmCrypt, xorL_length, gcmStream_length key iv h]; omega

/-- A ciphertext decrypts to its plaintext. -/
theorem gcmCrypt_gcmCrypt (key iv p : List Byte) (h : key.length = 32) : gcmCrypt (roundKeys key) iv (gcmCrypt (roundKeys key) iv p) = p := by
  have l := gcmCrypt_length key iv p h
  rw [gcmCrypt, l, gcmCrypt, xorL_xorL]
  rw [gcmStream_length key iv h]; omega

/-- Eight bytes hold a word. -/
theorem leNat_leList8 (v : Nat) (h : v < 2 ^ 64) : leNat (leList 8 v) = v := by
  have e : leList 8 v = [BitVec.ofNat 8 (v / 2 ^ 0), BitVec.ofNat 8 (v / 2 ^ 8), BitVec.ofNat 8 (v / 2 ^ 16), BitVec.ofNat 8 (v / 2 ^ 24), BitVec.ofNat 8 (v / 2 ^ 32),
      BitVec.ofNat 8 (v / 2 ^ 40), BitVec.ofNat 8 (v / 2 ^ 48), BitVec.ofNat 8 (v / 2 ^ 56)] := rfl
  rw [e]
  simp only [leNat, List.foldr, BitVec.toNat_ofNat]
  omega

@[simp] theorem wordBytes_length (w : Word) : (wordBytes w).length = 8 := leList_length 8 _
@[simp] theorem flitHeader_length (f : Flit) : (flitHeader f).length = 16 := by simp [flitHeader]

/-- The word at the start of a run that begins with its bytes. -/
theorem wordAt_wordBytes (w : Word) (l : List Byte) : wordAt (wordBytes w ++ l) 0 = w := by
  have t : ((wordBytes w ++ l).drop 0).take 8 = wordBytes w := by
    rw [List.drop_zero, List.take_append_of_le_length (by simp), List.take_of_length_le (by simp)]
  rw [wordAt, t, wordBytes, leNat_leList8 _ w.isLt, wd, BitVec.ofNat_toNat, BitVec.setWidth_eq]

/-- The fields of a flit fit their places in its header, and its body fills the payload (R325). -/
def Flit.Fits (f : Flit) : Prop := f.kind < 16 ∧ f.slot < 2 ∧ f.lseq < 2 ^ 24 ∧ f.lack < 2 ^ 24 ∧ f.body.length = 224

/-- The header says which flit it is. -/
theorem flitOf_header (f : Flit) (h : f.Fits) (l body : List Byte) : flitOf (flitHeader f ++ l) body = { f with body := body } := by
  obtain ⟨hk, hs, hl, ha, -⟩ := h
  have w0 : wordAt (flitHeader f ++ l) 0 = f.ms := by rw [flitHeader, List.append_assoc]; exact wordAt_wordBytes _ _
  have w8 : wordAt (flitHeader f ++ l) 8 = wd (f.kind % 2 ^ 4 * 2 ^ 60 + f.slot % 2 * 2 ^ 59 + f.lseq % 2 ^ 24 * 2 ^ 32 + f.lack % 2 ^ 24 * 2 ^ 8) := by
    have d : (flitHeader f ++ l).drop 8 = wordBytes (wd (f.kind % 2 ^ 4 * 2 ^ 60 + f.slot % 2 * 2 ^ 59 + f.lseq % 2 ^ 24 * 2 ^ 32 + f.lack % 2 ^ 24 * 2 ^ 8)) ++ l := by
      rw [flitHeader, List.append_assoc, List.drop_append_of_le_length (by simp), List.drop_of_length_le (by simp), List.nil_append]
    conv => lhs; unfold wordAt; rw [d]
    exact wordAt_wordBytes _ _
  have n : (wd (f.kind % 2 ^ 4 * 2 ^ 60 + f.slot % 2 * 2 ^ 59 + f.lseq % 2 ^ 24 * 2 ^ 32 + f.lack % 2 ^ 24 * 2 ^ 8)).toNat
      = f.kind * 2 ^ 60 + f.slot * 2 ^ 59 + f.lseq * 2 ^ 32 + f.lack * 2 ^ 8 := by
    rw [wd, BitVec.toNat_ofNat]; omega
  simp only [flitOf, w0, w8, bits, n]
  congr 1 <;> omega

@[simp] theorem sealFlit_length (k : LinkKey) (ctr : Nat) (f : Flit) (h : f.body.length = 224) : (sealFlit k ctr f).length = 256 := by
  simp [sealFlit, h]

/-- The parts of an image of 16, 224 and 16 bytes. -/
theorem image_parts (a c t : List Byte) (ha : a.length = 16) (hc : c.length = 224) :
    (a ++ c ++ t).take 16 = a ∧ ((a ++ c ++ t).drop 16).take 224 = c ∧ (a ++ c ++ t).drop 240 = t := by
  refine ⟨?_, ?_, ?_⟩
  · rw [List.append_assoc, List.take_append_of_le_length (by omega), List.take_of_length_le (by omega)]
  · rw [List.append_assoc, List.drop_append_of_le_length (by omega), List.drop_of_length_le (by omega), List.nil_append,
      List.take_append_of_le_length (by omega), List.take_of_length_le (by omega)]
  · rw [List.drop_append_of_le_length (by simp; omega), List.drop_of_length_le (by simp; omega), List.nil_append]

/-- What a slot seals at a counter opens under it there as it was. -/
theorem openFlit_sealFlit (k : LinkKey) (ctr : Nat) (f : Flit) (h : f.Fits) : openFlit k ctr (sealFlit k ctr f) = some f := by
  have hb := h.2.2.2.2
  have lk : (leList 32 k.key.toNat).length = 32 := leList_length 32 _
  have lc := gcmCrypt_length (leList 32 k.key.toNat) (flitIv k ctr) f.body lk
  have p := image_parts (flitHeader f) (gcmCrypt (roundKeys (leList 32 k.key.toNat)) (flitIv k ctr) f.body)
    (gcmTag (roundKeys (leList 32 k.key.toNat)) (flitIv k ctr) (flitHeader f) (gcmCrypt (roundKeys (leList 32 k.key.toNat)) (flitIv k ctr) f.body))
    (flitHeader_length f) (by omega)
  simp only [openFlit, sealFlit_length k ctr f hb]
  simp only [sealFlit, p.1, p.2.1, p.2.2, gcmCrypt_gcmCrypt _ _ _ lk]
  rw [List.append_assoc, flitOf_header f h]
  simp

end Sys2Proof.Machine
end

