-- ==== Sys2Proof/Laws/Tab.lean ====
section
/-!
SUPPORT. Sparse tables: reading after a write, and the rising order that writing and erasing keep.
-/
namespace Sys2Proof

/-- Reading what was just written. -/
theorem Tab.get_set {α : Type} (z : α) (t : Tab α) (k : Nat) (v : α) : Tab.get z (Tab.set t k v) k = v := by
  induction t with
  | nil => simp [Tab.set, Tab.get]
  | cons p r ih =>
    simp only [Tab.set]
    split
    · simp [Tab.get]
    · split
      · simp [Tab.get]
      · rename_i h; simp [Tab.get, h, ih]

/-- A write leaves every other number as it was. -/
theorem Tab.get_set_ne {α : Type} (z : α) (t : Tab α) (k j : Nat) (v : α) (h : j ≠ k) : Tab.get z (Tab.set t k v) j = Tab.get z t j := by
  induction t with
  | nil => simp [Tab.set, Tab.get, Ne.symm h]
  | cons p r ih =>
    simp only [Tab.set]
    split
    · simp [Tab.get, Ne.symm h]
    · split
      · rename_i e; simp [Tab.get, e, Ne.symm h]
      · simp [Tab.get, ih]

/-- An erased number reads as the default. -/
theorem Tab.get_erase {α : Type} (z : α) (t : Tab α) (k : Nat) : Tab.get z (Tab.erase t k) k = z := by
  induction t with
  | nil => rfl
  | cons p r ih =>
    simp only [Tab.erase, List.filter] at *
    by_cases h : p.1 = k
    · simpa [h] using ih
    · have e : (p.1 != k) = true := by simpa using h
      simp [e, Tab.get, h]; exact ih

/-- Erasing leaves every other number as it was. -/
theorem Tab.get_erase_ne {α : Type} (z : α) (t : Tab α) (k j : Nat) (h : j ≠ k) : Tab.get z (Tab.erase t k) j = Tab.get z t j := by
  induction t with
  | nil => rfl
  | cons p r ih =>
    simp only [Tab.erase, List.filter] at *
    by_cases e : p.1 = k
    · have d : (p.1 != k) = false := by simp [e]
      simp only [d, Tab.get]
      have g : p.1 ≠ j := fun g => h (by omega)
      simp only [g, if_false]
      exact ih
    · have d : (p.1 != k) = true := by simpa using e
      simp only [d, Tab.get]
      split
      · rfl
      · exact ih

/-- A table rising from `lo` rises from every smaller number. -/
theorem Tab.rising_of_le {α : Type} (t : Tab α) (lo lo' : Nat) (h : lo' ≤ lo) (r : Tab.rising lo t = true) : Tab.rising lo' t = true := by
  cases t with
  | nil => rfl
  | cons p q => simp only [Tab.rising, Bool.and_eq_true, decide_eq_true_eq] at *; exact ⟨by omega, r.2⟩

/-- A write keeps a rising table rising. -/
theorem Tab.rising_set {α : Type} (t : Tab α) (lo k : Nat) (v : α) (h : lo ≤ k) (r : Tab.rising lo t = true) :
    Tab.rising lo (Tab.set t k v) = true := by
  induction t generalizing lo with
  | nil => simp [Tab.set, Tab.rising, h]
  | cons p q ih =>
    simp only [Tab.rising, Bool.and_eq_true, decide_eq_true_eq] at r
    simp only [Tab.set]
    split
    · simp only [Tab.rising, Bool.and_eq_true, decide_eq_true_eq]; exact ⟨h, by omega, r.2⟩
    · split
      · rename_i e; simp only [Tab.rising, Bool.and_eq_true, decide_eq_true_eq]; exact ⟨h, e ▸ r.2⟩
      · simp only [Tab.rising, Bool.and_eq_true, decide_eq_true_eq]; exact ⟨r.1, ih _ (by omega) r.2⟩

/-- Dropping entries keeps a rising table rising. -/
theorem Tab.rising_filter {α : Type} (t : Tab α) (lo : Nat) (f : Nat × α → Bool) (r : Tab.rising lo t = true) : Tab.rising lo (t.filter f) = true := by
  induction t generalizing lo with
  | nil => rfl
  | cons p q ih =>
    simp only [Tab.rising, Bool.and_eq_true, decide_eq_true_eq] at r
    simp only [List.filter]
    split
    · simp only [Tab.rising, Bool.and_eq_true, decide_eq_true_eq]; exact ⟨r.1, ih _ r.2⟩
    · exact Tab.rising_of_le _ (p.1 + 1) lo (by omega) (ih _ r.2)

/-- A property of every entry is kept by writing an entry that has it. -/
theorem Tab.all_set {α : Type} (t : Tab α) (k : Nat) (v : α) (f : Nat × α → Bool) (h : f (k, v) = true) (r : t.all f = true) :
    (Tab.set t k v).all f = true := by
  induction t with
  | nil => simp [Tab.set, h]
  | cons p q ih =>
    simp only [List.all_cons, Bool.and_eq_true] at r
    simp only [Tab.set]
    split
    · simp [h, r.1, r.2]
    · split
      · simp [h, r.2]
      · simp [r.1, ih r.2]

end Sys2Proof
end

