-- ==== Sys2Proof/Laws/State.lean ====
section
/-!
SUPPORT. The updates of State and of a cell, field by field: what each leaves as it was, and what it writes.
-/
namespace Sys2Proof.Machine

/-! State.setCell. -/

@[simp] theorem State.setCell_now (s : State) (k : Nat) (x : Cell) : (s.setCell k x).now = s.now := rfl
@[simp] theorem State.setCell_rank (s : State) (k : Nat) (x : Cell) : (s.setCell k x).rank = s.rank := rfl
@[simp] theorem State.setCell_ticks (s : State) (k : Nat) (x : Cell) : (s.setCell k x).ticks = s.ticks := rfl
@[simp] theorem State.setCell_agenda (s : State) (k : Nat) (x : Cell) : (s.setCell k x).agenda = s.agenda := rfl
@[simp] theorem State.setCell_cur (s : State) (k : Nat) (x : Cell) : (s.setCell k x).cur = s.cur := rfl
@[simp] theorem State.setCell_moved (s : State) (k : Nat) (x : Cell) : (s.setCell k x).moved = s.moved := rfl
@[simp] theorem State.setCell_podtime (s : State) (k : Nat) (x : Cell) : (s.setCell k x).podtime = s.podtime := rfl
@[simp] theorem State.setCell_mem (s : State) (k : Nat) (x : Cell) : (s.setCell k x).mem = s.mem := rfl
@[simp] theorem State.setCell_lineKey (s : State) (k : Nat) (x : Cell) : (s.setCell k x).lineKey = s.lineKey := rfl
@[simp] theorem State.setCell_poison (s : State) (k : Nat) (x : Cell) : (s.setCell k x).poison = s.poison := rfl
@[simp] theorem State.setCell_latent (s : State) (k : Nat) (x : Cell) : (s.setCell k x).latent = s.latent := rfl
@[simp] theorem State.setCell_clusters (s : State) (k : Nat) (x : Cell) : (s.setCell k x).clusters = s.clusters := rfl
@[simp] theorem State.setCell_dies (s : State) (k : Nat) (x : Cell) : (s.setCell k x).dies = s.dies := rfl
@[simp] theorem State.setCell_gangs (s : State) (k : Nat) (x : Cell) : (s.setCell k x).gangs = s.gangs := rfl
@[simp] theorem State.setCell_regs (s : State) (k : Nat) (x : Cell) : (s.setCell k x).regs = s.regs := rfl
@[simp] theorem State.setCell_keySlots (s : State) (k : Nat) (x : Cell) : (s.setCell k x).keySlots = s.keySlots := rfl
@[simp] theorem State.setCell_writes (s : State) (k : Nat) (x : Cell) : (s.setCell k x).writes = s.writes := rfl
@[simp] theorem State.setCell_tlbinvBusy (s : State) (k : Nat) (x : Cell) : (s.setCell k x).tlbinvBusy = s.tlbinvBusy := rfl
@[simp] theorem State.setCell_ports (s : State) (k : Nat) (x : Cell) : (s.setCell k x).ports = s.ports := rfl
@[simp] theorem State.setCell_conns (s : State) (k : Nat) (x : Cell) : (s.setCell k x).conns = s.conns := rfl
@[simp] theorem State.setCell_resident (s : State) (k : Nat) (x : Cell) : (s.setCell k x).resident = s.resident := rfl
@[simp] theorem State.setCell_selfq (s : State) (k : Nat) (x : Cell) : (s.setCell k x).selfq = s.selfq := rfl
@[simp] theorem State.setCell_netq (s : State) (k : Nat) (x : Cell) : (s.setCell k x).netq = s.netq := rfl
@[simp] theorem State.setCell_ordered (s : State) (k : Nat) (x : Cell) : (s.setCell k x).ordered = s.ordered := rfl
@[simp] theorem State.setCell_delivered (s : State) (k : Nat) (x : Cell) : (s.setCell k x).delivered = s.delivered := rfl
@[simp] theorem State.setCell_oseq (s : State) (k : Nat) (x : Cell) : (s.setCell k x).oseq = s.oseq := rfl
@[simp] theorem State.setCell_redux (s : State) (k : Nat) (x : Cell) : (s.setCell k x).redux = s.redux := rfl
@[simp] theorem State.setCell_redHeld (s : State) (k : Nat) (x : Cell) : (s.setCell k x).redHeld = s.redHeld := rfl
@[simp] theorem State.setCell_hostq (s : State) (k : Nat) (x : Cell) : (s.setCell k x).hostq = s.hostq := rfl
@[simp] theorem State.setCell_sendq (s : State) (k : Nat) (x : Cell) : (s.setCell k x).sendq = s.sendq := rfl
@[simp] theorem State.setCell_reads (s : State) (k : Nat) (x : Cell) : (s.setCell k x).reads = s.reads := rfl
@[simp] theorem State.setCell_locked (s : State) (k : Nat) (x : Cell) : (s.setCell k x).locked = s.locked := rfl
@[simp] theorem State.setCell_heard (s : State) (k : Nat) (x : Cell) : (s.setCell k x).heard = s.heard := rfl
@[simp] theorem State.setCell_slew (s : State) (k : Nat) (x : Cell) : (s.setCell k x).slew = s.slew := rfl
@[simp] theorem State.setCell_slewAt (s : State) (k : Nat) (x : Cell) : (s.setCell k x).slewAt = s.slewAt := rfl
@[simp] theorem State.setCell_booted (s : State) (k : Nat) (x : Cell) : (s.setCell k x).booted = s.booted := rfl
@[simp] theorem State.setCell_bootStep (s : State) (k : Nat) (x : Cell) : (s.setCell k x).bootStep = s.bootStep := rfl
@[simp] theorem State.setCell_bootAt (s : State) (k : Nat) (x : Cell) : (s.setCell k x).bootAt = s.bootAt := rfl
@[simp] theorem State.setCell_fuses (s : State) (k : Nat) (x : Cell) : (s.setCell k x).fuses = s.fuses := rfl
@[simp] theorem State.setCell_meas (s : State) (k : Nat) (x : Cell) : (s.setCell k x).meas = s.meas := rfl
@[simp] theorem State.setCell_configured (s : State) (k : Nat) (x : Cell) : (s.setCell k x).configured = s.configured := rfl
@[simp] theorem State.setCell_flash (s : State) (k : Nat) (x : Cell) : (s.setCell k x).flash = s.flash := rfl
@[simp] theorem State.setCell_report (s : State) (k : Nat) (x : Cell) : (s.setCell k x).report = s.report := rfl
@[simp] theorem State.setCell_alarms (s : State) (k : Nat) (x : Cell) : (s.setCell k x).alarms = s.alarms := rfl
@[simp] theorem State.setCell_hours (s : State) (k : Nat) (x : Cell) : (s.setCell k x).hours = s.hours := rfl
@[simp] theorem State.setCell_hourAt (s : State) (k : Nat) (x : Cell) : (s.setCell k x).hourAt = s.hourAt := rfl
@[simp] theorem State.setCell_powerAt (s : State) (k : Nat) (x : Cell) : (s.setCell k x).powerAt = s.powerAt := rfl
@[simp] theorem State.setCell_energy (s : State) (k : Nat) (x : Cell) : (s.setCell k x).energy = s.energy := rfl

@[simp] theorem State.cell_setCell (s : State) (k : Nat) (x : Cell) : (s.setCell k x).cell k = x := Tab.get_set _ _ _ _
theorem State.cell_setCell_ne (s : State) (k j : Nat) (x : Cell) (h : j ≠ k) : (s.setCell k x).cell j = s.cell j := Tab.get_set_ne _ _ _ _ _ h
@[simp] theorem State.cluster_setCell (s : State) (k j : Nat) (x : Cell) : (s.setCell k x).cluster j = s.cluster j := rfl
@[simp] theorem State.die_setCell (s : State) (k j : Nat) (x : Cell) : (s.setCell k x).die j = s.die j := rfl
@[simp] theorem State.port_setCell (s : State) (k j : Nat) (x : Cell) : (s.setCell k x).port j = s.port j := rfl
@[simp] theorem State.conn_setCell (s : State) (k j : Nat) (x : Cell) : (s.setCell k x).conn j = s.conn j := rfl

/-! State.setCluster. -/

@[simp] theorem State.setCluster_now (s : State) (k : Nat) (x : Cluster) : (s.setCluster k x).now = s.now := rfl
@[simp] theorem State.setCluster_rank (s : State) (k : Nat) (x : Cluster) : (s.setCluster k x).rank = s.rank := rfl
@[simp] theorem State.setCluster_ticks (s : State) (k : Nat) (x : Cluster) : (s.setCluster k x).ticks = s.ticks := rfl
@[simp] theorem State.setCluster_agenda (s : State) (k : Nat) (x : Cluster) : (s.setCluster k x).agenda = s.agenda := rfl
@[simp] theorem State.setCluster_cur (s : State) (k : Nat) (x : Cluster) : (s.setCluster k x).cur = s.cur := rfl
@[simp] theorem State.setCluster_moved (s : State) (k : Nat) (x : Cluster) : (s.setCluster k x).moved = s.moved := rfl
@[simp] theorem State.setCluster_podtime (s : State) (k : Nat) (x : Cluster) : (s.setCluster k x).podtime = s.podtime := rfl
@[simp] theorem State.setCluster_mem (s : State) (k : Nat) (x : Cluster) : (s.setCluster k x).mem = s.mem := rfl
@[simp] theorem State.setCluster_lineKey (s : State) (k : Nat) (x : Cluster) : (s.setCluster k x).lineKey = s.lineKey := rfl
@[simp] theorem State.setCluster_poison (s : State) (k : Nat) (x : Cluster) : (s.setCluster k x).poison = s.poison := rfl
@[simp] theorem State.setCluster_latent (s : State) (k : Nat) (x : Cluster) : (s.setCluster k x).latent = s.latent := rfl
@[simp] theorem State.setCluster_cells (s : State) (k : Nat) (x : Cluster) : (s.setCluster k x).cells = s.cells := rfl
@[simp] theorem State.setCluster_dies (s : State) (k : Nat) (x : Cluster) : (s.setCluster k x).dies = s.dies := rfl
@[simp] theorem State.setCluster_gangs (s : State) (k : Nat) (x : Cluster) : (s.setCluster k x).gangs = s.gangs := rfl
@[simp] theorem State.setCluster_regs (s : State) (k : Nat) (x : Cluster) : (s.setCluster k x).regs = s.regs := rfl
@[simp] theorem State.setCluster_keySlots (s : State) (k : Nat) (x : Cluster) : (s.setCluster k x).keySlots = s.keySlots := rfl
@[simp] theorem State.setCluster_writes (s : State) (k : Nat) (x : Cluster) : (s.setCluster k x).writes = s.writes := rfl
@[simp] theorem State.setCluster_tlbinvBusy (s : State) (k : Nat) (x : Cluster) : (s.setCluster k x).tlbinvBusy = s.tlbinvBusy := rfl
@[simp] theorem State.setCluster_ports (s : State) (k : Nat) (x : Cluster) : (s.setCluster k x).ports = s.ports := rfl
@[simp] theorem State.setCluster_conns (s : State) (k : Nat) (x : Cluster) : (s.setCluster k x).conns = s.conns := rfl
@[simp] theorem State.setCluster_resident (s : State) (k : Nat) (x : Cluster) : (s.setCluster k x).resident = s.resident := rfl
@[simp] theorem State.setCluster_selfq (s : State) (k : Nat) (x : Cluster) : (s.setCluster k x).selfq = s.selfq := rfl
@[simp] theorem State.setCluster_netq (s : State) (k : Nat) (x : Cluster) : (s.setCluster k x).netq = s.netq := rfl
@[simp] theorem State.setCluster_ordered (s : State) (k : Nat) (x : Cluster) : (s.setCluster k x).ordered = s.ordered := rfl
@[simp] theorem State.setCluster_delivered (s : State) (k : Nat) (x : Cluster) : (s.setCluster k x).delivered = s.delivered := rfl
@[simp] theorem State.setCluster_oseq (s : State) (k : Nat) (x : Cluster) : (s.setCluster k x).oseq = s.oseq := rfl
@[simp] theorem State.setCluster_redux (s : State) (k : Nat) (x : Cluster) : (s.setCluster k x).redux = s.redux := rfl
@[simp] theorem State.setCluster_redHeld (s : State) (k : Nat) (x : Cluster) : (s.setCluster k x).redHeld = s.redHeld := rfl
@[simp] theorem State.setCluster_hostq (s : State) (k : Nat) (x : Cluster) : (s.setCluster k x).hostq = s.hostq := rfl
@[simp] theorem State.setCluster_sendq (s : State) (k : Nat) (x : Cluster) : (s.setCluster k x).sendq = s.sendq := rfl
@[simp] theorem State.setCluster_reads (s : State) (k : Nat) (x : Cluster) : (s.setCluster k x).reads = s.reads := rfl
@[simp] theorem State.setCluster_locked (s : State) (k : Nat) (x : Cluster) : (s.setCluster k x).locked = s.locked := rfl
@[simp] theorem State.setCluster_heard (s : State) (k : Nat) (x : Cluster) : (s.setCluster k x).heard = s.heard := rfl
@[simp] theorem State.setCluster_slew (s : State) (k : Nat) (x : Cluster) : (s.setCluster k x).slew = s.slew := rfl
@[simp] theorem State.setCluster_slewAt (s : State) (k : Nat) (x : Cluster) : (s.setCluster k x).slewAt = s.slewAt := rfl
@[simp] theorem State.setCluster_booted (s : State) (k : Nat) (x : Cluster) : (s.setCluster k x).booted = s.booted := rfl
@[simp] theorem State.setCluster_bootStep (s : State) (k : Nat) (x : Cluster) : (s.setCluster k x).bootStep = s.bootStep := rfl
@[simp] theorem State.setCluster_bootAt (s : State) (k : Nat) (x : Cluster) : (s.setCluster k x).bootAt = s.bootAt := rfl
@[simp] theorem State.setCluster_fuses (s : State) (k : Nat) (x : Cluster) : (s.setCluster k x).fuses = s.fuses := rfl
@[simp] theorem State.setCluster_meas (s : State) (k : Nat) (x : Cluster) : (s.setCluster k x).meas = s.meas := rfl
@[simp] theorem State.setCluster_configured (s : State) (k : Nat) (x : Cluster) : (s.setCluster k x).configured = s.configured := rfl
@[simp] theorem State.setCluster_flash (s : State) (k : Nat) (x : Cluster) : (s.setCluster k x).flash = s.flash := rfl
@[simp] theorem State.setCluster_report (s : State) (k : Nat) (x : Cluster) : (s.setCluster k x).report = s.report := rfl
@[simp] theorem State.setCluster_alarms (s : State) (k : Nat) (x : Cluster) : (s.setCluster k x).alarms = s.alarms := rfl
@[simp] theorem State.setCluster_hours (s : State) (k : Nat) (x : Cluster) : (s.setCluster k x).hours = s.hours := rfl
@[simp] theorem State.setCluster_hourAt (s : State) (k : Nat) (x : Cluster) : (s.setCluster k x).hourAt = s.hourAt := rfl
@[simp] theorem State.setCluster_powerAt (s : State) (k : Nat) (x : Cluster) : (s.setCluster k x).powerAt = s.powerAt := rfl
@[simp] theorem State.setCluster_energy (s : State) (k : Nat) (x : Cluster) : (s.setCluster k x).energy = s.energy := rfl

@[simp] theorem State.cluster_setCluster (s : State) (k : Nat) (x : Cluster) : (s.setCluster k x).cluster k = x := Tab.get_set _ _ _ _
theorem State.cluster_setCluster_ne (s : State) (k j : Nat) (x : Cluster) (h : j ≠ k) : (s.setCluster k x).cluster j = s.cluster j := Tab.get_set_ne _ _ _ _ _ h
@[simp] theorem State.cell_setCluster (s : State) (k j : Nat) (x : Cluster) : (s.setCluster k x).cell j = s.cell j := rfl
@[simp] theorem State.die_setCluster (s : State) (k j : Nat) (x : Cluster) : (s.setCluster k x).die j = s.die j := rfl
@[simp] theorem State.port_setCluster (s : State) (k j : Nat) (x : Cluster) : (s.setCluster k x).port j = s.port j := rfl
@[simp] theorem State.conn_setCluster (s : State) (k j : Nat) (x : Cluster) : (s.setCluster k x).conn j = s.conn j := rfl

/-! State.setDie. -/

@[simp] theorem State.setDie_now (s : State) (k : Nat) (x : Die) : (s.setDie k x).now = s.now := rfl
@[simp] theorem State.setDie_rank (s : State) (k : Nat) (x : Die) : (s.setDie k x).rank = s.rank := rfl
@[simp] theorem State.setDie_ticks (s : State) (k : Nat) (x : Die) : (s.setDie k x).ticks = s.ticks := rfl
@[simp] theorem State.setDie_agenda (s : State) (k : Nat) (x : Die) : (s.setDie k x).agenda = s.agenda := rfl
@[simp] theorem State.setDie_cur (s : State) (k : Nat) (x : Die) : (s.setDie k x).cur = s.cur := rfl
@[simp] theorem State.setDie_moved (s : State) (k : Nat) (x : Die) : (s.setDie k x).moved = s.moved := rfl
@[simp] theorem State.setDie_podtime (s : State) (k : Nat) (x : Die) : (s.setDie k x).podtime = s.podtime := rfl
@[simp] theorem State.setDie_mem (s : State) (k : Nat) (x : Die) : (s.setDie k x).mem = s.mem := rfl
@[simp] theorem State.setDie_lineKey (s : State) (k : Nat) (x : Die) : (s.setDie k x).lineKey = s.lineKey := rfl
@[simp] theorem State.setDie_poison (s : State) (k : Nat) (x : Die) : (s.setDie k x).poison = s.poison := rfl
@[simp] theorem State.setDie_latent (s : State) (k : Nat) (x : Die) : (s.setDie k x).latent = s.latent := rfl
@[simp] theorem State.setDie_cells (s : State) (k : Nat) (x : Die) : (s.setDie k x).cells = s.cells := rfl
@[simp] theorem State.setDie_clusters (s : State) (k : Nat) (x : Die) : (s.setDie k x).clusters = s.clusters := rfl
@[simp] theorem State.setDie_gangs (s : State) (k : Nat) (x : Die) : (s.setDie k x).gangs = s.gangs := rfl
@[simp] theorem State.setDie_regs (s : State) (k : Nat) (x : Die) : (s.setDie k x).regs = s.regs := rfl
@[simp] theorem State.setDie_keySlots (s : State) (k : Nat) (x : Die) : (s.setDie k x).keySlots = s.keySlots := rfl
@[simp] theorem State.setDie_writes (s : State) (k : Nat) (x : Die) : (s.setDie k x).writes = s.writes := rfl
@[simp] theorem State.setDie_tlbinvBusy (s : State) (k : Nat) (x : Die) : (s.setDie k x).tlbinvBusy = s.tlbinvBusy := rfl
@[simp] theorem State.setDie_ports (s : State) (k : Nat) (x : Die) : (s.setDie k x).ports = s.ports := rfl
@[simp] theorem State.setDie_conns (s : State) (k : Nat) (x : Die) : (s.setDie k x).conns = s.conns := rfl
@[simp] theorem State.setDie_resident (s : State) (k : Nat) (x : Die) : (s.setDie k x).resident = s.resident := rfl
@[simp] theorem State.setDie_selfq (s : State) (k : Nat) (x : Die) : (s.setDie k x).selfq = s.selfq := rfl
@[simp] theorem State.setDie_netq (s : State) (k : Nat) (x : Die) : (s.setDie k x).netq = s.netq := rfl
@[simp] theorem State.setDie_ordered (s : State) (k : Nat) (x : Die) : (s.setDie k x).ordered = s.ordered := rfl
@[simp] theorem State.setDie_delivered (s : State) (k : Nat) (x : Die) : (s.setDie k x).delivered = s.delivered := rfl
@[simp] theorem State.setDie_oseq (s : State) (k : Nat) (x : Die) : (s.setDie k x).oseq = s.oseq := rfl
@[simp] theorem State.setDie_redux (s : State) (k : Nat) (x : Die) : (s.setDie k x).redux = s.redux := rfl
@[simp] theorem State.setDie_redHeld (s : State) (k : Nat) (x : Die) : (s.setDie k x).redHeld = s.redHeld := rfl
@[simp] theorem State.setDie_hostq (s : State) (k : Nat) (x : Die) : (s.setDie k x).hostq = s.hostq := rfl
@[simp] theorem State.setDie_sendq (s : State) (k : Nat) (x : Die) : (s.setDie k x).sendq = s.sendq := rfl
@[simp] theorem State.setDie_reads (s : State) (k : Nat) (x : Die) : (s.setDie k x).reads = s.reads := rfl
@[simp] theorem State.setDie_locked (s : State) (k : Nat) (x : Die) : (s.setDie k x).locked = s.locked := rfl
@[simp] theorem State.setDie_heard (s : State) (k : Nat) (x : Die) : (s.setDie k x).heard = s.heard := rfl
@[simp] theorem State.setDie_slew (s : State) (k : Nat) (x : Die) : (s.setDie k x).slew = s.slew := rfl
@[simp] theorem State.setDie_slewAt (s : State) (k : Nat) (x : Die) : (s.setDie k x).slewAt = s.slewAt := rfl
@[simp] theorem State.setDie_booted (s : State) (k : Nat) (x : Die) : (s.setDie k x).booted = s.booted := rfl
@[simp] theorem State.setDie_bootStep (s : State) (k : Nat) (x : Die) : (s.setDie k x).bootStep = s.bootStep := rfl
@[simp] theorem State.setDie_bootAt (s : State) (k : Nat) (x : Die) : (s.setDie k x).bootAt = s.bootAt := rfl
@[simp] theorem State.setDie_fuses (s : State) (k : Nat) (x : Die) : (s.setDie k x).fuses = s.fuses := rfl
@[simp] theorem State.setDie_meas (s : State) (k : Nat) (x : Die) : (s.setDie k x).meas = s.meas := rfl
@[simp] theorem State.setDie_configured (s : State) (k : Nat) (x : Die) : (s.setDie k x).configured = s.configured := rfl
@[simp] theorem State.setDie_flash (s : State) (k : Nat) (x : Die) : (s.setDie k x).flash = s.flash := rfl
@[simp] theorem State.setDie_report (s : State) (k : Nat) (x : Die) : (s.setDie k x).report = s.report := rfl
@[simp] theorem State.setDie_alarms (s : State) (k : Nat) (x : Die) : (s.setDie k x).alarms = s.alarms := rfl
@[simp] theorem State.setDie_hours (s : State) (k : Nat) (x : Die) : (s.setDie k x).hours = s.hours := rfl
@[simp] theorem State.setDie_hourAt (s : State) (k : Nat) (x : Die) : (s.setDie k x).hourAt = s.hourAt := rfl
@[simp] theorem State.setDie_powerAt (s : State) (k : Nat) (x : Die) : (s.setDie k x).powerAt = s.powerAt := rfl
@[simp] theorem State.setDie_energy (s : State) (k : Nat) (x : Die) : (s.setDie k x).energy = s.energy := rfl

@[simp] theorem State.die_setDie (s : State) (k : Nat) (x : Die) : (s.setDie k x).die k = x := Tab.get_set _ _ _ _
theorem State.die_setDie_ne (s : State) (k j : Nat) (x : Die) (h : j ≠ k) : (s.setDie k x).die j = s.die j := Tab.get_set_ne _ _ _ _ _ h
@[simp] theorem State.cell_setDie (s : State) (k j : Nat) (x : Die) : (s.setDie k x).cell j = s.cell j := rfl
@[simp] theorem State.cluster_setDie (s : State) (k j : Nat) (x : Die) : (s.setDie k x).cluster j = s.cluster j := rfl
@[simp] theorem State.port_setDie (s : State) (k j : Nat) (x : Die) : (s.setDie k x).port j = s.port j := rfl
@[simp] theorem State.conn_setDie (s : State) (k j : Nat) (x : Die) : (s.setDie k x).conn j = s.conn j := rfl

/-! State.setPort. -/

@[simp] theorem State.setPort_now (s : State) (k : Nat) (x : Port) : (s.setPort k x).now = s.now := rfl
@[simp] theorem State.setPort_rank (s : State) (k : Nat) (x : Port) : (s.setPort k x).rank = s.rank := rfl
@[simp] theorem State.setPort_ticks (s : State) (k : Nat) (x : Port) : (s.setPort k x).ticks = s.ticks := rfl
@[simp] theorem State.setPort_agenda (s : State) (k : Nat) (x : Port) : (s.setPort k x).agenda = s.agenda := rfl
@[simp] theorem State.setPort_cur (s : State) (k : Nat) (x : Port) : (s.setPort k x).cur = s.cur := rfl
@[simp] theorem State.setPort_moved (s : State) (k : Nat) (x : Port) : (s.setPort k x).moved = s.moved := rfl
@[simp] theorem State.setPort_podtime (s : State) (k : Nat) (x : Port) : (s.setPort k x).podtime = s.podtime := rfl
@[simp] theorem State.setPort_mem (s : State) (k : Nat) (x : Port) : (s.setPort k x).mem = s.mem := rfl
@[simp] theorem State.setPort_lineKey (s : State) (k : Nat) (x : Port) : (s.setPort k x).lineKey = s.lineKey := rfl
@[simp] theorem State.setPort_poison (s : State) (k : Nat) (x : Port) : (s.setPort k x).poison = s.poison := rfl
@[simp] theorem State.setPort_latent (s : State) (k : Nat) (x : Port) : (s.setPort k x).latent = s.latent := rfl
@[simp] theorem State.setPort_cells (s : State) (k : Nat) (x : Port) : (s.setPort k x).cells = s.cells := rfl
@[simp] theorem State.setPort_clusters (s : State) (k : Nat) (x : Port) : (s.setPort k x).clusters = s.clusters := rfl
@[simp] theorem State.setPort_dies (s : State) (k : Nat) (x : Port) : (s.setPort k x).dies = s.dies := rfl
@[simp] theorem State.setPort_gangs (s : State) (k : Nat) (x : Port) : (s.setPort k x).gangs = s.gangs := rfl
@[simp] theorem State.setPort_regs (s : State) (k : Nat) (x : Port) : (s.setPort k x).regs = s.regs := rfl
@[simp] theorem State.setPort_keySlots (s : State) (k : Nat) (x : Port) : (s.setPort k x).keySlots = s.keySlots := rfl
@[simp] theorem State.setPort_writes (s : State) (k : Nat) (x : Port) : (s.setPort k x).writes = s.writes := rfl
@[simp] theorem State.setPort_tlbinvBusy (s : State) (k : Nat) (x : Port) : (s.setPort k x).tlbinvBusy = s.tlbinvBusy := rfl
@[simp] theorem State.setPort_conns (s : State) (k : Nat) (x : Port) : (s.setPort k x).conns = s.conns := rfl
@[simp] theorem State.setPort_resident (s : State) (k : Nat) (x : Port) : (s.setPort k x).resident = s.resident := rfl
@[simp] theorem State.setPort_selfq (s : State) (k : Nat) (x : Port) : (s.setPort k x).selfq = s.selfq := rfl
@[simp] theorem State.setPort_netq (s : State) (k : Nat) (x : Port) : (s.setPort k x).netq = s.netq := rfl
@[simp] theorem State.setPort_ordered (s : State) (k : Nat) (x : Port) : (s.setPort k x).ordered = s.ordered := rfl
@[simp] theorem State.setPort_delivered (s : State) (k : Nat) (x : Port) : (s.setPort k x).delivered = s.delivered := rfl
@[simp] theorem State.setPort_oseq (s : State) (k : Nat) (x : Port) : (s.setPort k x).oseq = s.oseq := rfl
@[simp] theorem State.setPort_redux (s : State) (k : Nat) (x : Port) : (s.setPort k x).redux = s.redux := rfl
@[simp] theorem State.setPort_redHeld (s : State) (k : Nat) (x : Port) : (s.setPort k x).redHeld = s.redHeld := rfl
@[simp] theorem State.setPort_hostq (s : State) (k : Nat) (x : Port) : (s.setPort k x).hostq = s.hostq := rfl
@[simp] theorem State.setPort_sendq (s : State) (k : Nat) (x : Port) : (s.setPort k x).sendq = s.sendq := rfl
@[simp] theorem State.setPort_reads (s : State) (k : Nat) (x : Port) : (s.setPort k x).reads = s.reads := rfl
@[simp] theorem State.setPort_locked (s : State) (k : Nat) (x : Port) : (s.setPort k x).locked = s.locked := rfl
@[simp] theorem State.setPort_heard (s : State) (k : Nat) (x : Port) : (s.setPort k x).heard = s.heard := rfl
@[simp] theorem State.setPort_slew (s : State) (k : Nat) (x : Port) : (s.setPort k x).slew = s.slew := rfl
@[simp] theorem State.setPort_slewAt (s : State) (k : Nat) (x : Port) : (s.setPort k x).slewAt = s.slewAt := rfl
@[simp] theorem State.setPort_booted (s : State) (k : Nat) (x : Port) : (s.setPort k x).booted = s.booted := rfl
@[simp] theorem State.setPort_bootStep (s : State) (k : Nat) (x : Port) : (s.setPort k x).bootStep = s.bootStep := rfl
@[simp] theorem State.setPort_bootAt (s : State) (k : Nat) (x : Port) : (s.setPort k x).bootAt = s.bootAt := rfl
@[simp] theorem State.setPort_fuses (s : State) (k : Nat) (x : Port) : (s.setPort k x).fuses = s.fuses := rfl
@[simp] theorem State.setPort_meas (s : State) (k : Nat) (x : Port) : (s.setPort k x).meas = s.meas := rfl
@[simp] theorem State.setPort_configured (s : State) (k : Nat) (x : Port) : (s.setPort k x).configured = s.configured := rfl
@[simp] theorem State.setPort_flash (s : State) (k : Nat) (x : Port) : (s.setPort k x).flash = s.flash := rfl
@[simp] theorem State.setPort_report (s : State) (k : Nat) (x : Port) : (s.setPort k x).report = s.report := rfl
@[simp] theorem State.setPort_alarms (s : State) (k : Nat) (x : Port) : (s.setPort k x).alarms = s.alarms := rfl
@[simp] theorem State.setPort_hours (s : State) (k : Nat) (x : Port) : (s.setPort k x).hours = s.hours := rfl
@[simp] theorem State.setPort_hourAt (s : State) (k : Nat) (x : Port) : (s.setPort k x).hourAt = s.hourAt := rfl
@[simp] theorem State.setPort_powerAt (s : State) (k : Nat) (x : Port) : (s.setPort k x).powerAt = s.powerAt := rfl
@[simp] theorem State.setPort_energy (s : State) (k : Nat) (x : Port) : (s.setPort k x).energy = s.energy := rfl

@[simp] theorem State.port_setPort (s : State) (k : Nat) (x : Port) : (s.setPort k x).port k = x := Tab.get_set _ _ _ _
theorem State.port_setPort_ne (s : State) (k j : Nat) (x : Port) (h : j ≠ k) : (s.setPort k x).port j = s.port j := Tab.get_set_ne _ _ _ _ _ h
@[simp] theorem State.cell_setPort (s : State) (k j : Nat) (x : Port) : (s.setPort k x).cell j = s.cell j := rfl
@[simp] theorem State.cluster_setPort (s : State) (k j : Nat) (x : Port) : (s.setPort k x).cluster j = s.cluster j := rfl
@[simp] theorem State.die_setPort (s : State) (k j : Nat) (x : Port) : (s.setPort k x).die j = s.die j := rfl
@[simp] theorem State.conn_setPort (s : State) (k j : Nat) (x : Port) : (s.setPort k x).conn j = s.conn j := rfl

/-! State.setConn. -/

@[simp] theorem State.setConn_now (s : State) (k : Nat) (x : Conn) : (s.setConn k x).now = s.now := rfl
@[simp] theorem State.setConn_rank (s : State) (k : Nat) (x : Conn) : (s.setConn k x).rank = s.rank := rfl
@[simp] theorem State.setConn_ticks (s : State) (k : Nat) (x : Conn) : (s.setConn k x).ticks = s.ticks := rfl
@[simp] theorem State.setConn_agenda (s : State) (k : Nat) (x : Conn) : (s.setConn k x).agenda = s.agenda := rfl
@[simp] theorem State.setConn_cur (s : State) (k : Nat) (x : Conn) : (s.setConn k x).cur = s.cur := rfl
@[simp] theorem State.setConn_moved (s : State) (k : Nat) (x : Conn) : (s.setConn k x).moved = s.moved := rfl
@[simp] theorem State.setConn_podtime (s : State) (k : Nat) (x : Conn) : (s.setConn k x).podtime = s.podtime := rfl
@[simp] theorem State.setConn_mem (s : State) (k : Nat) (x : Conn) : (s.setConn k x).mem = s.mem := rfl
@[simp] theorem State.setConn_lineKey (s : State) (k : Nat) (x : Conn) : (s.setConn k x).lineKey = s.lineKey := rfl
@[simp] theorem State.setConn_poison (s : State) (k : Nat) (x : Conn) : (s.setConn k x).poison = s.poison := rfl
@[simp] theorem State.setConn_latent (s : State) (k : Nat) (x : Conn) : (s.setConn k x).latent = s.latent := rfl
@[simp] theorem State.setConn_cells (s : State) (k : Nat) (x : Conn) : (s.setConn k x).cells = s.cells := rfl
@[simp] theorem State.setConn_clusters (s : State) (k : Nat) (x : Conn) : (s.setConn k x).clusters = s.clusters := rfl
@[simp] theorem State.setConn_dies (s : State) (k : Nat) (x : Conn) : (s.setConn k x).dies = s.dies := rfl
@[simp] theorem State.setConn_gangs (s : State) (k : Nat) (x : Conn) : (s.setConn k x).gangs = s.gangs := rfl
@[simp] theorem State.setConn_regs (s : State) (k : Nat) (x : Conn) : (s.setConn k x).regs = s.regs := rfl
@[simp] theorem State.setConn_keySlots (s : State) (k : Nat) (x : Conn) : (s.setConn k x).keySlots = s.keySlots := rfl
@[simp] theorem State.setConn_writes (s : State) (k : Nat) (x : Conn) : (s.setConn k x).writes = s.writes := rfl
@[simp] theorem State.setConn_tlbinvBusy (s : State) (k : Nat) (x : Conn) : (s.setConn k x).tlbinvBusy = s.tlbinvBusy := rfl
@[simp] theorem State.setConn_ports (s : State) (k : Nat) (x : Conn) : (s.setConn k x).ports = s.ports := rfl
@[simp] theorem State.setConn_resident (s : State) (k : Nat) (x : Conn) : (s.setConn k x).resident = s.resident := rfl
@[simp] theorem State.setConn_selfq (s : State) (k : Nat) (x : Conn) : (s.setConn k x).selfq = s.selfq := rfl
@[simp] theorem State.setConn_netq (s : State) (k : Nat) (x : Conn) : (s.setConn k x).netq = s.netq := rfl
@[simp] theorem State.setConn_ordered (s : State) (k : Nat) (x : Conn) : (s.setConn k x).ordered = s.ordered := rfl
@[simp] theorem State.setConn_delivered (s : State) (k : Nat) (x : Conn) : (s.setConn k x).delivered = s.delivered := rfl
@[simp] theorem State.setConn_oseq (s : State) (k : Nat) (x : Conn) : (s.setConn k x).oseq = s.oseq := rfl
@[simp] theorem State.setConn_redux (s : State) (k : Nat) (x : Conn) : (s.setConn k x).redux = s.redux := rfl
@[simp] theorem State.setConn_redHeld (s : State) (k : Nat) (x : Conn) : (s.setConn k x).redHeld = s.redHeld := rfl
@[simp] theorem State.setConn_hostq (s : State) (k : Nat) (x : Conn) : (s.setConn k x).hostq = s.hostq := rfl
@[simp] theorem State.setConn_sendq (s : State) (k : Nat) (x : Conn) : (s.setConn k x).sendq = s.sendq := rfl
@[simp] theorem State.setConn_reads (s : State) (k : Nat) (x : Conn) : (s.setConn k x).reads = s.reads := rfl
@[simp] theorem State.setConn_locked (s : State) (k : Nat) (x : Conn) : (s.setConn k x).locked = s.locked := rfl
@[simp] theorem State.setConn_heard (s : State) (k : Nat) (x : Conn) : (s.setConn k x).heard = s.heard := rfl
@[simp] theorem State.setConn_slew (s : State) (k : Nat) (x : Conn) : (s.setConn k x).slew = s.slew := rfl
@[simp] theorem State.setConn_slewAt (s : State) (k : Nat) (x : Conn) : (s.setConn k x).slewAt = s.slewAt := rfl
@[simp] theorem State.setConn_booted (s : State) (k : Nat) (x : Conn) : (s.setConn k x).booted = s.booted := rfl
@[simp] theorem State.setConn_bootStep (s : State) (k : Nat) (x : Conn) : (s.setConn k x).bootStep = s.bootStep := rfl
@[simp] theorem State.setConn_bootAt (s : State) (k : Nat) (x : Conn) : (s.setConn k x).bootAt = s.bootAt := rfl
@[simp] theorem State.setConn_fuses (s : State) (k : Nat) (x : Conn) : (s.setConn k x).fuses = s.fuses := rfl
@[simp] theorem State.setConn_meas (s : State) (k : Nat) (x : Conn) : (s.setConn k x).meas = s.meas := rfl
@[simp] theorem State.setConn_configured (s : State) (k : Nat) (x : Conn) : (s.setConn k x).configured = s.configured := rfl
@[simp] theorem State.setConn_flash (s : State) (k : Nat) (x : Conn) : (s.setConn k x).flash = s.flash := rfl
@[simp] theorem State.setConn_report (s : State) (k : Nat) (x : Conn) : (s.setConn k x).report = s.report := rfl
@[simp] theorem State.setConn_alarms (s : State) (k : Nat) (x : Conn) : (s.setConn k x).alarms = s.alarms := rfl
@[simp] theorem State.setConn_hours (s : State) (k : Nat) (x : Conn) : (s.setConn k x).hours = s.hours := rfl
@[simp] theorem State.setConn_hourAt (s : State) (k : Nat) (x : Conn) : (s.setConn k x).hourAt = s.hourAt := rfl
@[simp] theorem State.setConn_powerAt (s : State) (k : Nat) (x : Conn) : (s.setConn k x).powerAt = s.powerAt := rfl
@[simp] theorem State.setConn_energy (s : State) (k : Nat) (x : Conn) : (s.setConn k x).energy = s.energy := rfl

@[simp] theorem State.conn_setConn (s : State) (k : Nat) (x : Conn) : (s.setConn k x).conn k = x := Tab.get_set _ _ _ _
theorem State.conn_setConn_ne (s : State) (k j : Nat) (x : Conn) (h : j ≠ k) : (s.setConn k x).conn j = s.conn j := Tab.get_set_ne _ _ _ _ _ h
@[simp] theorem State.cell_setConn (s : State) (k j : Nat) (x : Conn) : (s.setConn k x).cell j = s.cell j := rfl
@[simp] theorem State.cluster_setConn (s : State) (k j : Nat) (x : Conn) : (s.setConn k x).cluster j = s.cluster j := rfl
@[simp] theorem State.die_setConn (s : State) (k j : Nat) (x : Conn) : (s.setConn k x).die j = s.die j := rfl
@[simp] theorem State.port_setConn (s : State) (k j : Nat) (x : Conn) : (s.setConn k x).port j = s.port j := rfl

/-! Cell.setAgent. -/

@[simp] theorem Cell.setAgent_tile (s : Cell) (e : Engine) (a : Agent) : (s.setAgent e a).tile = s.tile := rfl
@[simp] theorem Cell.setAgent_g (s : Cell) (e : Engine) (a : Agent) : (s.setAgent e a).g = s.g := rfl
@[simp] theorem Cell.setAgent_gpast (s : Cell) (e : Engine) (a : Agent) : (s.setAgent e a).gpast = s.gpast := rfl
@[simp] theorem Cell.setAgent_v (s : Cell) (e : Engine) (a : Agent) : (s.setAgent e a).v = s.v := rfl
@[simp] theorem Cell.setAgent_m (s : Cell) (e : Engine) (a : Agent) : (s.setAgent e a).m = s.m := rfl
@[simp] theorem Cell.setAgent_k (s : Cell) (e : Engine) (a : Agent) : (s.setAgent e a).k = s.k := rfl
@[simp] theorem Cell.setAgent_s (s : Cell) (e : Engine) (a : Agent) : (s.setAgent e a).s = s.s := rfl
@[simp] theorem Cell.setAgent_lent (s : Cell) (e : Engine) (a : Agent) : (s.setAgent e a).lent = s.lent := rfl
@[simp] theorem Cell.setAgent_chans (s : Cell) (e : Engine) (a : Agent) : (s.setAgent e a).chans = s.chans := rfl
@[simp] theorem Cell.setAgent_tokens (s : Cell) (e : Engine) (a : Agent) : (s.setAgent e a).tokens = s.tokens := rfl
@[simp] theorem Cell.setAgent_outq (s : Cell) (e : Engine) (a : Agent) : (s.setAgent e a).outq = s.outq := rfl
@[simp] theorem Cell.setAgent_slipwin (s : Cell) (e : Engine) (a : Agent) : (s.setAgent e a).slipwin = s.slipwin := rfl
@[simp] theorem Cell.setAgent_vshape (s : Cell) (e : Engine) (a : Agent) : (s.setAgent e a).vshape = s.vshape := rfl
@[simp] theorem Cell.setAgent_vstat (s : Cell) (e : Engine) (a : Agent) : (s.setAgent e a).vstat = s.vstat := rfl
@[simp] theorem Cell.setAgent_arithctl (s : Cell) (e : Engine) (a : Agent) : (s.setAgent e a).arithctl = s.arithctl := rfl
@[simp] theorem Cell.setAgent_wallow (s : Cell) (e : Engine) (a : Agent) : (s.setAgent e a).wallow = s.wallow := rfl
@[simp] theorem Cell.setAgent_faultrec (s : Cell) (e : Engine) (a : Agent) : (s.setAgent e a).faultrec = s.faultrec := rfl
@[simp] theorem Cell.setAgent_lstride (s : Cell) (e : Engine) (a : Agent) : (s.setAgent e a).lstride = s.lstride := rfl
@[simp] theorem Cell.setAgent_netp (s : Cell) (e : Engine) (a : Agent) : (s.setAgent e a).netp = s.netp := rfl
@[simp] theorem Cell.setAgent_netAt (s : Cell) (e : Engine) (a : Agent) : (s.setAgent e a).netAt = s.netAt := rfl
@[simp] theorem Cell.setAgent_loads (s : Cell) (e : Engine) (a : Agent) : (s.setAgent e a).loads = s.loads := rfl
@[simp] theorem Cell.setAgent_returning (s : Cell) (e : Engine) (a : Agent) : (s.setAgent e a).returning = s.returning := rfl
@[simp] theorem Cell.setAgent_stores (s : Cell) (e : Engine) (a : Agent) : (s.setAgent e a).stores = s.stores := rfl
@[simp] theorem Cell.setAgent_hold (s : Cell) (e : Engine) (a : Agent) : (s.setAgent e a).hold = s.hold := rfl
@[simp] theorem Cell.setAgent_pend (s : Cell) (e : Engine) (a : Agent) : (s.setAgent e a).pend = s.pend := rfl
@[simp] theorem Cell.setAgent_vpre (s : Cell) (e : Engine) (a : Agent) : (s.setAgent e a).vpre = s.vpre := rfl
@[simp] theorem Cell.setAgent_vahead (s : Cell) (e : Engine) (a : Agent) : (s.setAgent e a).vahead = s.vahead := rfl
@[simp] theorem Cell.setAgent_tails (s : Cell) (e : Engine) (a : Agent) : (s.setAgent e a).tails = s.tails := rfl
@[simp] theorem Cell.setAgent_nextId (s : Cell) (e : Engine) (a : Agent) : (s.setAgent e a).nextId = s.nextId := rfl
@[simp] theorem Cell.setAgent_sop (s : Cell) (e : Engine) (a : Agent) : (s.setAgent e a).sop = s.sop := rfl
@[simp] theorem Cell.setAgent_gb (s : Cell) (e : Engine) (a : Agent) : (s.setAgent e a).gb = s.gb := rfl
@[simp] theorem Cell.setAgent_gbq (s : Cell) (e : Engine) (a : Agent) : (s.setAgent e a).gbq = s.gbq := rfl
@[simp] theorem Cell.setAgent_gbacks (s : Cell) (e : Engine) (a : Agent) : (s.setAgent e a).gbacks = s.gbacks := rfl
@[simp] theorem Cell.setAgent_dq (s : Cell) (e : Engine) (a : Agent) : (s.setAgent e a).dq = s.dq := rfl
@[simp] theorem Cell.setAgent_ftop (s : Cell) (e : Engine) (a : Agent) : (s.setAgent e a).ftop = s.ftop := rfl
@[simp] theorem Cell.setAgent_fgen (s : Cell) (e : Engine) (a : Agent) : (s.setAgent e a).fgen = s.fgen := rfl
@[simp] theorem Cell.setAgent_jobs (s : Cell) (e : Engine) (a : Agent) : (s.setAgent e a).jobs = s.jobs := rfl
@[simp] theorem Cell.setAgent_xbar (s : Cell) (e : Engine) (a : Agent) : (s.setAgent e a).xbar = s.xbar := rfl
@[simp] theorem Cell.setAgent_fcache (s : Cell) (e : Engine) (a : Agent) : (s.setAgent e a).fcache = s.fcache := rfl
@[simp] theorem Cell.setAgent_text (s : Cell) (e : Engine) (a : Agent) : (s.setAgent e a).text = s.text := rfl
@[simp] theorem Cell.setAgent_textKey (s : Cell) (e : Engine) (a : Agent) : (s.setAgent e a).textKey = s.textKey := rfl
@[simp] theorem Cell.setAgent_stlb (s : Cell) (e : Engine) (a : Agent) : (s.setAgent e a).stlb = s.stlb := rfl
@[simp] theorem Cell.setAgent_vtlb (s : Cell) (e : Engine) (a : Agent) : (s.setAgent e a).vtlb = s.vtlb := rfl
@[simp] theorem Cell.setAgent_mtlb (s : Cell) (e : Engine) (a : Agent) : (s.setAgent e a).mtlb = s.mtlb := rfl
@[simp] theorem Cell.setAgent_xtlb (s : Cell) (e : Engine) (a : Agent) : (s.setAgent e a).xtlb = s.xtlb := rfl
@[simp] theorem Cell.setAgent_lastPass (s : Cell) (e : Engine) (a : Agent) : (s.setAgent e a).lastPass = s.lastPass := rfl
@[simp] theorem Cell.setAgent_leaseSaved (s : Cell) (e : Engine) (a : Agent) : (s.setAgent e a).leaseSaved = s.leaseSaved := rfl
@[simp] theorem Cell.setAgent_granted (s : Cell) (e : Engine) (a : Agent) : (s.setAgent e a).granted = s.granted := rfl
@[simp] theorem Cell.setAgent_mlog (s : Cell) (e : Engine) (a : Agent) : (s.setAgent e a).mlog = s.mlog := rfl
@[simp] theorem Cell.setAgent_saved (s : Cell) (e : Engine) (a : Agent) : (s.setAgent e a).saved = s.saved := rfl
@[simp] theorem Cell.setAgent_upset (s : Cell) (e : Engine) (a : Agent) : (s.setAgent e a).upset = s.upset := rfl

/-! Cell.setChan. -/

@[simp] theorem Cell.setChan_tile (s : Cell) (n : Nat) (h : Chan) : (s.setChan n h).tile = s.tile := rfl
@[simp] theorem Cell.setChan_g (s : Cell) (n : Nat) (h : Chan) : (s.setChan n h).g = s.g := rfl
@[simp] theorem Cell.setChan_gpast (s : Cell) (n : Nat) (h : Chan) : (s.setChan n h).gpast = s.gpast := rfl
@[simp] theorem Cell.setChan_v (s : Cell) (n : Nat) (h : Chan) : (s.setChan n h).v = s.v := rfl
@[simp] theorem Cell.setChan_m (s : Cell) (n : Nat) (h : Chan) : (s.setChan n h).m = s.m := rfl
@[simp] theorem Cell.setChan_k (s : Cell) (n : Nat) (h : Chan) : (s.setChan n h).k = s.k := rfl
@[simp] theorem Cell.setChan_s (s : Cell) (n : Nat) (h : Chan) : (s.setChan n h).s = s.s := rfl
@[simp] theorem Cell.setChan_lent (s : Cell) (n : Nat) (h : Chan) : (s.setChan n h).lent = s.lent := rfl
@[simp] theorem Cell.setChan_agents (s : Cell) (n : Nat) (h : Chan) : (s.setChan n h).agents = s.agents := rfl
@[simp] theorem Cell.setChan_tokens (s : Cell) (n : Nat) (h : Chan) : (s.setChan n h).tokens = s.tokens := rfl
@[simp] theorem Cell.setChan_outq (s : Cell) (n : Nat) (h : Chan) : (s.setChan n h).outq = s.outq := rfl
@[simp] theorem Cell.setChan_slipwin (s : Cell) (n : Nat) (h : Chan) : (s.setChan n h).slipwin = s.slipwin := rfl
@[simp] theorem Cell.setChan_vshape (s : Cell) (n : Nat) (h : Chan) : (s.setChan n h).vshape = s.vshape := rfl
@[simp] theorem Cell.setChan_vstat (s : Cell) (n : Nat) (h : Chan) : (s.setChan n h).vstat = s.vstat := rfl
@[simp] theorem Cell.setChan_arithctl (s : Cell) (n : Nat) (h : Chan) : (s.setChan n h).arithctl = s.arithctl := rfl
@[simp] theorem Cell.setChan_wallow (s : Cell) (n : Nat) (h : Chan) : (s.setChan n h).wallow = s.wallow := rfl
@[simp] theorem Cell.setChan_faultrec (s : Cell) (n : Nat) (h : Chan) : (s.setChan n h).faultrec = s.faultrec := rfl
@[simp] theorem Cell.setChan_lstride (s : Cell) (n : Nat) (h : Chan) : (s.setChan n h).lstride = s.lstride := rfl
@[simp] theorem Cell.setChan_netp (s : Cell) (n : Nat) (h : Chan) : (s.setChan n h).netp = s.netp := rfl
@[simp] theorem Cell.setChan_netAt (s : Cell) (n : Nat) (h : Chan) : (s.setChan n h).netAt = s.netAt := rfl
@[simp] theorem Cell.setChan_loads (s : Cell) (n : Nat) (h : Chan) : (s.setChan n h).loads = s.loads := rfl
@[simp] theorem Cell.setChan_returning (s : Cell) (n : Nat) (h : Chan) : (s.setChan n h).returning = s.returning := rfl
@[simp] theorem Cell.setChan_stores (s : Cell) (n : Nat) (h : Chan) : (s.setChan n h).stores = s.stores := rfl
@[simp] theorem Cell.setChan_hold (s : Cell) (n : Nat) (h : Chan) : (s.setChan n h).hold = s.hold := rfl
@[simp] theorem Cell.setChan_pend (s : Cell) (n : Nat) (h : Chan) : (s.setChan n h).pend = s.pend := rfl
@[simp] theorem Cell.setChan_vpre (s : Cell) (n : Nat) (h : Chan) : (s.setChan n h).vpre = s.vpre := rfl
@[simp] theorem Cell.setChan_vahead (s : Cell) (n : Nat) (h : Chan) : (s.setChan n h).vahead = s.vahead := rfl
@[simp] theorem Cell.setChan_tails (s : Cell) (n : Nat) (h : Chan) : (s.setChan n h).tails = s.tails := rfl
@[simp] theorem Cell.setChan_nextId (s : Cell) (n : Nat) (h : Chan) : (s.setChan n h).nextId = s.nextId := rfl
@[simp] theorem Cell.setChan_sop (s : Cell) (n : Nat) (h : Chan) : (s.setChan n h).sop = s.sop := rfl
@[simp] theorem Cell.setChan_gb (s : Cell) (n : Nat) (h : Chan) : (s.setChan n h).gb = s.gb := rfl
@[simp] theorem Cell.setChan_gbq (s : Cell) (n : Nat) (h : Chan) : (s.setChan n h).gbq = s.gbq := rfl
@[simp] theorem Cell.setChan_gbacks (s : Cell) (n : Nat) (h : Chan) : (s.setChan n h).gbacks = s.gbacks := rfl
@[simp] theorem Cell.setChan_dq (s : Cell) (n : Nat) (h : Chan) : (s.setChan n h).dq = s.dq := rfl
@[simp] theorem Cell.setChan_ftop (s : Cell) (n : Nat) (h : Chan) : (s.setChan n h).ftop = s.ftop := rfl
@[simp] theorem Cell.setChan_fgen (s : Cell) (n : Nat) (h : Chan) : (s.setChan n h).fgen = s.fgen := rfl
@[simp] theorem Cell.setChan_jobs (s : Cell) (n : Nat) (h : Chan) : (s.setChan n h).jobs = s.jobs := rfl
@[simp] theorem Cell.setChan_xbar (s : Cell) (n : Nat) (h : Chan) : (s.setChan n h).xbar = s.xbar := rfl
@[simp] theorem Cell.setChan_fcache (s : Cell) (n : Nat) (h : Chan) : (s.setChan n h).fcache = s.fcache := rfl
@[simp] theorem Cell.setChan_text (s : Cell) (n : Nat) (h : Chan) : (s.setChan n h).text = s.text := rfl
@[simp] theorem Cell.setChan_textKey (s : Cell) (n : Nat) (h : Chan) : (s.setChan n h).textKey = s.textKey := rfl
@[simp] theorem Cell.setChan_stlb (s : Cell) (n : Nat) (h : Chan) : (s.setChan n h).stlb = s.stlb := rfl
@[simp] theorem Cell.setChan_vtlb (s : Cell) (n : Nat) (h : Chan) : (s.setChan n h).vtlb = s.vtlb := rfl
@[simp] theorem Cell.setChan_mtlb (s : Cell) (n : Nat) (h : Chan) : (s.setChan n h).mtlb = s.mtlb := rfl
@[simp] theorem Cell.setChan_xtlb (s : Cell) (n : Nat) (h : Chan) : (s.setChan n h).xtlb = s.xtlb := rfl
@[simp] theorem Cell.setChan_lastPass (s : Cell) (n : Nat) (h : Chan) : (s.setChan n h).lastPass = s.lastPass := rfl
@[simp] theorem Cell.setChan_leaseSaved (s : Cell) (n : Nat) (h : Chan) : (s.setChan n h).leaseSaved = s.leaseSaved := rfl
@[simp] theorem Cell.setChan_granted (s : Cell) (n : Nat) (h : Chan) : (s.setChan n h).granted = s.granted := rfl
@[simp] theorem Cell.setChan_mlog (s : Cell) (n : Nat) (h : Chan) : (s.setChan n h).mlog = s.mlog := rfl
@[simp] theorem Cell.setChan_saved (s : Cell) (n : Nat) (h : Chan) : (s.setChan n h).saved = s.saved := rfl
@[simp] theorem Cell.setChan_upset (s : Cell) (n : Nat) (h : Chan) : (s.setChan n h).upset = s.upset := rfl

/-- The codes of two engines differ. -/
theorem engCode_ne (e f : Engine) (h : f ≠ e) : engCode f ≠ engCode e := by cases e <;> cases f <;> simp_all [engCode]
@[simp] theorem Cell.agent_setAgent (x : Cell) (e : Engine) (a : Agent) : (x.setAgent e a).agent e = a := Tab.get_set _ _ _ _
theorem Cell.agent_setAgent_ne (x : Cell) (e f : Engine) (a : Agent) (h : f ≠ e) : (x.setAgent e a).agent f = x.agent f :=
  Tab.get_set_ne _ _ _ _ _ (engCode_ne e f h)
@[simp] theorem Cell.chan_setChan (x : Cell) (n : Nat) (h : Chan) : (x.setChan n h).chan n = h := Tab.get_set _ _ _ _
theorem Cell.chan_setChan_ne (x : Cell) (n j : Nat) (h : Chan) (k : j ≠ n) : (x.setChan n h).chan j = x.chan j :=
  Tab.get_set_ne _ _ _ _ _ k

/-! Cell.setG: g0 reads 0 and discards what is written (R168). -/

@[simp] theorem Cell.setG_tile (x : Cell) (n : Nat) (v : Word) : (x.setG n v).tile = x.tile := by unfold Cell.setG; split <;> rfl
@[simp] theorem Cell.setG_gpast (x : Cell) (n : Nat) (v : Word) : (x.setG n v).gpast = x.gpast := by unfold Cell.setG; split <;> rfl
@[simp] theorem Cell.setG_v (x : Cell) (n : Nat) (v : Word) : (x.setG n v).v = x.v := by unfold Cell.setG; split <;> rfl
@[simp] theorem Cell.setG_m (x : Cell) (n : Nat) (v : Word) : (x.setG n v).m = x.m := by unfold Cell.setG; split <;> rfl
@[simp] theorem Cell.setG_k (x : Cell) (n : Nat) (v : Word) : (x.setG n v).k = x.k := by unfold Cell.setG; split <;> rfl
@[simp] theorem Cell.setG_s (x : Cell) (n : Nat) (v : Word) : (x.setG n v).s = x.s := by unfold Cell.setG; split <;> rfl
@[simp] theorem Cell.setG_lent (x : Cell) (n : Nat) (v : Word) : (x.setG n v).lent = x.lent := by unfold Cell.setG; split <;> rfl
@[simp] theorem Cell.setG_agents (x : Cell) (n : Nat) (v : Word) : (x.setG n v).agents = x.agents := by unfold Cell.setG; split <;> rfl
@[simp] theorem Cell.setG_chans (x : Cell) (n : Nat) (v : Word) : (x.setG n v).chans = x.chans := by unfold Cell.setG; split <;> rfl
@[simp] theorem Cell.setG_tokens (x : Cell) (n : Nat) (v : Word) : (x.setG n v).tokens = x.tokens := by unfold Cell.setG; split <;> rfl
@[simp] theorem Cell.setG_outq (x : Cell) (n : Nat) (v : Word) : (x.setG n v).outq = x.outq := by unfold Cell.setG; split <;> rfl
@[simp] theorem Cell.setG_slipwin (x : Cell) (n : Nat) (v : Word) : (x.setG n v).slipwin = x.slipwin := by unfold Cell.setG; split <;> rfl
@[simp] theorem Cell.setG_vshape (x : Cell) (n : Nat) (v : Word) : (x.setG n v).vshape = x.vshape := by unfold Cell.setG; split <;> rfl
@[simp] theorem Cell.setG_vstat (x : Cell) (n : Nat) (v : Word) : (x.setG n v).vstat = x.vstat := by unfold Cell.setG; split <;> rfl
@[simp] theorem Cell.setG_arithctl (x : Cell) (n : Nat) (v : Word) : (x.setG n v).arithctl = x.arithctl := by unfold Cell.setG; split <;> rfl
@[simp] theorem Cell.setG_wallow (x : Cell) (n : Nat) (v : Word) : (x.setG n v).wallow = x.wallow := by unfold Cell.setG; split <;> rfl
@[simp] theorem Cell.setG_faultrec (x : Cell) (n : Nat) (v : Word) : (x.setG n v).faultrec = x.faultrec := by unfold Cell.setG; split <;> rfl
@[simp] theorem Cell.setG_lstride (x : Cell) (n : Nat) (v : Word) : (x.setG n v).lstride = x.lstride := by unfold Cell.setG; split <;> rfl
@[simp] theorem Cell.setG_netp (x : Cell) (n : Nat) (v : Word) : (x.setG n v).netp = x.netp := by unfold Cell.setG; split <;> rfl
@[simp] theorem Cell.setG_netAt (x : Cell) (n : Nat) (v : Word) : (x.setG n v).netAt = x.netAt := by unfold Cell.setG; split <;> rfl
@[simp] theorem Cell.setG_loads (x : Cell) (n : Nat) (v : Word) : (x.setG n v).loads = x.loads := by unfold Cell.setG; split <;> rfl
@[simp] theorem Cell.setG_returning (x : Cell) (n : Nat) (v : Word) : (x.setG n v).returning = x.returning := by unfold Cell.setG; split <;> rfl
@[simp] theorem Cell.setG_stores (x : Cell) (n : Nat) (v : Word) : (x.setG n v).stores = x.stores := by unfold Cell.setG; split <;> rfl
@[simp] theorem Cell.setG_hold (x : Cell) (n : Nat) (v : Word) : (x.setG n v).hold = x.hold := by unfold Cell.setG; split <;> rfl
@[simp] theorem Cell.setG_pend (x : Cell) (n : Nat) (v : Word) : (x.setG n v).pend = x.pend := by unfold Cell.setG; split <;> rfl
@[simp] theorem Cell.setG_vpre (x : Cell) (n : Nat) (v : Word) : (x.setG n v).vpre = x.vpre := by unfold Cell.setG; split <;> rfl
@[simp] theorem Cell.setG_vahead (x : Cell) (n : Nat) (v : Word) : (x.setG n v).vahead = x.vahead := by unfold Cell.setG; split <;> rfl
@[simp] theorem Cell.setG_tails (x : Cell) (n : Nat) (v : Word) : (x.setG n v).tails = x.tails := by unfold Cell.setG; split <;> rfl
@[simp] theorem Cell.setG_nextId (x : Cell) (n : Nat) (v : Word) : (x.setG n v).nextId = x.nextId := by unfold Cell.setG; split <;> rfl
@[simp] theorem Cell.setG_sop (x : Cell) (n : Nat) (v : Word) : (x.setG n v).sop = x.sop := by unfold Cell.setG; split <;> rfl
@[simp] theorem Cell.setG_gb (x : Cell) (n : Nat) (v : Word) : (x.setG n v).gb = x.gb := by unfold Cell.setG; split <;> rfl
@[simp] theorem Cell.setG_gbq (x : Cell) (n : Nat) (v : Word) : (x.setG n v).gbq = x.gbq := by unfold Cell.setG; split <;> rfl
@[simp] theorem Cell.setG_gbacks (x : Cell) (n : Nat) (v : Word) : (x.setG n v).gbacks = x.gbacks := by unfold Cell.setG; split <;> rfl
@[simp] theorem Cell.setG_dq (x : Cell) (n : Nat) (v : Word) : (x.setG n v).dq = x.dq := by unfold Cell.setG; split <;> rfl
@[simp] theorem Cell.setG_ftop (x : Cell) (n : Nat) (v : Word) : (x.setG n v).ftop = x.ftop := by unfold Cell.setG; split <;> rfl
@[simp] theorem Cell.setG_fgen (x : Cell) (n : Nat) (v : Word) : (x.setG n v).fgen = x.fgen := by unfold Cell.setG; split <;> rfl
@[simp] theorem Cell.setG_jobs (x : Cell) (n : Nat) (v : Word) : (x.setG n v).jobs = x.jobs := by unfold Cell.setG; split <;> rfl
@[simp] theorem Cell.setG_xbar (x : Cell) (n : Nat) (v : Word) : (x.setG n v).xbar = x.xbar := by unfold Cell.setG; split <;> rfl
@[simp] theorem Cell.setG_fcache (x : Cell) (n : Nat) (v : Word) : (x.setG n v).fcache = x.fcache := by unfold Cell.setG; split <;> rfl
@[simp] theorem Cell.setG_text (x : Cell) (n : Nat) (v : Word) : (x.setG n v).text = x.text := by unfold Cell.setG; split <;> rfl
@[simp] theorem Cell.setG_textKey (x : Cell) (n : Nat) (v : Word) : (x.setG n v).textKey = x.textKey := by unfold Cell.setG; split <;> rfl
@[simp] theorem Cell.setG_stlb (x : Cell) (n : Nat) (v : Word) : (x.setG n v).stlb = x.stlb := by unfold Cell.setG; split <;> rfl
@[simp] theorem Cell.setG_vtlb (x : Cell) (n : Nat) (v : Word) : (x.setG n v).vtlb = x.vtlb := by unfold Cell.setG; split <;> rfl
@[simp] theorem Cell.setG_mtlb (x : Cell) (n : Nat) (v : Word) : (x.setG n v).mtlb = x.mtlb := by unfold Cell.setG; split <;> rfl
@[simp] theorem Cell.setG_xtlb (x : Cell) (n : Nat) (v : Word) : (x.setG n v).xtlb = x.xtlb := by unfold Cell.setG; split <;> rfl
@[simp] theorem Cell.setG_lastPass (x : Cell) (n : Nat) (v : Word) : (x.setG n v).lastPass = x.lastPass := by unfold Cell.setG; split <;> rfl
@[simp] theorem Cell.setG_leaseSaved (x : Cell) (n : Nat) (v : Word) : (x.setG n v).leaseSaved = x.leaseSaved := by unfold Cell.setG; split <;> rfl
@[simp] theorem Cell.setG_granted (x : Cell) (n : Nat) (v : Word) : (x.setG n v).granted = x.granted := by unfold Cell.setG; split <;> rfl
@[simp] theorem Cell.setG_mlog (x : Cell) (n : Nat) (v : Word) : (x.setG n v).mlog = x.mlog := by unfold Cell.setG; split <;> rfl
@[simp] theorem Cell.setG_saved (x : Cell) (n : Nat) (v : Word) : (x.setG n v).saved = x.saved := by unfold Cell.setG; split <;> rfl
@[simp] theorem Cell.setG_upset (x : Cell) (n : Nat) (v : Word) : (x.setG n v).upset = x.upset := by unfold Cell.setG; split <;> rfl
@[simp] theorem Cell.greg_zero (x : Cell) : x.greg 0 = 0 := rfl
theorem Cell.greg_setG (x : Cell) (n : Nat) (v : Word) : (x.setG n v).greg n = if n = 0 then 0 else v := by
  unfold Cell.setG Cell.greg
  by_cases h : n = 0
  · simp [h]
  · simp [h, Tab.get_set]
theorem Cell.greg_setG_ne (x : Cell) (n j : Nat) (v : Word) (h : j ≠ n) : (x.setG n v).greg j = x.greg j := by
  unfold Cell.setG Cell.greg
  by_cases k : n = 0
  · simp [k]
  · simp [k, Tab.get_set_ne _ _ _ _ _ h]
@[simp] theorem Cell.setG_agent (x : Cell) (n : Nat) (v : Word) (e : Engine) : (x.setG n v).agent e = x.agent e := by
  unfold Cell.agent; rw [Cell.setG_agents]
@[simp] theorem Cell.setAgent_greg (x : Cell) (e : Engine) (a : Agent) (n : Nat) : (x.setAgent e a).greg n = x.greg n := rfl

/-! g registers as an agent reads them in the order of the text (R167, R168). -/

@[simp] theorem Cell.gAt_zero (x : Cell) (e : Engine) : x.gAt e 0 = 0 := rfl
theorem Cell.gAt_of_none (x : Cell) (e : Engine) (r : Nat) (h : wroteSince x (x.agent e).dpos r = false) : x.gAt e r = x.greg r := by
  unfold Cell.gAt
  by_cases k : r = 0
  · simp [k, Cell.greg]
  · rw [if_neg k, List.find?_eq_none.mpr (by simpa [wroteSince] using h)]
theorem Cell.landG_of_none (x : Cell) (p r : Nat) (v : Word) (h : wroteSince x p r = false) : x.landG p r v = x.setG r v := by
  unfold Cell.landG
  rw [List.find?_eq_none.mpr (by simpa [wroteSince] using h)]

end Sys2Proof.Machine
end

