-- ==== Sys2Proof/Laws/Issue.lean ====
section
/-!
SUPPORT. What issuing and passing a word changes: signals, tokens, the agent that passes, and nothing else.
-/
namespace Sys2Proof.Machine

/-- Cells `x` and `y` differ at most in their agents, their tokens and the cycle of the last word passed. -/
def SameButIssue (x y : Cell) : Prop := { y with agents := x.agents, tokens := x.tokens, lastPass := x.lastPass } = x

theorem SameButIssue.refl (x : Cell) : SameButIssue x x := rfl

theorem SameButIssue.trans {x y z : Cell} (h : SameButIssue x y) (k : SameButIssue y z) : SameButIssue x z := by
  unfold SameButIssue at *
  rw [← h, ← k]

/-- What flushing the owed signals of agent `e` leaves alone, and what it does to agents. -/
theorem flushSig_spec (s : State) (c : Nat) (e : Engine) :
    { flushSig s c e with cells := s.cells } = s
    ∧ (∀ k, k ≠ c → (flushSig s c e).cell k = s.cell k)
    ∧ SameButIssue (s.cell c) ((flushSig s c e).cell c)
    ∧ (∀ f, f ≠ e → ((flushSig s c e).cell c).agent f = (s.cell c).agent f)
    ∧ { ((flushSig s c e).cell c).agent e with sig := ((s.cell c).agent e).sig } = (s.cell c).agent e := by
  unfold flushSig
  dsimp only
  split
  · exact ⟨rfl, fun _ _ => rfl, rfl, fun _ _ => rfl, rfl⟩
  · refine ⟨rfl, fun k h => State.cell_setCell_ne _ _ _ _ h, ?_, fun f h => ?_, ?_⟩
    · rw [State.cell_setCell]
      unfold SameButIssue Cell.setAgent
      split <;> split <;> rfl
    · rw [State.cell_setCell, Cell.agent_setAgent_ne _ _ _ _ h]
      split <;> split <;> rfl
    · rw [State.cell_setCell, Cell.agent_setAgent]

/-- Taking a word's tokens changes tokens only. -/
theorem takeToks_spec (x : Cell) (e : Engine) (t : BitVec 4) : { takeToks x e t with tokens := x.tokens } = x := by
  unfold takeToks takeTok
  dsimp only
  split
  · rfl
  · split <;> split <;> rfl

theorem takeToks_agents (x : Cell) (e : Engine) (t : BitVec 4) : (takeToks x e t).agents = x.agents := by
  have := congrArg Cell.agents (takeToks_spec x e t); exact this

/-- What passing `n` words to `np` leaves alone, and where it leaves the agents. -/
theorem retireAt_spec (s : State) (c : Nat) (e : Engine) (t : BitVec 4) (n : Nat) (np : Word) :
    { retireAt s c e t n np with cells := s.cells } = s
    ∧ (∀ k, k ≠ c → (retireAt s c e t n np).cell k = s.cell k)
    ∧ SameButIssue (s.cell c) ((retireAt s c e t n np).cell c)
    ∧ (∀ f, f ≠ e → ((retireAt s c e t n np).cell c).agent f = (s.cell c).agent f)
    ∧ (((retireAt s c e t n np).cell c).agent e).dpos = ((s.cell c).agent e).dpos + n
    ∧ (((retireAt s c e t n np).cell c).agent e).pc = (backEdge np ((s.cell c).agent e).levels).1
    ∧ (((retireAt s c e t n np).cell c).agent e).levels = (backEdge np ((s.cell c).agent e).levels).2
    ∧ (((retireAt s c e t n np).cell c).agent e).halted = ((s.cell c).agent e).halted := by
  unfold retireAt
  dsimp only
  have ag : ∀ f, (takeToks (s.cell c) e t).agent f = (s.cell c).agent f := by
    intro f; unfold Cell.agent; rw [takeToks_agents]
  generalize hw : s.setCell c
      { (takeToks (s.cell c) e t).setAgent e
        { passTo ((takeToks (s.cell c) e t).agent e) n np with sig := t.setWidth 2 } with lastPass := s.now } = w
  obtain ⟨h1, h2, h3, h4, h5⟩ := flushSig_spec w c e
  have wc : w.cell c = { (takeToks (s.cell c) e t).setAgent e
        { passTo ((takeToks (s.cell c) e t).agent e) n np with sig := t.setWidth 2 } with lastPass := s.now } := by
    rw [← hw, State.cell_setCell]
  have we : (w.cell c).agent e = { passTo ((s.cell c).agent e) n np with sig := t.setWidth 2 } := by
    rw [wc, ag]; exact Cell.agent_setAgent _ _ _
  have st : { w with cells := s.cells } = s := by rw [← hw]; rfl
  refine ⟨?_, fun k h => ?_, ?_, fun f h => ?_, ?_, ?_, ?_, ?_⟩
  · exact (congrArg (fun v : State => { v with cells := s.cells }) h1).trans st
  · rw [h2 k h, ← hw, State.cell_setCell_ne _ _ _ _ h]
  · refine SameButIssue.trans ?_ h3
    rw [wc]
    unfold SameButIssue Cell.setAgent takeToks takeTok
    dsimp only
    split
    · rfl
    · split <;> split <;> rfl
  · rw [h4 f h, wc]
    exact (Cell.agent_setAgent_ne _ _ _ _ h).trans (ag f)
  all_goals
    have k := h5
    rw [we] at k
  · exact (congrArg Agent.dpos k :)
  · exact (congrArg Agent.pc k :)
  · exact (congrArg Agent.levels k :)
  · exact (congrArg Agent.halted k :)

/-- A scalar word that nothing holds back does what it does and is finished (R40, R42, R199). -/
theorem sWord_issues (s : State) (c : Nat) (t : BitVec 4) (n : Nat) (rs : List (BitVec 5)) (k : State → Act)
    (h : s.cur = .agent c .S) (b : blocked (flushSig s c .S) c .S t n = none)
    (f : regsFree ((flushSig s c .S).cell c) rs = true) :
    sWord s t n rs k = .next (sFinish c t n (k (flushSig s c .S))) := by
  unfold sWord
  simp only [h, b, f, if_true]

/-- Whether registers are free does not depend on what issuing a word changes. -/
theorem regsFree_same (x y : Cell) (h : SameButIssue x y) (rs : List (BitVec 5)) : regsFree y rs = regsFree x rs := by
  unfold SameButIssue at h
  rw [← h]
  rfl

end Sys2Proof.Machine
end

