-- ==== Sys2Proof/Laws/Memory.lean ====
section
/-!
SUPPORT. Memory: reading after writing, the canonical form that every memory operation keeps, and what a write of home
bytes leaves alone.
-/
namespace Sys2Proof.Machine

/-! Reading after writing. -/

/-- The byte just written. -/
theorem memGet_memPut (m : List Host.Cell) (a : Nat) (b : Byte) : memGet (memPut m a b) a = b := by
  unfold memGet memPut
  split
  · rename_i h; rw [Tab.get_erase, h]
  · rw [Tab.get_set]

/-- Every other byte. -/
theorem memGet_memPut_ne (m : List Host.Cell) (a x : Nat) (b : Byte) (h : x ≠ a) : memGet (memPut m a b) x = memGet m x := by
  unfold memGet memPut
  split
  · exact Tab.get_erase_ne _ _ _ _ h
  · exact Tab.get_set_ne _ _ _ _ _ h

/-- A run of bytes written reads back, and nothing else changes. -/
theorem memGet_memPutAll (l : List Byte) (m : List Host.Cell) (a x : Nat) :
    memGet (memPutAll m a l) x = if a ≤ x ∧ x < a + l.length then l.getD (x - a) 0 else memGet m x := by
  induction l generalizing m a with
  | nil => simp only [memPutAll, List.length_nil]; split <;> first | omega | rfl
  | cons b r ih =>
    simp only [memPutAll, ih, List.length_cons]
    by_cases e : x = a
    · subst e
      rw [if_neg (by omega), if_pos (by omega), memGet_memPut, Nat.sub_self, List.getD_cons_zero]
    · by_cases g : a + 1 ≤ x ∧ x < a + 1 + r.length
      · have k : x - a = x - (a + 1) + 1 := by omega
        rw [if_pos g, if_pos (by omega), k, List.getD_cons_succ]
      · rw [if_neg g, if_neg (by omega), memGet_memPut_ne _ _ _ _ e]

/-- Bytes outside a run that is written. -/
theorem memGet_memPutAll_out (l : List Byte) (m : List Host.Cell) (a x : Nat) (h : x < a ∨ a + l.length ≤ x) :
    memGet (memPutAll m a l) x = memGet m x := by
  rw [memGet_memPutAll, if_neg (by omega)]

/-! The canonical form. -/

/-- Writing one byte keeps the canonical form. -/
theorem wf_memPut (m : List Host.Cell) (a : Nat) (b : Byte) (h : Memory.wf m = true) : Memory.wf (memPut m a b) = true := by
  simp only [Memory.wf, Bool.and_eq_true] at *
  unfold memPut
  split
  · refine ⟨Tab.rising_filter _ _ _ h.1, ?_⟩
    simp only [Tab.erase, List.all_eq_true, List.mem_filter] at *
    exact fun p q => h.2 p q.1
  · rename_i e
    exact ⟨Tab.rising_set _ _ _ _ (Nat.zero_le _) h.1, Tab.all_set _ _ _ _ (by simpa using e) h.2⟩

/-- Writing a run of bytes keeps the canonical form. -/
theorem wf_memPutAll (l : List Byte) (m : List Host.Cell) (a : Nat) (h : Memory.wf m = true) : Memory.wf (memPutAll m a l) = true := by
  induction l generalizing m a with
  | nil => exact h
  | cons b r ih => exact ih _ _ (wf_memPut _ _ _ h)

/-- The canonical form of a state's memory. -/
abbrev State.memOk (s : State) : Prop := Memory.wf s.mem = true

theorem memOk_recode (s : State) (kv : BitVec 512) (n : Nat) (h : s.memOk) : (recode s kv n).memOk := wf_memPutAll _ _ _ h

/-- A property that each step of a left fold keeps is kept by the fold. -/
theorem foldl_keeps {α β : Type} (P : α → Prop) (f : α → β → α) (hf : ∀ a b, P a → P (f a b)) (l : List β) (a : α) (h : P a) :
    P (l.foldl f a) := by
  induction l generalizing a with
  | nil => exact h
  | cons b r ih => exact ih _ (hf _ _ h)

theorem memOk_writeHome (s : State) (a : Nat) (l : List Byte) (k : Option Nat) (h : s.memOk) : (writeHome s a l k).memOk := by
  unfold writeHome
  refine wf_memPutAll _ _ _ ?_
  have one : ∀ n : Nat, ((if !isDram a || linesUnder s (keyVal s n) a l.length then s
      else (linesOf a l.length).foldl (fun t j => recode t (keyVal s n) j) s)).memOk := by
    intro n
    split
    · exact h
    · exact foldl_keeps State.memOk _ (fun t j g => memOk_recode t _ j g) _ _ h
  cases k with
  | none => exact h
  | some n =>
    dsimp only
    split
    · exact one n
    · exact one n

@[simp] theorem countInteg_mem (s : State) (d lo n : Nat) : (countInteg s d lo n).mem = s.mem := rfl

theorem exposeOne_mem (s : State) (p : Nat × Bool) : (exposeOne s p).mem = s.mem := by unfold exposeOne; split <;> rfl

theorem expose_mem (s : State) (a n : Nat) : (expose s a n).mem = s.mem :=
  foldl_keeps (fun t => t.mem = s.mem) exposeOne (fun t p h => (exposeOne_mem t p).trans h) _ _ rfl

theorem exposePart_mem (s : State) (a n : Nat) : (exposePart s a n).mem = s.mem :=
  foldl_keeps (fun t => t.mem = s.mem) exposeOne (fun t p h => (exposeOne_mem t p).trans h) _ _ rfl

theorem memOk_devWrite (s : State) (a : Nat) (l : List Byte) (h : s.memOk) : (devWrite s a l).memOk :=
  memOk_writeHome _ _ _ _ (by rw [State.memOk, exposePart_mem]; exact h)

theorem memOk_stepView (s : State) (m : MStep) (h : s.memOk) : (stepView s m).memOk :=
  foldl_keeps State.memOk _ (fun _ _ g => wf_memPutAll _ _ _ g) _ _ h

theorem wf_putGranule (v t : State) (w : List Host.Cell) (g : Nat) (h : Memory.wf w = true) : Memory.wf (putGranule v t w g) = true :=
  foldl_keeps (fun u => Memory.wf u = true) _ (fun _ _ k => wf_memPut _ _ _ k) _ _ h

theorem memOk_stepMem (s : State) (m : MStep) (v t : State) (h : s.memOk) (k : t.memOk) : (stepMem s m v t).memOk := by
  unfold stepMem
  split
  · exact k
  · exact foldl_keeps (fun w => Memory.wf w = true) _ (fun _ _ g => wf_putGranule _ _ _ _ g) _ _ h

/-- A step whose granules are all still to come takes the memory of its effect. -/
theorem stepMem_whole (s : State) (m : MStep) (v t : State) (hc : m.caught = []) (ho : m.out = []) : stepMem s m v t = t := by
  simp [stepMem, hc, ho]

/-- Nothing read before the end: a step reads memory as it stands. -/
theorem stepView_now (s : State) (m : MStep) (hc : m.caught = []) : stepView s m = s := by simp [stepView, hc]

/-! What a write through a window leaves alone: it decrypts nothing (R87). -/

/-- A write of home bytes under no key writes just them. -/
theorem writeHome_window (s : State) (a : Nat) (l : List Byte) (x : Nat) :
    memGet (writeHome s a l none).mem x = if a ≤ x ∧ x < a + l.length then l.getD (x - a) 0 else memGet s.mem x :=
  memGet_memPutAll l s.mem a x

theorem reset_memOk : State.reset.memOk := by decide

end Sys2Proof.Machine
end

