-- ==== Sys2Proof/Laws/Xmss.lean ====
section
/-!
SUPPORT. A signature that a key makes verifies under its root and seed (R347).
-/
namespace Sys2Proof.Machine

/-! Lengths. -/

theorem keccakF_length (a : List Word) : (keccakF a).length = 25 := by
  have e : List.range 24 = List.range 23 ++ [23] := rfl
  rw [keccakF, e, List.foldl_append]
  simp [keccakRound]

theorem absorb_length (n : Nat) (l : List Byte) (a : List Word) (h : a.length = 25) : (absorb n l a).length = 25 := by
  induction n generalizing l a with
  | zero => exact h
  | succ k ih => exact ih _ _ (keccakF_length _)

@[simp] theorem shake256_length (l : List Byte) : (shake256 l).length = 32 := by
  have four : ∀ w : List Word, w.length = 4 → (w.map (fun x => leList 8 x.toNat)).flatten.length = 32 := by
    intro w hw
    match w, hw with
    | [a, b, c, d], _ => simp
  exact four _ (by rw [List.length_take, absorb_length _ _ _ (by simp)]; rfl)

@[simp] theorem xHash_length (p : Byte) (k m : List Byte) : (xHash p k m).length = 32 := shake256_length _
@[simp] theorem xPair_length (s : List Byte) (ty a h i : Nat) (l r : List Byte) : (xPair s ty a h i l r).length = 32 := shake256_length _

theorem xChain_length (s : List Byte) (a c n i : Nat) (v : List Byte) (h : v.length = 32) : (xChain s a c n i v).length = 32 := by
  induction n generalizing i v with
  | zero => exact h
  | succ k ih => exact ih _ _ (xHash_length ..)

/-- A level of parts is a level of parts, and is empty only where it was. -/
theorem xLevel_parts (s : List Byte) (a h i : Nat) (l : List (List Byte)) (hl : ∀ v ∈ l, v.length = 32) :
    (∀ v ∈ xLevel s a h i l, v.length = 32) ∧ (l ≠ [] → xLevel s a h i l ≠ []) := by
  induction i, l using xLevel.induct with
  | case1 i x y r ih =>
    have e := ih (fun v hv => hl v (by simp [hv]))
    refine ⟨fun v hv => ?_, fun _ => by simp [xLevel]⟩
    simp only [xLevel, List.mem_cons] at hv
    rcases hv with rfl | hv
    · exact xPair_length ..
    · exact e.1 v hv
  | case2 i l h2 =>
    have e : xLevel s a h i l = l := by
      match l, h2 with
      | [], _ => rfl
      | [v], _ => rfl
      | x :: y :: r, h2 => exact absurd rfl (h2 x y r)
    rw [e]
    exact ⟨hl, id⟩

theorem xLeaf_length (s : List Byte) (a : Nat) (l : List (List Byte)) (hl : ∀ v ∈ l, v.length = 32) (hn : l ≠ []) : (xLeaf s a l).length = 32 := by
  have go : ∀ hs : List Nat, ∀ m : List (List Byte), (∀ v ∈ m, v.length = 32) → m ≠ [] →
      (∀ v ∈ hs.foldl (fun l h => xLevel s a h 0 l) m, v.length = 32) ∧ hs.foldl (fun l h => xLevel s a h 0 l) m ≠ [] := by
    intro hs
    induction hs with
    | nil => exact fun m h n => ⟨h, n⟩
    | cons k ks ih => intro m h n; exact ih _ (xLevel_parts s a k 0 m h).1 ((xLevel_parts s a k 0 m h).2 n)
  obtain ⟨h, n⟩ := go (List.range 7) l hl hn
  rw [xLeaf]
  generalize (List.range 7).foldl (fun l h => xLevel s a h 0 l) l = m at h n
  match m, n with
  | v :: r, _ => exact h v (by simp)

theorem xNode_length (x s : List Byte) (h i : Nat) : (xNode x s h i).length = 32 := by
  cases h with
  | zero =>
    refine xLeaf_length _ _ _ (fun v hv => ?_) (by simp)
    obtain ⟨c, -, rfl⟩ := List.mem_map.mp hv
    exact xChain_length _ _ _ _ _ _ (xHash_length ..)
  | succ k => exact xPair_length ..

/-! The steps of a signature. -/

/-- A chain in two parts. -/
theorem xChain_add (s : List Byte) (a c m n i : Nat) (v : List Byte) : xChain s a c n (i + m) (xChain s a c m i v) = xChain s a c (m + n) i v := by
  induction m generalizing i v with
  | zero => simp [xChain]
  | succ k ih =>
    have e : k + 1 + n = (k + n) + 1 := by omega
    rw [e]
    simp only [xChain]
    rw [← ih, Nat.add_assoc, Nat.add_comm 1 k]

/-- A digit is below 16. -/
theorem xDigits_lt (m : List Byte) (i : Nat) : (xDigits m).getD i 0 < 16 := by
  have all : ∀ x ∈ xDigits m, x < 16 := by
    intro x hx
    simp only [xDigits, List.mem_append, List.mem_flatMap, List.mem_cons, List.not_mem_nil, or_false] at hx
    rcases hx with ⟨b, -, rfl | rfl⟩ | rfl | rfl | rfl <;> omega
  by_cases h : i < (xDigits m).length
  · rw [getD_of_lt _ _ _ h]; exact all _ (List.getElem_mem _)
  · simp [Nat.le_of_not_lt h]

/-- Part `i` of parts laid side by side. -/
theorem xPart_flatMap (f : Nat → List Byte) (hf : ∀ i, (f i).length = 32) (t : List Byte) (n i : Nat) (h : i < n) :
    xPart ((List.range n).flatMap f ++ t) i = f i := by
  have len : ∀ l : List Nat, (l.flatMap f).length = 32 * l.length := by
    intro l
    induction l with
    | nil => rfl
    | cons a l ih => simp [hf, ih]; omega
  have e : List.range n = List.range i ++ (i :: (List.range (n - i - 1)).map (fun k => i + 1 + k)) := by
    have : n = i + ((n - i - 1) + 1) := by omega
    conv => lhs; rw [this]
    rw [List.range_add, List.range_succ_eq_map]
    simp [Function.comp_def, Nat.add_comm, Nat.add_left_comm]
  have p := len (List.range i)
  rw [List.length_range] at p
  rw [xPart, e, List.flatMap_append, List.append_assoc, List.drop_append_of_le_length (by omega), List.drop_of_length_le (by omega), List.nil_append,
    List.flatMap_cons, List.append_assoc, List.take_append_of_le_length (by have := hf i; omega), List.take_of_length_le (by have := hf i; omega)]

/-- The path of a leaf leads to the node above it. -/
theorem xClimb_node (x s auth : List Byte) (leaf n k : Nat) (h : ∀ j, j < k + n → xPart auth j = xNode x s j (xSibling leaf j)) :
    xClimb s auth leaf n k (xNode x s k (leaf / 2 ^ k)) = xNode x s (k + n) (leaf / 2 ^ (k + n)) := by
  induction n generalizing k with
  | zero => rfl
  | succ m ih =>
    have half : leaf / 2 ^ (k + 1) = leaf / 2 ^ k / 2 := by rw [Nat.pow_succ, Nat.div_div_eq_div_mul]
    have step : (if leaf / 2 ^ k % 2 = 0 then xPair s 2 0 k (leaf / 2 ^ (k + 1)) (xNode x s k (leaf / 2 ^ k)) (xPart auth k)
        else xPair s 2 0 k (leaf / 2 ^ (k + 1)) (xPart auth k) (xNode x s k (leaf / 2 ^ k))) = xNode x s (k + 1) (leaf / 2 ^ (k + 1)) := by
      rw [h k (by omega), half]
      generalize hq : leaf / 2 ^ k = q
      simp only [xSibling, hq, xNode]
      split
      · rename_i z
        rw [show 2 * (q / 2) = q by omega]
      · rename_i z
        rw [show 2 * (q / 2) + 1 = q by omega, show 2 * (q / 2) = q - 1 by omega]
    simp only [xClimb]
    rw [step, ih (k + 1) (fun j hj => h j (by omega)), show k + 1 + m = k + (m + 1) by omega]

/-! Verifying what was signed. -/

/-- Four bytes, the most significant one first, hold a leaf number. -/
theorem beNat_leList4 (v : Nat) (h : v < 2 ^ 32) : beNat (leList 4 v).reverse = v := by
  have e : leList 4 v = [BitVec.ofNat 8 (v / 2 ^ 0), BitVec.ofNat 8 (v / 2 ^ 8), BitVec.ofNat 8 (v / 2 ^ 16), BitVec.ofNat 8 (v / 2 ^ 24)] := rfl
  rw [beNat, List.reverse_reverse, e]
  simp only [leNat, List.foldr, BitVec.toNat_ofNat]
  omega

/-- A signature under a leaf of a key verifies under the root of its tree. -/
theorem xmssVerify_xmssSign (x nonce s m : List Byte) (leaf : Nat) (h : leaf < 2 ^ 20) :
    xmssVerify (xNode x s 20 0) s m (xmssSign x nonce (xNode x s 20 0) s leaf m) = true := by
  have lr : (xHash 3 nonce (leList 32 leaf).reverse).length = 32 := xHash_length ..
  generalize hr : xHash 3 nonce (leList 32 leaf).reverse = r at lr
  generalize hd : xDigits (xDigest (xNode x s 20 0) r leaf m) = d
  have hs : xmssSign x nonce (xNode x s 20 0) s leaf m = (leList 4 leaf).reverse ++ r
      ++ (List.range 67).flatMap (fun i => xChain s leaf i (d.getD i 0) 0 (xSecret x s leaf i)) ++ (List.range 20).flatMap (fun k => xNode x s k (xSibling leaf k)) := by
    rw [xmssSign, hr, hd]
  have f1 : ∀ i, (xChain s leaf i (d.getD i 0) 0 (xSecret x s leaf i)).length = 32 := fun i => xChain_length _ _ _ _ _ _ (xHash_length ..)
  have f2 : ∀ k, (xNode x s k (xSibling leaf k)).length = 32 := fun k => xNode_length _ _ _ _
  have len : ∀ (f : Nat → List Byte), (∀ i, (f i).length = 32) → ∀ l : List Nat, (l.flatMap f).length = 32 * l.length := by
    intro f hf l
    induction l with
    | nil => rfl
    | cons a l ih => simp [hf, ih]; omega
  have l1 := len _ f1 (List.range 67)
  have l2 := len _ f2 (List.range 20)
  rw [List.length_range] at l1 l2
  generalize ho : (List.range 67).flatMap (fun i => xChain s leaf i (d.getD i 0) 0 (xSecret x s leaf i)) = o at hs l1
  generalize ha : (List.range 20).flatMap (fun k => xNode x s k (xSibling leaf k)) = a at hs l2
  have l0 : ((leList 4 leaf).reverse).length = 4 := by simp
  have s4 : (xmssSign x nonce (xNode x s 20 0) s leaf m).take 4 = (leList 4 leaf).reverse := by
    rw [hs, List.append_assoc, List.append_assoc, List.take_append_of_le_length (by omega), List.take_of_length_le (by omega)]
  have r4 : ((xmssSign x nonce (xNode x s 20 0) s leaf m).drop 4).take 32 = r := by
    rw [hs, List.append_assoc, List.append_assoc, List.drop_append_of_le_length (by omega), List.drop_of_length_le (by omega), List.nil_append,
      List.take_append_of_le_length (by omega), List.take_of_length_le (by omega)]
  have o36 : (xmssSign x nonce (xNode x s 20 0) s leaf m).drop 36 = o ++ a := by
    rw [hs, List.append_assoc, List.drop_append_of_le_length (by rw [List.length_append]; omega), List.drop_of_length_le (by rw [List.length_append]; omega), List.nil_append]
  have a2180 : (xmssSign x nonce (xNode x s 20 0) s leaf m).drop 2180 = a := by
    rw [hs, List.drop_append_of_le_length (by simp only [List.length_append]; omega), List.drop_of_length_le (by simp only [List.length_append]; omega), List.nil_append]
  have b4 : beNat ((leList 4 leaf).reverse) = leaf := beNat_leList4 leaf (by omega)
  have total : (xmssSign x nonce (xNode x s 20 0) s leaf m).length = 2820 := by
    rw [hs]; simp only [List.length_append]; omega
  have ends : (List.range 67).map (fun i => xChain s leaf i (15 - d.getD i 0) (d.getD i 0) (xPart (o ++ a) i))
      = (List.range 67).map (fun c => xChain s leaf c 15 0 (xSecret x s leaf c)) := by
    refine List.map_congr_left (fun i hi => ?_)
    have lt : d.getD i 0 < 16 := by rw [← hd]; exact xDigits_lt _ _
    rw [← ho, xPart_flatMap _ f1 _ _ _ (List.mem_range.mp hi)]
    have e := xChain_add s leaf i (d.getD i 0) (15 - d.getD i 0) 0 (xSecret x s leaf i)
    rw [Nat.zero_add, show d.getD i 0 + (15 - d.getD i 0) = 15 by omega] at e
    exact e
  have path : ∀ j, j < 0 + 20 → xPart a j = xNode x s j (xSibling leaf j) := by
    intro j hj
    have e := xPart_flatMap _ f2 [] 20 j (by omega)
    rwa [List.append_nil, ha] at e
  have up := xClimb_node x s a leaf 20 0 path
  have top : leaf / 2 ^ (0 + 20) = 0 := Nat.div_eq_of_lt h
  rw [top, Nat.pow_zero, Nat.div_one] at up
  simp only [xmssVerify, xRoot, total, s4, b4, r4, hd, o36, a2180, ends]
  rw [show xLeaf s leaf ((List.range 67).map (fun c => xChain s leaf c 15 0 (xSecret x s leaf c))) = xNode x s 0 leaf from rfl, up]
  first | (simp [h]; done) | (simp; omega)

/-- Eight bits more of a number. -/
theorem leList_succ (n v : Nat) : leList (n + 1) v = BitVec.ofNat 8 v :: leList n (v / 256) := by
  simp only [leList, List.range_succ_eq_map, List.map_cons, List.map_map]
  refine List.cons_eq_cons.mpr ⟨by simp, List.map_congr_left (fun i _ => ?_)⟩
  simp only [Function.comp_apply]
  rw [Nat.div_div_eq_div_mul, Nat.mul_succ, Nat.pow_add, Nat.mul_comm (2 ^ (8 * i))]

/-- A run of bytes is the run of its number. -/
theorem leList_leNat (l : List Byte) : leList l.length (leNat l) = l := by
  induction l with
  | nil => rfl
  | cons b l ih =>
    have e : leNat (b :: l) = b.toNat + 256 * leNat l := rfl
    have b8 := b.isLt
    rw [List.length_cons, leList_succ, e, show (b.toNat + 256 * leNat l) / 256 = leNat l by omega, ih]
    congr 1
    apply BitVec.eq_of_toNat_eq
    rw [BitVec.toNat_ofNat]
    omega

theorem leNat_lt (l : List Byte) : leNat l < 2 ^ (8 * l.length) := by
  induction l with
  | nil => simp [leNat]
  | cons b l ih =>
    have e : leNat (b :: l) = b.toNat + 256 * leNat l := rfl
    have b8 := b.isLt
    rw [e, List.length_cons, Nat.mul_succ, Nat.pow_add]
    omega

end Sys2Proof.Machine
end

