-- ==== Sys2Proof/Tests/Slice0.lean ====
section
/-!
SUPPORT. Tests: words written out bit by bit from the encodings of the spec, ill-formed terms, single steps on small states,
and for every obligation with hypotheses a state and operands that meet them.
-/
namespace Sys2Proof.Tests
set_option Elab.async false
open Sys2Proof.Machine Sys2Proof.Claims

/-! Decoding. Each word is laid out by hand from R184 to R193 and the opcode of its entry. -/

theorem test_decode_mul : decode 0x00088409 0 = .instr (.mul 0 4 4 9) := by decide +kernel
theorem test_decode_div : decode 0x00106A2B 0 = .instr (.div 0 3 10 1 11) := by decide +kernel
theorem test_decode_bext : decode 0x00504304 0 = .instr (.bext 0 2 3 4) := by decide +kernel
theorem test_decode_li : decode 0x00A04009 0 = .instr (.li 0 2 9) := by decide +kernel
theorem test_decode_lih : decode 0x00A54004 0 = .instr (.lih 0 10 4) := by decide +kernel
theorem test_decode_tok : decode 0x0D080000 0 = .instr (.tok 6) := by decide +kernel
theorem test_decode_lstg : decode 0x01AC0030 0 = .instr (.lstg 1 1 0) := by decide +kernel
theorem test_decode_loop : decode 0x01A80602 0 = .instr (.loop 0 6 2) := by decide +kernel
theorem test_decode_vshape : decode 0x60000000 0x00510008 = .instr (.vshape 0 0x00510008) := by decide +kernel
theorem test_decode_vmul : decode 0x4218B08C 0 = .instr (.vmul 1 5 0x21 6 0) := by decide +kernel
theorem test_decode_vshl : decode 0x40882084 0 = .instr (.vshl 0 1 1 2 0) := by decide +kernel
theorem test_decode_vfms : decode 0x40290494 0 = .instr (.vfms 0 8 9 10 0) := by decide +kernel
theorem test_decode_vcmplt : decode 0x40B0220A 0 = .instr (.vcmplt 0 1 4 5 0) := by decide +kernel
theorem test_decode_vmand : decode 0x40C08084 0 = .instr (.vmand 0 4 1 2) := by decide +kernel
theorem test_decode_vsel : decode 0x40E04188 0 = .instr (.vsel 0 2 3 4) := by decide +kernel
theorem test_decode_vmpop : decode 0x61B80100 0x30000000 = .instr (.vmpop 0 2 6) := by decide +kernel
theorem test_decode_vld : decode 0x61502000 0x40000100 = .instr (.vld 0 1 0 8 0x100) := by decide +kernel
theorem test_decode_defer : decode 0x41880405 0 = .instr (.defer 0 8 2 1) := by decide +kernel
theorem test_decode_vdrain : decode 0x4190A000 0 = .instr (.vdrain 0 5 0) := by decide +kernel
theorem test_decode_banklend : decode 0x63A00000 0x28000000 = .instr (.banklend 1 5) := by decide +kernel
theorem test_decode_mlease : decode 0x80500000 0 = .instr (.mlease 0) := by decide +kernel
theorem test_decode_mma : decode 0x80040A80 0 = .instr (.mma 0 1 0 2 1 0 1 0) := by decide +kernel
theorem test_decode_mdrain : decode 0xA02C0000 0x62000000 = .instr (.mdrain 0 3 0 12 1) := by decide +kernel
theorem test_decode_xmove : decode 0xE00214C7 0x60020010 = .instr (.xmoveExt 0 4 5 6 7 1 2 0 16 16) := by decide +kernel
theorem test_decode_xfoot : decode 0xE2140000 0x14000004 = .instr (.xfoot 1 8 0 1 1 0 4) := by decide +kernel
theorem test_decode_xbar : decode 0xC2300001 0 = .instr (.xbar 1 1) := by decide +kernel
theorem test_decode_xevset : decode 0xC0419000 0 = .instr (.xevset 0 3 4) := by decide +kernel
theorem test_decode_xevsig : decode 0xC0518000 0 = .instr (.xevsig 0 3) := by decide +kernel
theorem test_decode_xtail : decode 0xC0710C00 0 = .instr (.xtail 0 2 3) := by decide +kernel
theorem test_decode_xarrive : decode 0xC0D10C00 0 = .instr (.xarrive 0 2 3) := by decide +kernel
theorem test_decode_xkeysw : decode 0xC0F10000 0 = .instr (.xkeysw 0 2) := by decide +kernel

/-! Ill-formed terms and words that are refused. -/

theorem test_refuses_dst : (Instr.vadd 0 0x31 1 2 0).wellFormed = false := by decide +kernel
theorem test_refuses_vshape : (Instr.vshape 0 0x00040008).wellFormed = false := by decide +kernel
theorem test_refuses_sel : (Instr.xfoot 0 8 2 0 0 1 0).wellFormed = false := by decide +kernel
theorem test_refuses_mfclr : (Instr.mfclr 0 1 0 0 1).wellFormed = false := by decide +kernel
theorem test_refuses_event : encode (.commandBegin 0 0) = none := by decide +kernel
theorem test_refuses_unassigned : decode 0x01BC0000 0 = .bad .unassigned := by decide +kernel
theorem test_refuses_reserved : decode 0x01080001 0 = .bad .reserved := by decide +kernel
theorem test_refuses_extension : decode 0x20088409 0 = .bad .extension := by decide +kernel

/-! Small states. -/

/-- A token in every FIFO. -/
def toks : Tab (List Nat) := (List.range 16).map (fun k => (k, [0]))

/-- Cell 0 with a running tile, at whose next word engine `e` stands, and what `f` changes of it. -/
def cellAt (e : Engine) (f : Cell → Cell) : Cell := f { placedCell Cell.reset e [] [] with tokens := toks }

/-- A module in cycle 100 in which engine `e` of cell 0 has the turn, with the lease of cluster 0. -/
def at_ (e : Engine) (f : Cell → Cell) : State :=
  { State.reset with
    now := 100, cur := .agent 0 e, keySlots := [(0, some 0)], cells := [(0, cellAt e f)]
    clusters := [(0, { Cluster.reset with lessee := some 0, owner := some 0 })]
    gangs := [⟨0, 0, [0], 0, .running, [], false, none, []⟩] }

/-- Registers g1, g2, … with these values. -/
def gs (l : List Word) (x : Cell) : Cell := { x with g := (List.range l.length).map (fun k => (k + 1, l.getD k 0)) }

/-- The Innkeeper of die 0 has the turn, with these g registers. -/
def ikAt (l : List Word) : State :=
  { State.reset with
    now := 100, cur := .ik 0, keySlots := [(0, some 0)]
    dies := [(0, { Die.reset with ik := { Innkeeper.reset with
      running := true, pc := 0x10000, g := (List.range l.length).map (fun k => (k + 1, l.getD k 0)) } })] }

/-- A state with one register write that waits. -/
def wrote (s : State) (reg unit : Nat) (v : Word) : State := { s with writes := [⟨.ik 0, reg, unit, v, false, 0⟩] }

/-- The state that an outcome gives, if it is a next state. -/
def next? (o : Out) : Option State :=
  match o with
  | .next u => some u
  | _ => none

/-- g register `r` of cell 0 afterwards. -/
def gOf (o : Out) (r : Nat) : Option Word := (next? o).map (fun u => (u.cell 0).greg r)

theorem issues_at (t : BitVec 4) : ∀ e, Issues (at_ e id) 0 e t 1 ∧ Issues (at_ e id) 0 e t 2 := by
  revert t
  intro t e
  cases e <;> refine ⟨⟨rfl, ?_⟩, ⟨rfl, ?_⟩⟩ <;> revert t <;> decide +kernel

theorem free_at (e : Engine) (rs : List (BitVec 5)) : regsFree ((at_ e id).cell 0) rs = true := by
  cases e <;> simp [regsFree, gBusy, at_, cellAt, placedCell, State.cell, Tab.get, Cell.reset]

/-! Registers and immediates. The expected values are computed by hand from R201 to R204. -/

/-- What the S agent's word leaves in g3, with g1 and g2 given. -/
def s3 (a b : Word) (i : Instr) : Option Word := gOf (exec i (at_ .S (gs [a, b]))) 3

theorem test_add_wraps : s3 0xFFFFFFFFFFFFFFFF 2 (.add 0 3 1 2) = some 1 := by decide +kernel
theorem test_sub_order : s3 3 5 (.sub 0 3 1 2) = some 0xFFFFFFFFFFFFFFFE := by decide +kernel
theorem test_mulh : s3 0xFFFFFFFFFFFFFFFF 2 (.mulh 0 3 1 0 2) = some 0xFFFFFFFFFFFFFFFF ∧ s3 0xFFFFFFFFFFFFFFFF 2 (.mulh 0 3 1 1 2) = some 1 := by decide +kernel
theorem test_div_truncates : s3 0xFFFFFFFFFFFFFFF9 2 (.div 0 3 1 0 2) = some 0xFFFFFFFFFFFFFFFD := by decide +kernel
theorem test_div_corners : s3 5 0 (.div 0 3 1 0 2) = some 0xFFFFFFFFFFFFFFFF ∧ s3 0x8000000000000000 0xFFFFFFFFFFFFFFFF (.div 0 3 1 0 2) = some 0x8000000000000000 := by decide +kernel
theorem test_rem_corners : s3 5 0 (.rem 0 3 1 1 2) = some 5 ∧ s3 0x8000000000000000 0xFFFFFFFFFFFFFFFF (.rem 0 3 1 0 2) = some 0 := by decide +kernel
theorem test_sar_ror : s3 0x8000000000000000 63 (.sar 0 3 1 2) = some 0xFFFFFFFFFFFFFFFF ∧ s3 1 1 (.ror 0 3 1 2) = some 0x8000000000000000 := by decide +kernel
theorem test_min_sub : s3 0xFFFFFFFFFFFFFFFF 1 (.minr 0 3 1 0 2) = some 0xFFFFFFFFFFFFFFFF ∧ s3 0xFFFFFFFFFFFFFFFF 1 (.minr 0 3 1 1 2) = some 1 := by decide +kernel
theorem test_clz_ctz_popc : s3 0x0000000000010100 0 (.clz 0 3 1) = some 47 ∧ s3 0x10100 0 (.ctz 0 3 1) = some 8 ∧ s3 0x10100 0 (.popc 0 3 1) = some 2 ∧ s3 0 0 (.ctz 0 3 1) = some 64 := by
  decide +kernel
theorem test_bext_bins : s3 0xABCD 0x804 (.bext 0 3 1 2) = some 0xBC ∧ s3 0xF 0x404 (.bins 0 3 1 2) = some 0xF0 := by decide +kernel
theorem test_shift_count : s3 1 65 (.shl 0 3 1 2) = some 2 ∧ s3 0x8000000000000000 0 (.shri 0 3 1 0x43) = some 0x1000000000000000 := by decide +kernel
theorem test_addi_sign : s3 1 0 (.addi 0 3 1 0xFE) = some 0xFFFFFFFFFFFFFFFF ∧ s3 1 0 (.addiExt 0 3 1 0x80000000) = some 0xFFFFFFFF80000001 := by decide +kernel
theorem test_lih : s3 0 0 (.lihExt 0 3 0xABCD0123) = some 0xABCD012300000000 := by decide +kernel
theorem test_g0 : (next? (exec (.li 0 0 9) (at_ .S id))).map (fun u => ((u.cell 0).greg 0, ((u.cell 0).agent .S).pc)) = some (0, 0x10004) := by decide +kernel

theorem witness_RegisterArithmetic (t : BitVec 4) (rs : List (BitVec 5)) : (Issues (at_ .S id) 0 .S t 1 ∧ regsFree ((at_ .S id).cell 0) rs = true) ∧ (ikAt []).cur = .ik 0 :=
  ⟨⟨(issues_at t .S).1, free_at .S rs⟩, rfl⟩
theorem witness_DivideAndRemainder (t : BitVec 4) (rs : List (BitVec 5)) : (Issues (at_ .S id) 0 .S t 1 ∧ regsFree ((at_ .S id).cell 0) rs = true) ∧ (ikAt []).cur = .ik 0
    ∧ ((0x8000000000000000 : Word).toInt = -2 ^ 63 ∧ (0xFFFFFFFFFFFFFFFF : Word).toInt = -1) :=
  ⟨⟨(issues_at t .S).1, free_at .S rs⟩, rfl, by decide +kernel⟩
theorem witness_BitFields (t : BitVec 4) (rs : List (BitVec 5)) : (Issues (at_ .S id) 0 .S t 1 ∧ regsFree ((at_ .S id).cell 0) rs = true) ∧ (ikAt []).cur = .ik 0 :=
  ⟨⟨(issues_at t .S).1, free_at .S rs⟩, rfl⟩
theorem witness_ImmediateForms (t : BitVec 4) (rs : List (BitVec 5)) : (Issues (at_ .S id) 0 .S t 1 ∧ Issues (at_ .S id) 0 .S t 2 ∧ regsFree ((at_ .S id).cell 0) rs = true) ∧ (ikAt []).cur = .ik 0 :=
  ⟨⟨(issues_at t .S).1, (issues_at t .S).2, free_at .S rs⟩, rfl⟩

/-! Loads, stores, ordering. -/

/-- A check let an access go. -/
def okB {α : Type} (p : State × Res α) : Bool :=
  match p.2 with
  | .ok _ => true
  | .flt _ => false

theorem ok_of {α : Type} {p : State × Res α} (h : okB p = true) : ∃ s1 k, p = (s1, .ok k) := by
  obtain ⟨s1, k | f⟩ := p
  · exact ⟨s1, k, rfl⟩
  · cases h

theorem flt_of {α : Type} {p : State × Res α} (h : okB p = false) : ∃ s1 f, p = (s1, .flt f) := by
  obtain ⟨s1, k | f⟩ := p
  · cases h
  · exact ⟨s1, f, rfl⟩

/-- Cell 0 with g1 at offset 0x1000 of the window of its own cell store, g2 at 0x2000, g3 = -2. -/
def win (x : Cell) : Cell := gs [0xFF00000000001000, 0xFF00000000002000, 0xFFFFFFFFFFFFFFFE] x

/-- A load of 8 bytes at the start of the cell store of cell 0 into g5. -/
def ld8 : Load := ⟨7, .S, 0, [[⟨.home (2 ^ 60), 8, none, 4, 0xFF00000000000000⟩]], [], false, [], .reg 5 8 false⟩
/-- A load whose four bytes are back. -/
def back (d : LoadDest) : Load := ⟨7, .S, 0, [], [0xFE, 0xFF, 0xFF, 0xFF], false, [], d⟩
/-- A store of two bytes to the cell store of cell 0 that has left the queue. -/
def st2 (a : Bool) (cls : Nat) : Store := ⟨9, 9, .S, 0, 1000, [[(⟨.home (2 ^ 60 + 6), 2, none, cls, 0xFF00000000000006⟩, [0xAA, 0xBB])]], cls, 99, none, true, a, false⟩
/-- A multicast store of two bytes that is due. -/
def stM : Store := ⟨9, 9, .S, 0, 1000, [[(⟨.mcast 0x40, 2, none, 4, 0xFF00000004000040⟩, [0xAA, 0xBB])]], 4, 99, some 90, true, false, false⟩
/-- An entry for the bytes of `ld8` that awaits its values, numbered before it. -/
def stA : Store := { st2 false 4 with id := 3, left := false, awaits := true }
/-- A store of two bytes across a line of the paged half, under key slot 1. -/
def stK : Store := { st2 false 4 with path := 2, parts := [[(⟨.home 0x1003F, 2, some 1, 4, 0x1003F⟩, [0xAA, 0xBB])]] }

/-- The next state after an instruction on a state, or the state. -/
def after (i : Instr) (s : State) : State := (next? (exec i s)).getD s

theorem test_ld_performs : ((after (.loadReturn 0 7) (at_ .S (fun x => { x with returning := [back (.reg 5 4 true)] }))).cell 0).greg 5 = 0xFFFFFFFFFFFFFFFE
    ∧ ((after (.loadReturn 0 7) (at_ .S (fun x => { x with returning := [back (.reg 5 4 false)] }))).cell 0).greg 5 = 0xFFFFFFFE := by decide +kernel
theorem test_st_applies : (after (.storeApply 0 9) (at_ .S (fun x => { x with stores := [st2 false 4] }))).mem = [(2 ^ 60 + 6, 0xAA), (2 ^ 60 + 7, 0xBB)] := by decide +kernel
theorem test_mcast_lands : (after (.multicastLanding 0) (at_ .S (fun x => { x with stores := [stM] }))).mem.map (·.1)
    = [2 ^ 60 + 0x40, 2 ^ 60 + 0x41, 2 ^ 60 + 0x200040, 2 ^ 60 + 0x200041, 2 ^ 60 + 0x400040, 2 ^ 60 + 0x400041, 2 ^ 60 + 0x600040, 2 ^ 60 + 0x600041] := by decide +kernel
theorem test_st_enters : (((after (.st16 0 3 1 2) (at_ .S win)).cell 0).stores.map (fun q => q.parts.flatten.map (fun p => (p.1.loc, p.2)))) = [[(.home (2 ^ 60 + 0x1002), [0xFE, 0xFF])]] := by
  decide +kernel
theorem test_ld_misaligned : ((after (.ld64 0 5 1 4) (at_ .S win)).gangs.map (fun g => g.reports.map (fun r => (r.cls, r.code, r.addr)))) = [[(6, 3, 0xFF00000000001004)]] := by decide +kernel

theorem witness_LoadsEnter : (∀ n ∈ [1, 2, 4, 8, 128], ∃ w, LoadEnters 1 0 n (.reg 5 8 false) (flushSig (at_ .S win) 0 .S) 0 w)
    ∧ (∃ w, LoadEnters 3 0xFF00000000001002 1 (.reg 0 1 true) (flushSig (at_ .S win) 0 .S) 0 w) ∧ Issues (at_ .S win) 0 .S 0 1 ∧ Issues (at_ .S win) 0 .S 0xF 2
    ∧ regsFree ((at_ .S win).cell 0) [5, 1] = true ∧ (∀ l ∈ ((at_ .S win).cell 0).loads ++ ((at_ .S win).cell 0).returning, l.dest ≠ .stream 3) := by
  refine ⟨fun n h => ?_, ?_, ⟨rfl, by decide +kernel⟩, ⟨rfl, by decide +kernel⟩, by decide +kernel, by decide +kernel⟩
  · obtain ⟨s1, k, e⟩ := ok_of (p := checkAccess (flushSig (at_ .S win) 0 .S) (.agent 0 .S) .S (addrS (flushSig (at_ .S win) 0 .S) 0 1 0) n n false false) (by
      revert n; decide +kernel)
    exact ⟨_, s1, k, by decide +kernel, e, rfl⟩
  · obtain ⟨s1, k, e⟩ := ok_of (p := checkAccess (flushSig (at_ .S win) 0 .S) (.agent 0 .S) .S (addrS (flushSig (at_ .S win) 0 .S) 0 3 0xFF00000000001002) 1 1 false false) (by
      decide +kernel)
    exact ⟨_, s1, k, by decide +kernel, e, rfl⟩

theorem witness_StoresEnter : (∀ n ∈ [1, 2, 4, 8, 128], ∃ w, StoreEnters 1 0 (leList n 5) (flushSig (at_ .S win) 0 .S) 0 w)
    ∧ Issues (at_ .S win) 0 .S 0 1 ∧ Issues (at_ .S win) 0 .S 0xF 2 ∧ regsFree ((at_ .S win).cell 0) [3, 1] = true
    ∧ (∀ l ∈ ((at_ .S win).cell 0).loads ++ ((at_ .S win).cell 0).returning, l.dest ≠ .stream 3) := by
  refine ⟨fun n h => ?_, ⟨rfl, by decide +kernel⟩, ⟨rfl, by decide +kernel⟩, by decide +kernel, by decide +kernel⟩
  have k0 : checkAccess (flushSig (at_ .S win) 0 .S) (.agent 0 .S) .S (addrS (flushSig (at_ .S win) 0 .S) 0 1 0) (leList n 5).length (leList n 5).length true false
      = (flushSig (at_ .S win) 0 .S, .ok ⟨[⟨.home (2 ^ 60 + 0x1000), n, none, 4, 0xFF00000000001000⟩], none⟩) := by revert n; decide +kernel
  exact ⟨_, _, _, by decide +kernel, k0, fun h => (by cases h), rfl⟩

theorem witness_StoreEntryFrame : ∃ parts : List (List (Acc × List Byte)), parts = [[(⟨.home (2 ^ 60), 2, none, 4, 0⟩, [0xAA, 0xBB])], [(⟨.home (2 ^ 60 + 256), 2, none, 4, 0⟩, [0xAA, 0xBB])]] ∧ parts ≠ []
    ∧ (∀ q ∈ ((at_ .S (fun x => { x with stores := [st2 false 4] })).cell 0).stores, leavesNode q = false) ∧ (∀ g ∈ parts, ∀ p ∈ g, pathOf 0 p.1 < 9999)
    ∧ (∀ g ∈ parts, partKey 0 g = partKey 0 (parts.headD [])) ∧ (∃ q ∈ ((at_ .S (fun x => { x with stores := [stA] })).cell 0).stores, q.id = 3 ∧ q.awaits = true ∧ leavesNode q = false) := ⟨_, rfl, by decide +kernel⟩

theorem witness_LoadsPerformAndReturn :
    (∃ l r g k, ((at_ .S (fun x => { x with loads := [ld8] })).cell 0).loads = l :: r ∧ l.accs = g :: k ∧ l.waiting = false ∧ (at_ .S id).latent = [] ∧ (at_ .S id).poison = []
      ∧ ∀ a ∈ g, ∃ h, a.loc = .home h)
    ∧ (let s := at_ .S (fun x => { x with loads := [ld8], stores := [stA] }); ∃ l r g k q a, (s.cell 0).loads = l :: r ∧ l.accs = g :: k ∧ q ∈ (s.cell 0).stores ∧ q.id < l.id ∧ q.awaits = true ∧ a ∈ g ∧ storeMeets s 0 q a = true)
    ∧ (∀ sg, ((at_ .S (fun x => { x with returning := [back (.reg 5 4 sg)] })).cell 0).returning.find? (fun l => l.id = 7 && l.dest != .vec) = some (back (.reg 5 4 sg)))
    ∧ ((at_ .S (fun x => { x with returning := [back (.reg 0 4 true)] })).cell 0).returning.find? (fun l => l.id = 7 && l.dest != .vec) = some (back (.reg 0 4 true))
    ∧ ((at_ .S (fun x => { x with returning := [back (.stream 15)] })).cell 0).returning.find? (fun l => l.id = 7 && l.dest != .vec) = some (back (.stream 15)) := by
  refine ⟨⟨ld8, [], _, [], rfl, rfl, rfl, rfl, rfl, fun a h => ⟨2 ^ 60, ?_⟩⟩, ⟨ld8, [], _, [], stA, ⟨.home (2 ^ 60), 8, none, 4, 0xFF00000000000000⟩, rfl, rfl, by decide +kernel⟩, by decide +kernel, by decide +kernel, by decide +kernel⟩
  obtain rfl := List.mem_singleton.mp h
  rfl

theorem witness_StoresApply :
    (let s := at_ .S (fun x => { x with stores := [st2 false 4] }); leftStore (s.cell 0) 9 = some (st2 false 4) ∧ leavesNode (st2 false 4) = false ∧ storeFree s 0 (st2 false 4) = true ∧ s.latent = []
      ∧ ∀ p ∈ (s.cell 0).stores, leavesNode p = false)
    ∧ (let s := at_ .S (fun x => { x with stores := [stK] }); leftStore (s.cell 0) 9 = some stK ∧ leavesNode stK = false ∧ stK.due = none ∧ storeFree s 0 stK = true ∧ 0x1003F + 2 ≤ 2 ^ 48 ∧ s.latent = []
      ∧ ∀ p ∈ (s.cell 0).stores, leavesNode p = false)
    ∧ (let s := at_ .S (fun x => { x with stores := [st2 true 0] }); (s.cell 0).stores.find? (fun q => q.id = 9 && q.left) = some (st2 true 0) ∧ leavesNode (st2 true 0) = false
      ∧ (∀ p ∈ (s.cell 0).stores, leavesNode p = false ∧ p.left = true))
    ∧ ((at_ .S (fun x => { x with stores := [stM] })).cell 0).stores.find? (fun q => !q.applied && (match q.due with | some n => decide (n ≤ 100) | none => false)) = some stM
    ∧ (∀ r ∈ ((at_ .S (fun x => { x with stores := [stM] })).cell 0).stores, r.word = stM.word → r = stM) := by
  decide +kernel

theorem witness_OrderingWords (t : BitVec 4) : Issues (at_ .S id) 0 .S t 1 ∧ held ((at_ .S id).cell 0) = false
    ∧ (let x := { (at_ .S id).cell 0 with loads := [ld8], hold := some ⟨[7], [], []⟩ }; held x = true ∧ x.hold = some ⟨[7], [], []⟩)
    ∧ (let x := { (at_ .S id).cell 0 with loads := [ld8], hold := some ⟨[6], [], []⟩ }; held x = false)
    ∧ inScope (at_ .S id) 0 0 ⟨.home (2 ^ 60), 8, none, 4, 0xFF00000000000000⟩ = true := ⟨(issues_at t .S).1, by decide +kernel⟩

/-! Control. -/

/-- Where the S agent of cell 0 stands afterwards. -/
def pcOf? (o : Out) : Option Word := (next? o).map (fun u => ((u.cell 0).agent .S).pc)

/-- Cell 0 with an S word in progress whose four bytes -2 are back. -/
def sopBack (x : Cell) : Cell := { x with sop := some ⟨none, some [0xFE, 0xFF, 0xFF, 0xFF], false, none, none⟩ }

/-- A level of a three-word body at 0x10000, `k` iterations done of 3. -/
def lvl (k : Nat) : Level := ⟨0x10000, 3, 3, 1, k, [⟨16, 1, 4, 0⟩, ⟨0xFFFFFFFF, 2, 3, 5⟩]⟩
/-- Engine `e` of cell 0 inside the level. -/
def inLoop (e : Engine) (k : Nat) (x : Cell) : Cell := x.setAgent e { x.agent e with levels := [lvl k] }

/-- Cell 0 with an outcome of S in wait for V, M and X, and with the words at 0x10000 cached. -/
def outs (o : Outcome) (w : BitVec 32) (x : Cell) : Cell := { x with outq := [(1, [o]), (2, [o]), (3, [o])], fcache := [(0x4000, w), (0x4001, 0x00A04009)] }

theorem test_j : pcOf? (exec (.j 0 0x3FFFF) (at_ .S id)) = some 0xFFFC ∧ pcOf? (exec (.jExt 0 0 5) (at_ .S id)) = some 0x10014 := by decide +kernel
theorem test_jl : gOf (exec (.jl 0 2) (at_ .S id)) 23 = some 0x10004 ∧ gOf (exec (.jlExt 0 0 2) (at_ .S id)) 23 = some 0x10008 := by decide +kernel
theorem test_jr_misaligned : (after (.jr 0 3) (at_ .S win)).gangs.map (fun g => g.reports.map (fun r => (r.cls, r.code, r.addr))) = [[(6, 3, 0xFFFFFFFFFFFFFFFE)]] := by decide +kernel
theorem test_blt_bltn : pcOf? (exec (.blt 0 3 1 4) (at_ .S (gs [1, 1, 0xFFFFFFFFFFFFFFFF]))) = some 0x10010 ∧ pcOf? (exec (.bltn 0 3 1 4) (at_ .S (gs [1, 1, 0xFFFFFFFFFFFFFFFF]))) = some 0x10004 := by
  decide +kernel
theorem test_bge_equal : pcOf? (exec (.bge 0 1 2 0xFE) (at_ .S (gs [1, 1]))) = some 0xFFF8 := by decide +kernel
theorem test_jtab : pcOf? (exec (.jtab 0 1 2 9) (at_ .S (fun x => sopBack (gs [0x20000, 3] x)))) = some 0xFFF8 := by decide +kernel
theorem test_loop_starts : (((after (.loop 0 1 0) (at_ .S (fun x => { gs [2] x with fcache := [(0x4001, 0x00A04009)] }))).cell 0).agent .S).levels.map (fun l => (l.start, l.len, l.trip, l.stages))
    = [(0x10004, 1, 2, 1)] := by decide +kernel
theorem test_back_edge : backEdge 0x1000C [lvl 0] = (0x10000, [⟨0x10000, 3, 3, 1, 1, [⟨16, 1, 4, 16⟩, ⟨0xFFFFFFFF, 2, 3, 4⟩]⟩]) ∧ backEdge 0x1000C [lvl 2] = (0x1000C, []) := by
  decide +kernel
theorem test_halt : (((after (.halt 0) (at_ .S id)).cell 0).agent .S).halted = true := by decide +kernel
theorem test_outcome_ends : (((after .outcomeTake (at_ .V (outs ⟨0x10004, none, true⟩ 0))).cell 0).agent .V).halted = true := by decide +kernel

theorem witness_Jumps (t : BitVec 4) (rs : List (BitVec 5)) : Issues (at_ .S id) 0 .S t 1 ∧ Issues (at_ .S id) 0 .S t 2 ∧ regsFree ((at_ .S id).cell 0) rs = true
    ∧ (((at_ .S id).cell 0).agent .S).levels = [] ∧ outFull ((at_ .S id).cell 0) = false
    ∧ (Issues (at_ .S (gs [0x20004, 0x20002])) 0 .S 0 1 ∧ regsFree ((at_ .S (gs [0x20004, 0x20002])).cell 0) [1, 2] = true
      ∧ (((at_ .S (gs [0x20004, 0x20002])).cell 0).greg 1).toNat % 4 = 0 ∧ (((at_ .S (gs [0x20004, 0x20002])).cell 0).greg 2).toNat % 4 ≠ 0) :=
  ⟨(issues_at t .S).1, (issues_at t .S).2, free_at .S rs, rfl, by decide +kernel, ⟨rfl, by decide +kernel⟩, by decide +kernel⟩

theorem witness_CompareBranches (t : BitVec 4) (rs : List (BitVec 5)) : Issues (at_ .S id) 0 .S t 1 ∧ Issues (at_ .S id) 0 .S t 2 ∧ regsFree ((at_ .S id).cell 0) rs = true
    ∧ (((at_ .S id).cell 0).agent .S).levels = [] ∧ outFull ((at_ .S id).cell 0) = false := ⟨(issues_at t .S).1, (issues_at t .S).2, free_at .S rs, rfl, by decide +kernel⟩

theorem witness_JumpTables : (let s := at_ .S sopBack; Issues s 0 .S 0 1 ∧ Issues s 0 .S 0 2 ∧ regsFree (s.cell 0) [1, 2] = true ∧ ((s.cell 0).agent .S).levels = [] ∧ outFull (s.cell 0) = false
      ∧ ∃ o y, ((flushSig s 0 .S).cell 0).sop = some o ∧ o.bytes = some y)
    ∧ (let s := at_ .S win; Issues s 0 .S 0 1 ∧ Issues s 0 .S 0 2 ∧ regsFree (s.cell 0) [1, 2] = true ∧ ((s.cell 0).agent .S).levels = [] ∧ outFull (s.cell 0) = false ∧ (s.cell 0).sop = none
      ∧ loadRoom (s.cell 0) = true ∧ ∃ s1 k, checkAccess (flushSig s 0 .S) (.agent 0 .S) .S (addrS (flushSig s 0 .S) 0 1 (wd (4 * min ((s.cell 0).greg 2).toNat 1))) 4 4 false false = (s1, .ok k)) := by
  refine ⟨⟨⟨rfl, by decide +kernel⟩, ⟨rfl, by decide +kernel⟩, by decide +kernel, rfl, by decide +kernel, _, _, rfl, rfl⟩, ⟨rfl, by decide +kernel⟩, ⟨rfl, by decide +kernel⟩, by decide +kernel, rfl,
    by decide +kernel, rfl, by decide +kernel, ok_of (by decide +kernel)⟩

/-- Cell 0 with trip counts in g1 and g2 and one body word cached. -/
def looped (x : Cell) : Cell := { gs [0xFFFFFFFF, 0] x with fcache := [(0x4001, 0x00A04009)] }

theorem witness_LoopsAndHalt : (let s := at_ .S looped; Issues s 0 .S 0 1 ∧ regsFree (s.cell 0) [1] = true ∧ ((s.cell 0).agent .S).levels = [] ∧ outFull (s.cell 0) = false
      ∧ 0 < ((s.cell 0).greg 1).toNat ∧ ((s.cell 0).greg 1).toNat < 2 ^ 32 ∧ (s.cell 0).greg 2 = 0 ∧ ∃ s1 body, fetchRun 1 (flushSig s 0 .S) (.agent 0 .S) (pcS s 0 + 4) = (s1, .ok body))
    ∧ (∀ e, let s := at_ e (inLoop e 0); Issues s 0 e 0 1 ∧ ((s.cell 0).agent e).levels = [lvl 0] ∧ ((s.cell 0).agent e).pc + 4 ≠ (lvl 0).start + wd (4 * (lvl 0).len)) := by
  refine ⟨⟨⟨rfl, by decide +kernel⟩, by decide +kernel, rfl, by decide +kernel, by decide +kernel, by decide +kernel, by decide +kernel, ok_of (by decide +kernel)⟩, fun e => ?_⟩
  cases e <;> exact ⟨⟨rfl, by decide +kernel⟩, by decide +kernel, by decide +kernel⟩

theorem witness_Skipping : (∀ e, let s := at_ e (outs ⟨0x10004, none, false⟩ 0x40088409); Issues s 0 e 0 (wordCount (wordHere (s.cell 0) e)) ∧ isLoop (wordHere (s.cell 0) e) = false)
    ∧ (∀ e, e ≠ .S → let s := at_ e (outs ⟨0x10004, none, true⟩ 0x01B00000); Issues s 0 e 0 (wordCount (wordHere (s.cell 0) e)) ∧ (s.cell 0).pend = []
      ∧ outq (s.cell 0) e = [⟨0x10004, none, true⟩] ∧ ((s.cell 0).agent e).levels = [])
    ∧ (((at_ .V id).cell 0).agent .V).taken.contains (((at_ .V id).cell 0).agent .V).dpos = false := by
  refine ⟨fun e => ?_, fun e _ => ?_, by decide +kernel⟩ <;> cases e <;> first | contradiction | exact ⟨⟨rfl, by decide +kernel⟩, by decide +kernel⟩

theorem witness_LoopTurns : (∀ k, ((((at_ .M (inLoop .M k)).cell 0).agent .M).levels = [lvl k]) ∧ (0x1000C : Word) = (lvl k).start + wd (4 * (lvl k).len))
    ∧ (lvl 0).iter + 1 < (lvl 0).trip + (lvl 0).stages - 1 ∧ (lvl 2).trip + (lvl 2).stages - 1 ≤ (lvl 2).iter + 1 := ⟨fun k => ⟨rfl, by show (0x1000C : Word) = 0x10000 + wd (4 * 3); decide +kernel⟩, by decide +kernel⟩

/-! Registers and exceptions. -/

theorem test_sysrd_cell_number : gOf (exec (.sysrd 0 3 7) (at_ .S id)) 3 = some 0 ∧ gOf (exec (.sysrd 0 3 1) (at_ .S id)) 3 = some 0x8006 := by decide +kernel
theorem test_syswr_slipwin : ((after (.syswr 0 1 0) (at_ .S (gs [3]))).cell 0).slipwin = 8 ∧ ((after (.syswr 0 1 0) (at_ .S (gs [0x7FF]))).cell 0).slipwin = 1024 := by decide +kernel
theorem test_w1c : fieldWrite 2 7 5 = 2 := by decide +kernel
theorem test_trap : (after (.trap 0 0x2A) (at_ .S id)).gangs.map (fun g => g.reports.map (fun r => (r.cls, r.code, r.dlv, r.pc))) = [[(0, 0x2A, 1, 0x10000)]] := by decide +kernel
theorem test_ik_trap : (let u := after (.trap 0 0x2A) (setDreg (ikAt []) 0 0x209 0x3000); ((u.die 0).ik.pc, dreg u 0 0x20A, dreg u 0 0x20B)) = (0x3000, 0x10004, 0x8000000000002A00) := by
  decide +kernel
theorem test_eret : (let u := after (.eret 0) (ikEnter (ikAt []) 0 5 1 7 0x2000); ((u.die 0).ik.pc, ikActive u 0, bits (dreg u 0 0x20B) 0 16)) = (0x2000, false, 0x105) := by decide +kernel

/-- A gang that has halted. -/
def haltedG (norst : Bool) : Gang := ⟨0, 0, [0], 0, .halted, [], norst, none, [(0, cellAt .S id)]⟩

theorem witness_RegisterFields : (1 : Nat) ≠ 0 ∧ ¬ (0x440 ≤ 1 ∧ 1 < 0x480) ∧ 8 ≤ (8 : Word).toNat % 2048 ∧ (1024 : Word).toNat % 2048 ≤ 1024 ∧ 4 ≤ bits 0x4000 12 4 ∧ 0x440 ≤ 0x47F ∧ 0x47F < 0x480 := by
  decide +kernel

theorem witness_SystemRegisters (t : BitVec 4) (g : BitVec 5) : Issues (at_ .S id) 0 .S t 1 ∧ regsFree ((at_ .S id).cell 0) [g] = true
    ∧ (regKnown 0x5F = true ∧ regProgram 0x5F = true ∧ 0x5F < 0x100) ∧ (regKnown 0x102 = true ∧ regProgram 0x102 = true) ∧ (regKnown 0x1304 = true ∧ regProgram 0x1304 = true) ∧ regKnown 0x104 = false
    ∧ (regKnown 0x100 = true ∧ regProgram 0x100 = false) ∧ (at_ .S id).writes = [] := ⟨(issues_at t .S).1, free_at .S [g], by decide +kernel⟩

/-- Cell 0 with a new binding in wait on channel 3. -/
def rebind (x : Cell) : Cell := x.setChan 3 { Chan.reset with bind := 0x81, pending := true }

theorem witness_RegisterWritesLand : (let s := wrote (ikAt []) 0x100 0 0x200; ∃ w r, s.writes = w :: r ∧ mayTake s w = true ∧ ownEvent s w = false ∧ w.reg ≠ 0x1304 ∧ inRun w.reg 0x1140 18 = false)
    ∧ (let s := { ikAt [] with writes := [⟨.ik 0, 0x100, 0, 1, true, 0⟩] }; ∃ w r, s.writes = w :: r ∧ w.taken = true)
    ∧ (((at_ .S rebind).cell 0).chan 3).q = [] ∧ (((at_ .S rebind).cell 0).chan 3).pending = true
    ∧ (let s := wrote (ikAt []) 0x1142 0 5; ∃ w r, s.writes = w :: r ∧ mayTake s w = true ∧ inRun w.reg 0x1140 18 = true)
    ∧ (let s := wrote (ikAt []) 0x1304 0 1; ∃ w r, s.writes = w :: r ∧ w.taken = false ∧ s.report = none ∧ w.reg = 0x1304) := by
  refine ⟨⟨_, _, rfl, by decide +kernel⟩, ⟨_, _, rfl, rfl⟩, by decide +kernel, by decide +kernel, ⟨_, _, rfl, by decide +kernel⟩, ⟨_, _, rfl, by decide +kernel⟩⟩

theorem witness_ExceptionTaken : (∃ l g r, (at_ .S id).gangs = l ++ g :: r ∧ (∀ h ∈ l, h.cells.contains 0 = false ∨ h.run = .halted) ∧ g.cells.contains 0 = true ∧ g.run ≠ .halted
      ∧ (∀ h ∈ l ++ r, h.first = g.first → h.run = .halted) ∧ ∀ q ∈ g.reports, q.agent ≠ agentNo 0 .S)
    ∧ (∃ l g r, { at_ .S id with gangs := haltedG false :: (at_ .S id).gangs }.gangs = l ++ g :: r ∧ l ≠ [] ∧ (∀ h ∈ l, h.cells.contains 0 = false ∨ h.run = .halted) ∧ g.cells.contains 0 = true
      ∧ g.run ≠ .halted ∧ (∀ h ∈ l ++ r, h.first = g.first → h.run = .halted) ∧ ∀ q ∈ g.reports, q.agent ≠ agentNo 0 .S)
    ∧ (let s := fault (at_ .S id) 0 .S { cls := 1, code := 5 }; ∃ g q, gangOf s 0 = some g ∧ q ∈ g.reports ∧ q.agent = agentNo 0 .S ∧ ownReport q = true)
    ∧ (let q : Report := ⟨0xD, 1, agentNo 0 .S, 3, true, 0, 0, 0, 0, 0, 0, 0⟩; ownReport q = false ∧ (∀ p ∈ [q], p.agent = agentNo 0 .S → ownReport p = false ∧ (1 : Nat) ≠ 0xD ∧ ¬ ((1 : Nat) = 0xB ∧ 5 = 3))) := by
  refine ⟨⟨[], _, [], rfl, by decide +kernel⟩, ⟨[haltedG false], _, [], rfl, by decide +kernel⟩, ⟨_, _, rfl, List.mem_cons_self .., by decide +kernel, by decide +kernel⟩, by decide +kernel⟩

theorem witness_InnkeeperExceptions : ikActive (ikAt []) 0 = false ∧ ikActive (ikEnter (ikAt []) 0 5 1 7 0x2000) 0 = true ∧ ((ikAt []).cur = .ik 0 ∧ ∀ q ∈ (ikAt []).writes, q.by_ ≠ .ik 0)
    ∧ Issues (at_ .S id) 0 .S 0 1
    ∧ (let s := (ikAt []).setDie 0 { (ikAt []).die 0 with fnq := [(1, 0, [])] }; (s.die 0).ik.running = true ∧ (s.die 0).ik.sop = none ∧ ikActive s 0 = false ∧ (s.die 0).fnq ≠ []) :=
  ⟨by decide +kernel, by decide +kernel, by decide +kernel, ⟨rfl, by decide +kernel⟩, by decide +kernel⟩

/-- A state whose memory holds this word at physical address 0x10000. -/
def text (s : State) (w : Nat) : State :=
  let m := memPutAll s.mem 0x10000 (leList 8 w)
  { s with mem := m, cells := [(0, { s.cell 0 with text := m })] }

theorem witness_TrapsAndBadWords : (Issues (at_ .S id) 0 .S 0 1 ∧ ∃ g, (at_ .S id).gangs = [g] ∧ g.cells.contains 0 = true ∧ g.run = .running ∧ g.reports = [])
    ∧ (let p := agentFetch (flushSig (text (at_ .S id) 0x01BC0000) 0 .S) 0 .S; p.2 = .ok (0x01BC0000, 0) ∧ blocked p.1 0 .S (fld 0x01BC0000 25 4) (wordCount 0x01BC0000) = none ∧ trapWait (p.1.cell 0) .S = false)
    ∧ (let s := at_ .S (fun x => { x with stlb := [] }); blocked (flushSig s 0 .S) 0 .S 0 0 = none ∧ trapWait ((flushSig s 0 .S).cell 0) .S = false ∧ ∃ s1 f, agentFetch (flushSig s 0 .S) 0 .S = (s1, .flt f))
    ∧ (∃ s1 f, ikFetch (ikAt []) 0 = (s1, .flt f)) ∧ (let s := (ikAt []).setDie 0 { (ikAt []).die 0 with ik := { ((ikAt []).die 0).ik with tlb := [⟨0x10000, 0x10000, 0x10000, 0, true, true, true, 0⟩] } }
      ∃ s1 w, ikFetch s 0 = (s1, .ok w)) := by
  refine ⟨⟨⟨rfl, by decide +kernel⟩, _, rfl, by decide +kernel⟩, by decide +kernel, ⟨by decide +kernel, by decide +kernel, flt_of (by decide +kernel)⟩, flt_of (by decide +kernel), ok_of (by decide +kernel)⟩

theorem witness_LoopsAndHalt_faults :
    (let s := at_ .S (fun x => { gs [2 ^ 32] x with fcache := [(0x4001, 0x00A04009)] }); Issues s 0 .S 0 1 ∧ regsFree (s.cell 0) [1] = true
      ∧ (∃ s1 body, fetchRun 1 (flushSig s 0 .S) (.agent 0 .S) (pcS s 0 + 4) = (s1, .ok body)) ∧ loopWordFlt (s.cell 0) 1 ((s.cell 0).greg 1) = some { cls := 1, code := 0x10, aux2 := 2 ^ 32 })
    ∧ (let s := at_ .S (fun x => { gs [2] x with stlb := [] }); Issues s 0 .S 0 1 ∧ regsFree (s.cell 0) [1] = true ∧ ∃ s1 f, fetchRun 1 (flushSig s 0 .S) (.agent 0 .S) (pcS s 0 + 4) = (s1, .flt f))
    ∧ (∀ e, e ≠ .S → let s := at_ e (fun x => { inLoop e 0 x with fcache := [(0x4000, 0x21AC0030), (0x4001, 0)] }); wordCount (wordHere (s.cell 0) e) = 2 ∧ Issues s 0 e 0 2 ∧ ((s.cell 0).agent e).levels = [lvl 0]
      ∧ ((s.cell 0).agent e).pc + wd (4 * 2) ≠ (lvl 0).start + wd (4 * (lvl 0).len)) := by
  refine ⟨⟨⟨rfl, by decide +kernel⟩, by decide +kernel, ok_of (by decide +kernel), by decide +kernel⟩, ⟨⟨rfl, by decide +kernel⟩, by decide +kernel, flt_of (by decide +kernel)⟩, fun e h => ?_⟩
  cases e <;> first | contradiction | exact ⟨by decide +kernel, ⟨rfl, by decide +kernel⟩, by decide +kernel, by decide +kernel⟩

/-! Channels and closures. -/

/-- Channel 3 of cell 0 with this binding and these values. -/
def chan3 (b : Nat) (l : List VReg) (x : Cell) : Cell := x.setChan 3 { Chan.reset with bind := wd b, act := wd b, q := l.map (fun v => ⟨0, some v⟩) }

/-- Entry 5 of the Guestbook of cell 0 in use; k1 names it, k2 names it with another generation, k0 is null. -/
def booked (n : Nat) (x : Cell) : Cell := { x with gb := [(5, ⟨0x30000, 2, 0, [11, 22], [], n, 1⟩)], k := [(1, 0xA001), (2, 0xA002)] }

/-- The image of a closure of two values in an S word in progress. -/
def imaged (x : Cell) : Cell := { booked 2 x with sop := some ⟨none, some (wordBytes 0x30000 ++ wordBytes 2 ++ List.replicate 64 1 ++ List.replicate 48 0), false, none, none⟩ }

/-- Handle bytes back in an S word in progress. -/
def handled (h : Nat) (x : Cell) : Cell := { booked 2 (win x) with sop := some ⟨none, some (leList 4 h), false, none, none⟩ }

/-- A frame at the top of the frame area: g1 its address, g2 its size. -/
def framed (x : Cell) : Cell := { gs [0xFF000000001FFF80, 64, 0x7FFFF] x with ftop := 0x1FFF80, fgen := 65535, sop := some ⟨none, some (leList 8 128), false, none, none⟩ }

theorem test_cpop_peek : (let u := after (.cpop 0 4 1 3) (at_ .S (chan3 0x80 [7, 8])); ((u.cell 0).greg 4, ((u.cell 0).chan 3).q.length)) = (7, 2)
    ∧ (let u := after (.cpop 0 4 0 3) (at_ .S (chan3 0x81 [7, 8])); ((u.cell 0).greg 4, ((u.cell 0).chan 3).q.length)) = (0, 1) := by decide +kernel
theorem test_kdup : (let u := after (.kdup 0 4 1) (at_ .S (booked 2)); ((u.cell 0).kreg 4, ((u.cell 0).gbEntry 5).count)) = (0xA001, 3) := by decide +kernel
theorem test_kdrop_last : (let u := after (.kdrop 0 1) (at_ .S (booked 1)); (((u.cell 0).gbEntry 5).count, ((u.cell 0).gbEntry 5).gen)) = (0, 2) := by decide +kernel
theorem test_kdrop_stale : (after (.kdrop 0 2) (at_ .S (booked 1))).gangs.map (fun g => g.reports.map (fun r => (r.cls, r.code, r.aux))) = [[(8, 1, 0xA002)]] := by decide +kernel
theorem test_apply : (let u := after (.apply 0 1) (at_ .S (booked 2)); (((u.cell 0).agent .S).pc, (u.cell 0).greg 18, (u.cell 0).greg 23, (u.cell 0).greg 25)) = (0x30000, 0xA001, 0x10004, 22) := by
  decide +kernel
theorem test_capture : (let u := after (.capture 0 4 1) (at_ .S imaged); ((u.cell 0).kreg 4, ((u.cell 0).gbEntry 0).vals.take 3)) = (1, [0x0101010101010101, 0x0101010101010101, 0]) := by decide +kernel
theorem test_frame : (let u := after (.frame 0 4 2) (at_ .S (gs [0, 1])); ((u.cell 0).greg 4, (u.cell 0).ftop, (u.cell 0).fgen)) = (0xFF000000001FFF80, 0x1FFF80, 1) := by decide +kernel

theorem witness_ScalarChannels :
    (∀ t, Issues (at_ .S id) 0 .S t 1 ∧ PushRoom (((flushSig (at_ .S id) 0 .S).cell 0).chan 3)) ∧ (∀ rs, regsFree ((at_ .S id).cell 0) rs = true)
    ∧ (∀ k ∈ [0x80, 0x81], let s := at_ .S (chan3 k [7, 8]); Issues s 0 .S 0 1 ∧ bKind (effBind ((s.cell 0).chan 3)) < 2 ∧ ((s.cell 0).chan 3).q = ⟨0, some 7⟩ :: [⟨0, some 8⟩])
    ∧ (∀ k ∈ [0x80, 0], let s := at_ .S (chan3 k [1, 2, 3, 4]); Issues s 0 .S 0 1 ∧ regsFree (s.cell 0) [1] = true ∧ bKind (effBind ((s.cell 0).chan 3)) < 2
      ∧ pendingBind ((s.cell 0).chan 3) = false ∧ 4 ≤ ((s.cell 0).chan 3).q.length ∧ bWait (effBind ((s.cell 0).chan 3)) = decide (k = 0x80))
    ∧ (∀ k ∈ [3, 5, 7], let s := at_ .S (chan3 k []); Issues s 0 .S 0 1 ∧ (bKind (effBind ((s.cell 0).chan 3)) = 3 ∨ 5 ≤ bKind (effBind ((s.cell 0).chan 3))))
    ∧ (∀ k ∈ [0x82, 2], let s := at_ .S (chan3 k []); Issues s 0 .S 0 1 ∧ bKind (effBind ((s.cell 0).chan 3)) < 3 ∧ ((s.cell 0).chan 3).q = [] ∧ bWait (effBind ((s.cell 0).chan 3)) = decide (k = 0x82)) := by
  refine ⟨fun t => ⟨(issues_at t .S).1, by unfold PushRoom; decide +kernel⟩, free_at .S, ?_, ?_, ?_, ?_⟩ <;> unfold Issues <;> decide +kernel

theorem witness_ScalarChannels_pending : let s := at_ .S (fun x => x.setChan 3 { Chan.reset with bind := 0x81, pending := true, q := [⟨0, some 7⟩] })
    Issues s 0 .S 0 1 ∧ regsFree (s.cell 0) [1] = true ∧ pendingBind ((s.cell 0).chan 3) = true := by
  unfold Issues
  decide +kernel

theorem witness_ClosureCounts :
    (∀ t, Issues (at_ .S id) 0 .S t 1 ∧ isNull ((at_ .S id).cell 0 |>.kreg 0) = true)
    ∧ (∀ n ∈ [1, 65534], let s := at_ .S (booked n); Issues s 0 .S 0 1 ∧ OwnHome s 0 ((s.cell 0).kreg 1) ∧ Live (s.cell 0) ((s.cell 0).kreg 1) ((s.cell 0).gbEntry 5) ∧ ((s.cell 0).gbEntry 5).count = n)
    ∧ (let s := at_ .S (booked 1); OwnHome s 0 ((s.cell 0).kreg 2) ∧ ((s.cell 0).gbEntry (hEnv ((s.cell 0).kreg 2))).gen ≠ hGen ((s.cell 0).kreg 2))
    ∧ (let s := at_ .S (booked 0); OwnHome s 0 ((s.cell 0).kreg 1) ∧ ((s.cell 0).gbEntry (hEnv ((s.cell 0).kreg 1))).count = 0) := by
  refine ⟨fun t => ⟨(issues_at t .S).1, by decide +kernel⟩, ?_, ?_, ?_⟩ <;> unfold OwnHome <;> (try unfold Issues Live) <;> decide +kernel

theorem witness_ClosureMemory :
    (let s := at_ .S (fun x => booked 2 (win x)); Issues s 0 .S 0 1 ∧ Issues s 0 .S 0 2 ∧ regsFree (s.cell 0) [1] = true ∧ storeRoom (s.cell 0) 1 = true ∧ (s.cell 0).sop = none
      ∧ checkAccess (flushSig s 0 .S) (.agent 0 .S) .S (addrS (flushSig s 0 .S) 0 1 0) 4 4 true false = (flushSig s 0 .S, .ok ⟨[⟨.home (2 ^ 60 + 0x1000), 4, none, 4, 0xFF00000000001000⟩], none⟩)
      ∧ isMcast [⟨.home (2 ^ 60 + 0x1000), 4, none, 4, 0xFF00000000001000⟩] = false ∧ OwnHome s 0 ((s.cell 0).kreg 1) ∧ Live (s.cell 0) ((s.cell 0).kreg 1) ((s.cell 0).gbEntry 5))
    ∧ (∀ h ∈ [0xA001, 0], let s := at_ .S (handled h); Issues s 0 .S 0 1 ∧ Issues s 0 .S 0 2 ∧ regsFree (s.cell 0) [1] = true ∧ ((flushSig s 0 .S).cell 0).sop = some ⟨none, some (leList 4 h), false, none, none⟩
      ∧ (h ≠ 0 → OwnHome (flushSig s 0 .S) 0 (BitVec.ofNat 32 (leNat (leList 4 h))) ∧ Live ((flushSig s 0 .S).cell 0) (BitVec.ofNat 32 (leNat (leList 4 h))) ((s.cell 0).gbEntry 5))
      ∧ (h = 0 → isNull (BitVec.ofNat 32 (leNat (leList 4 h))) = true)) := by
  unfold Issues OwnHome Live
  decide +kernel

theorem witness_CaptureAndApply :
    (let s := at_ .S imaged; Issues s 0 .S 0 1 ∧ regsFree (s.cell 0) [1] = true ∧ ∃ o b, ((flushSig s 0 .S).cell 0).sop = some o ∧ o.bytes = some b ∧ badImage b = false ∧ bits (wordAt b 8) 4 3 = 0
      ∧ ((flushSig s 0 .S).cell 0).gbq = [] ∧ freeEntry ((flushSig s 0 .S).cell 0) = some 0)
    ∧ (let s := at_ .S (booked 2); Issues s 0 .S 0 1 ∧ regsFree (s.cell 0) applyDst = true ∧ ((s.cell 0).agent .S).levels = [] ∧ outFull (s.cell 0) = false ∧ OwnHome s 0 ((s.cell 0).kreg 1)
      ∧ Live (s.cell 0) ((s.cell 0).kreg 1) ((s.cell 0).gbEntry 5) ∧ ((s.cell 0).gbEntry 5).nref = 0 ∧ isNull ((s.cell 0).kreg 0) = true) := by
  refine ⟨⟨⟨rfl, by decide +kernel⟩, by decide +kernel, _, _, rfl, rfl, by decide +kernel⟩, ?_⟩
  unfold Issues OwnHome Live
  decide +kernel

/-- The image of a closure of two values and a reference with this RGEN. -/
def referring (g : Nat) (x : Cell) : Cell :=
  { booked 2 x with sop := some ⟨none, some (wordBytes 0x30000 ++ wordBytes 0x12 ++ List.replicate 64 1 ++ wordBytes (wd (0x180000 + g * 2 ^ 48)) ++ List.replicate 40 0), false, none, none⟩ }
/-- Entry 5 with a reference that holds this generation. -/
def referred (g : Nat) (x : Cell) : Cell := { booked 2 x with gb := [(5, ⟨0x30000, 2, 1, [11, 22], [(0x180000, g)], 2, 1⟩)] }

theorem witness_CaptureAndApply_references :
    (∀ g ∈ [5, 0], let s := at_ .S (referring g); Issues s 0 .S 0 1 ∧ regsFree (s.cell 0) [1] = true
      ∧ (((s.cell 0).sop.bind (fun o => o.bytes)).map (fun b => (badImage b, bits (wordAt b 8) 4 3, bits (wordAt b 0x50) 48 16, ownFrameGen s 0 (bits (wordAt b 0x50) 0 21)))) = some (false, 1, g, 0)
      ∧ (s.cell 0).gbq = [] ∧ freeEntry (s.cell 0) = some 0)
    ∧ (∀ g ∈ [0, 3], let s := at_ .S (referred g); Issues s 0 .S 0 1 ∧ regsFree (s.cell 0) applyDst = true ∧ ((s.cell 0).agent .S).levels = [] ∧ outFull (s.cell 0) = false ∧ OwnHome s 0 ((s.cell 0).kreg 1)
      ∧ Live (s.cell 0) ((s.cell 0).kreg 1) ((s.cell 0).gbEntry 5) ∧ ((s.cell 0).gbEntry 5).refs.take ((s.cell 0).gbEntry 5).nref = [] ++ (0x180000, g) :: [] ∧ ownFrameGen s 0 0x180000 = 0) := by
  unfold Issues OwnHome Live
  decide +kernel

theorem witness_Frames :
    (let s := at_ .S (gs [0, 1]); Issues s 0 .S 0 1 ∧ regsFree (s.cell 0) [4, 2] = true ∧ 0x180000 + (64 + 64 * ((((s.cell 0).greg 2).toNat + 63) / 64)) ≤ (s.cell 0).ftop ∧ storeRoom (s.cell 0) 1 = true
      ∧ checkAccess (flushSig s 0 .S) (.agent 0 .S) .S (0xFF00000000000000 + wd ((s.cell 0).ftop - 128)) 64 64 true false
        = (flushSig s 0 .S, .ok ⟨[⟨.home (2 ^ 60 + 0x1FFF80), 64, none, 4, 0xFF000000001FFF80⟩], none⟩) ∧ isMcast [⟨.home (2 ^ 60 + 0x1FFF80), 64, none, 4, 0xFF000000001FFF80⟩] = false)
    ∧ (let s := at_ .S framed; Issues s 0 .S 0 1 ∧ regsFree (s.cell 0) [4, 3] = true ∧ (s.cell 0).ftop < 0x180000 + (64 + 64 * ((((s.cell 0).greg 3).toNat + 63) / 64)))
    ∧ (let s := at_ .S framed; regsFree (s.cell 0) [1] = true ∧ isNewest (flushSig s 0 .S) 0 ((s.cell 0).greg 1) = true ∧ storeRoom (s.cell 0) 1 = true
      ∧ (s.cell 0).sop = some ⟨none, some (leList 8 128), false, none, none⟩
      ∧ checkAccess (flushSig s 0 .S) (.agent 0 .S) .S ((s.cell 0).greg 1) 8 8 true false = (flushSig s 0 .S, .ok ⟨[⟨.home (2 ^ 60 + 0x1FFF80), 8, none, 4, 0xFF000000001FFF80⟩], none⟩)
      ∧ isNewest (flushSig s 0 .S) 0 ((s.cell 0).greg 2) = false) := by
  unfold Issues
  decide +kernel

/-! Vectors. -/

/-- A stream image of one level with its elements in a row: base, tiles, rows, columns, format, bytes of an element, HEAD, TAIL. -/
def img (base tiles rows cols ef bytes head tail : Nat) : Image :=
  BitVec.ofNat 1024 (base + (tiles * 2 ^ 16 + rows * cols * bytes * 2 ^ 32) * 2 ^ 64 + (cols + rows * 2 ^ 16 + tail * 2 ^ 32 + head * 2 ^ 48) * 2 ^ 128
    + (ef * 2 ^ 60 + 2 ^ 32) * 2 ^ 192 + (rows * cols * 2 ^ 32 + bytes) * 2 ^ 384)

/-- The shape of `n` lanes of a type, mask m0, round to nearest even. -/
def shp (n ty : Nat) (x : Cell) : Cell := { x with vshape := wd (n * 2 ^ 9 + ty) }

/-- A V word in flight to v3 with these operands. -/
def flying (op : VOp) (sh : Nat) (src : List VReg) (traps : BitVec 4) : VPend :=
  ⟨4, 0x10000, 0, op, wd sh, 5, false, traps, src, [], 2, some 101, false, [3], none, none, none, none, none⟩

/-- What the word writes to the first lane of v3, and the flags. -/
def lane0 (op : VOp) (ty : Nat) (a b : Nat) : Nat × BitVec 4 :=
  let y := vecResult op (wd (2 ^ 9 + ty)) 0 false [BitVec.ofNat 2048 a, BitVec.ofNat 2048 b] 0
  (laneAt (widthOf ty) y.1 0, y.2)

theorem test_vadd_f32 : lane0 .add 6 0x3F800000 0x40000000 = (0x40400000, 0) := by decide +kernel
theorem test_vadd_tie : (lane0 .add 6 0x4B800000 0x3F800000).1 = 0x4B800000 := by decide +kernel
theorem test_vmul_f16_overflow : (lane0 .mul 7 0x7BFF 0x4000).1 = 0x7C00 := by decide +kernel
theorem test_vsub_bf16 : (lane0 .sub 8 0x3F80 0x4000).1 = 0xBF80 := by decide +kernel
theorem test_vdiv_i32 : lane0 .div 2 0xFFFFFFF9 2 = (0xFFFFFFFD, 0) ∧ lane0 .div 2 7 0 = (0xFFFFFFFF, 0) := by decide +kernel
theorem test_vadds_i8 : (lane0 .adds 0 0x7F 1).1 = 0x7F ∧ (lane0 .adds 3 0xFF 1).1 = 0xFF := by decide +kernel
theorem test_vsar_i16 : (lane0 .sar 1 0x8000 20).1 = 0xFFFF ∧ (lane0 .shr 1 0x8000 20).1 = 0 := by decide +kernel
theorem test_vmulh_i8 : (lane0 .mulh 0 0xFE 0x40).1 = 0xFF := by decide +kernel
theorem test_vcvt_f32_bf16 : (lane0 (.cvt 0 8) 6 0x3F808000 0).1 % 2 ^ 16 = 0x3F80 ∧ (lane0 (.cvt 0 8) 6 0x3F818000 0).1 % 2 ^ 16 = 0x3F82 := by decide +kernel
theorem test_v_lands : (let u := after (.vWriteLanding 0 4) (at_ .V (fun x => { x with pend := [flying .add 0x202 [5, 6] 0], v := [(3, 0x900000000)] })); ((u.cell 0).vreg 3, (u.cell 0).pend.length)) = (0x90000000B, 0) := by
  decide +kernel
theorem test_v_not_in_its_cycle : (let u := after (.vWriteLanding 0 4) (at_ .V (fun x => { x with pend := [{ flying .add 0x202 [5, 6] 0 with due := some 102 }] })); ((u.cell 0).vreg 3, (u.cell 0).pend.length)) = (0, 1) := by
  decide +kernel
theorem test_v_issues : (let u := after (.vadd 0 3 0x21 2 0) (at_ .V (fun x => { x with chans := [(1, { Chan.reset with q := [⟨0, some 9⟩] })] })); ((u.cell 0).pend.map (fun p => (p.src.head?, p.vd, p.due)), ((u.cell 0).chan 1).q))
    = ([(some 9, [3], some 104)], []) := by decide +kernel
theorem test_defer : ((after (.defer 0 8 0 0) (at_ .V (fun x => { shp 2 2 x with v := [(8, 0x700000006)] }))).cell 0).dq = [⟨0, 32, [6]⟩, ⟨0, 32, [7]⟩] := by decide +kernel
theorem test_vapply : ((after (.vapply 0 1 8 1 0) (at_ .V (fun x => { shp 3 2 x with v := [(8, 0x000000090000000200000009), (9, 0x300000020000000100000000)] }))).cell 0).dq
    = [⟨2, 32, [1]⟩, ⟨9, 32, [0]⟩, ⟨9, 32, [0x30000002]⟩] := by decide +kernel

/-- Sources in v1 and v2, destination v3. -/
def need12 (ok : Nat → Bool) : VNeed := { srcs := [1, 2], dst := some 3, accept := ok }

theorem vfree_at (m : Bool) : VFree ((flushSig (at_ .V id) 0 .V).cell 0) m { srcs := [1, 2], dst := some 3, regs := [31], masks := [7], mdst := [6], gs := [4, 31] } := by
  revert m
  unfold VFree
  decide +kernel

theorem sources_at (f : Cell → Cell) (act : Nat → Bool) : ∃ s2 q r, vSources (flushSig (at_ .V f) 0 .V) 0 (shOf ((at_ .V f).cell 0)) act [1, 2] = (s2, .ok (some q, r)) := ⟨_, _, _, rfl⟩

theorem witness_LaneWords (t : BitVec 4) (m : Bool) : Issues (at_ .V id) 0 .V t 1 ∧ VFree ((flushSig (at_ .V id) 0 .V).cell 0) m { srcs := [1, 2], dst := some 3, regs := [31], masks := [7], mdst := [6], gs := [4, 31] }
    ∧ (∀ s c sh act, dstRoom s c sh act (some 3) = .ok)
    ∧ (∀ p ∈ [(10, 0), (0, 0), (5, 1), (0, 1), (6, 2), (10, 2), (6, 3)], let x := ((flushSig (at_ .V (shp 1 p.1)) 0 .V).cell 0)
        vFlt x (shOf x) (need12 (if p.2 = 0 then typesFI else if p.2 = 1 then typesI else if p.2 = 2 then typesF else typeF32)) = none)
    ∧ ∀ act, ∃ s2 q r, vSources (flushSig (at_ .V id) 0 .V) 0 (shOf ((at_ .V id).cell 0)) act [1, 2] = (s2, .ok (some q, r)) :=
  ⟨(issues_at t .V).1, vfree_at m, fun _ _ _ _ => rfl, by decide +kernel, sources_at id⟩

theorem witness_ShapeMaskAndMoveWords (t : BitVec 4) (m : Bool) : Issues (at_ .V id) 0 .V t 1 ∧ Issues (at_ .V id) 0 .V t 2
    ∧ VFree ((flushSig (at_ .V id) 0 .V).cell 0) m { srcs := [1, 2], dst := some 3, regs := [31], masks := [7], mdst := [6], gs := [4, 31] } ∧ (∀ s c sh act, dstRoom s c sh act (some 3) = .ok)
    ∧ (∀ act, ∃ s2 q r, vSources (flushSig (at_ .V id) 0 .V) 0 (shOf ((at_ .V id).cell 0)) act [1, 2] = (s2, .ok (some q, r)))
    ∧ (bits ((0x00510008 : BitVec 32).setWidth 64) 24 8 = 0 ∧ bits ((0x00510008 : BitVec 32).setWidth 64) 18 1 = 0 ∧ bits ((0x00510008 : BitVec 32).setWidth 64) 4 5 = 0
      ∧ bits ((0x00510008 : BitVec 32).setWidth 64) 0 4 < 11 ∧ shapeLen ((0x00510008 : BitVec 32).setWidth 64) ≤ laneN ((0x00510008 : BitVec 32).setWidth 64))
    ∧ bits ((at_ .V id).cell 0).arithctl 0 3 = 0 :=
  ⟨(issues_at t .V).1, (issues_at t .V).2, vfree_at m, fun _ _ _ _ => rfl, sources_at id, by decide +kernel, by decide +kernel⟩

theorem witness_VectorIssue : (∀ f ∈ [(1 : BitVec 6), 31], isChan f = false) ∧ (∀ f ∈ [(0x23 : BitVec 6), 0x33], isChan f = true ∧ f.toNat % 16 = 3)
    ∧ (∀ k ∈ [0x80, 0x81], let s := at_ .V (chan3 k [7]); bKind (effBind ((s.cell 0).chan 3)) < 2 ∧ ((s.cell 0).chan 3).q = ⟨0, some 7⟩ :: []) := by decide +kernel

theorem witness_VectorLanding :
    (∀ p ∈ [flying .add 6 [5, 6] 7, { flying .mpop 6 [5] 0 with vd := [], gd := some 31 }, { flying .mand 6 [5, 6] 0 with vd := [], md := some 7 }],
      let s := at_ .V (fun x => { x with pend := [p] }); (s.cell 0).pend.find? (fun p => p.id = 4) = some p ∧ p.late = [] ∧ p.ch = none ∧ p.vd.length ≤ 1
      ∧ (p.due = some 101 ∧ 101 < s.now + p.lat) ∧ ∀ q ∈ (s.cell 0).pend, q.id < 4 → sameDst q p = false)
    ∧ (let p := { flying (.load [0]) 6 [0] 0 with late := [⟨7, 0, [0]⟩], due := none, lock := true }; let s := at_ .V (fun x => { x with pend := [p], returning := [back .vec] })
      (s.cell 0).returning.find? (fun l => l.id = 7 && l.dest = .vec) = some (back .vec) ∧ p ∈ (s.cell 0).pend ∧ p.late = [⟨7, 0, [0]⟩]) := by decide +kernel

theorem witness_LaneResults : ∀ ty < 11, etype (wd ty) < 11 ∧ 0 < laneN (wd ty) ∧ laneN (wd ty) - 1 < laneN (wd ty) := by decide +kernel

theorem witness_IntegerLanes : ∀ ty < 6, 2 ^ widthOf ty - 1 < 2 ^ widthOf ty ∧ (BitVec.ofNat (widthOf 2) 0x80000000).toInt = -(2 ^ (widthOf 2 - 1)) := by decide +kernel

theorem witness_MaskAndScalarResults : (∀ ty < 11, etype (wd (0x200 + ty)) < 11) ∧ (∀ ty < 6, etype (wd (0x200 + ty)) < 6)
    ∧ ((List.range (laneN 0x202)).filter (activeLane 0x202 0 false)).map (fun i => intValue (etype 0x202) (laneW 0x202) (laneAt (laneW 0x202) 5 i)) ≠ [] := by decide +kernel

/-- A V word in flight to channel 3. -/
def toChan (sh : Nat) : VPend := { flying .add sh [5, 6] 0 with vd := [], ch := some 3 }

theorem witness_VectorIssue_both_faults : (let s := at_ .V (fun x => { chan3 0 [] x with chans := (chan3 0 [] x).chans ++ [(4, { Chan.reset with act := 7, bind := 7 })] })
      dstRoom s 0 0x206 (fun _ => true) (some 0x24) = .flt (chanFlt ((s.cell 0).chan 4) 4 3)
      ∧ vSources s 0 0x206 (fun _ => true) [0x23] = (s, .flt (chanFlt ((s.cell 0).chan 3) 3 1)))
    ∧ ((at_ .V id).cell 0).vpre = [] ∧ ∀ q ∈ ((at_ .V id).cell 0).stores, q.blind = false := by
  refine ⟨⟨?_, ?_⟩, by decide +kernel, by decide +kernel⟩ <;> rfl

theorem witness_VectorLanding_order : let p := { flying .mand 6 [5, 6] 0 with vd := [], md := some 7 }
    let q := { flying .add 6 [5, 6] 0 with id := 2, md := some 7 }
    let s := at_ .V (fun x => { x with pend := [q, p] })
    (s.cell 0).pend.find? (fun p => p.id = 4) = some p ∧ landable s.now p = true ∧ landable s.now q = true ∧ sameDst q p = true
      ∧ (let d := { flying (.drain 2) 6 [5, 6] 7 with vd := [3, 4] }; d.ch = none ∧ d.vd.Nodup ∧ d.vd[1]? = some 4)
      ∧ wroteSince ((at_ .V (fun x => { x.setAgent .S { x.agent .S with dpos := 12 } with gpast := [(9, 31, 5)] })).cell 0) 4 31 = true := by decide +kernel

theorem witness_VectorLanding_channel : (∀ b ∈ [0, 2], let s := at_ .V (fun x => { chan3 b [] x with pend := [toChan 0x202] })
      (toChan 0x202).ch = some 3 ∧ (toChan 0x202).adv = none ∧ (toChan 0x202).vd = [] ∧ (toChan 0x202).md = none ∧ (toChan 0x202).gd = none
      ∧ (bKind ((s.cell 0).chan 3).act = b ∧ netRecv (netpOf (s.cell 0) (bParam ((s.cell 0).chan 3).act % 16)) = false)) ∧
    ∀ y : VReg, (([⟨4, none⟩] : List Slot).map (fun q => if q.id = (toChan 0x202).id && q.val.isNone then ⟨(toChan 0x202).id, some y⟩ else q)) = ⟨(toChan 0x202).id, some y⟩ :: [] := by
  refine ⟨by decide +kernel, fun y => rfl⟩

/-- A v register of 64 f32 lanes with this value in lane 1. -/
def f32at (v : Nat) : VReg := BitVec.ofNat 2048 (v * 2 ^ 32)

theorem witness_LaneResults_float :
    (∀ ty ∈ [6, 7, 8, 9, 10], 0x3F < 2 ^ widthOf ty ∧ decodeFloat (fmtOf ty) (nanBits (fmtOf ty)) = .nan ∧ (decodeFloat (fmtOf ty) 0x3F).finite = true
      ∧ (laneOp .add ty 0 (maxMag (fmtOf ty)) (maxMag (fmtOf ty)) 0).2 = (if ty = 9 then flagS else flagO))
    ∧ etype 6 = 6 ∧ (∀ t < 11, 0 < lanesOf t)
    ∧ decodeFloat fp32 (laneAt 32 (f32at 0x7FC00000) 1) = .nan ∧ decodeFloat fp32 (laneAt 32 (f32at 0x7F800000) 1) = .inf false
    ∧ (∀ k < 64, (decodeFloat fp32 (laneAt 32 (f32at 0x3F800000) k)).finite = true) ∧ (absFrac (decodeFloat fp32 (laneAt 32 (vecResult .q8q 0x8006 0 false [f32at 0x3F800000] 0).1 16))).1 ≠ 0
    ∧ (absFrac (decodeFloat fp32 (laneAt 32 (vecResult .q8q 0x8006 0 false [0] 0).1 16))).1 = 0 := by decide +kernel

theorem witness_MaskAndScalarResults_float : (∀ ty ∈ [6, 7, 8, 9, 10], ∃ L, L < 9 ∧ laneN (wd ty) = 2 ^ L) ∧ ((List.range (laneN 0x8006)).filter (activeLane 0x8006 0 false)).length = 64 := by
  refine ⟨fun ty h => ?_, by decide +kernel⟩
  revert ty
  decide +kernel

/-! Vector memory, streams, deferral, banks. -/

/-- Four tiles of 2 by 2 i32 elements in the cell store, two of them present, as stream 3; two lanes. -/
def ring (x : Cell) : Cell := { shp 2 2 (win x) with s := [(3, img 0xFF00000000001000 4 2 2 2 4 0 2)] }

/-- A check has a result. -/
def resB {α : Type} (p : Res α) : Bool :=
  match p with
  | .ok _ => true
  | .flt _ => false

/-- What a V word holds when it issues in a state. -/
def vin (s : State) (src : List VReg) : VIn := ⟨s, 0, src, [], (s.cell 0).vshape, 0⟩

theorem test_vld_enters : (let u := after (.vld 0 3 0 1 4) (at_ .V (fun x => shp 2 2 (win x))); (u.cell 0).loads.map (fun l => l.accs.map (fun g => g.map (fun a => (a.loc, a.len)))))
    = [[[(.home (2 ^ 60 + 0x1004), 4), (.home (2 ^ 60 + 0x1008), 4)]]] := by decide +kernel
theorem test_vscat : (let u := after (.vscat 0 1 2 0 1 0) (at_ .V (fun x => { shp 2 2 (win x) with v := [(1, 0x0000000B0000000A), (2, 0x0000000300000001)] }));
      (u.cell 0).stores.map (fun q => q.parts.map (fun g => g.map (fun p => (p.1.loc, p.2))))) = [[[(.home (2 ^ 60 + 0x1004), [10, 0, 0, 0])], [(.home (2 ^ 60 + 0x100C), [11, 0, 0, 0])]]] := by
  decide +kernel
theorem test_vlds_position : (let u := after (.vlds 0 5 3 0) (at_ .V ring); (tilePos ((u.cell 0).stream 3), sHead ((u.cell 0).stream 3), (u.cell 0).loads.length)) = (2, 0, 1) := by decide +kernel

theorem witness_VectorMemoryWords (t : BitVec 4) (m : Bool) : Issues (at_ .V id) 0 .V t 2 ∧ VFree ((flushSig (at_ .V id) 0 .V).cell 0) m { srcs := [1, 2], dst := some 3, regs := [31], masks := [7], mdst := [6], gs := [4, 31] }
    ∧ (∃ s2 q r, vSources (flushSig (at_ .V id) 0 .V) 0 (shOf ((at_ .V id).cell 0)) (fun _ => true) [1, 2] = (s2, .ok (some q, r)) ∧ q.2 = [])
    ∧ (∃ w, VLoads 3 false (fun v i => addrV 1 0x7FFFFFC v + wd (i * vBytes v)) loadGroups (vin (at_ .V (fun x => shp 0 2 (win x))) []) w)
    ∧ (let v := vin (at_ .V (fun x => shp 64 6 (win x))) []; loadRoom (v.s.cell v.c) = true ∧ vLanes v false ≠ []
      ∧ ∃ s1 ks, checkMany v.s (.agent v.c .V) .V (vBytes v) false false ((vLanes v false).map (fun i => (addrV 1 0x7FFFFFC v + wd (i * vBytes v), vBytes v))) = (s1, .ok ks))
    ∧ (let v := vin (at_ .V (fun x => shp 2 2 (win x))) [5, 6]; blindEntry (v.s.cell v.c) = none ∧ storeRoom (v.s.cell v.c) 1 = true
      ∧ checkMany v.s (.agent v.c .V) .V (vBytes v) true false ((vLanes v false).map (fun i => (addrV 1 0 v + wd (laneAt 32 6 i * vBytes v), vBytes v)))
        = (v.s, .ok [⟨[⟨.home (2 ^ 60 + 0x1018), 4, none, 4, 0xFF00000000001018⟩], none⟩, ⟨[⟨.home (2 ^ 60 + 0x1000), 4, none, 4, 0xFF00000000001000⟩], none⟩])) := by
  refine ⟨(issues_at t .V).2, vfree_at m, ⟨_, _, _, rfl, rfl⟩, ?_, ⟨by decide +kernel, by decide +kernel, ok_of (by decide +kernel)⟩, by decide +kernel⟩
  exact ⟨_, _, _, by decide +kernel, rfl, fun _ => rfl, fun h => absurd (by decide +kernel) h⟩

theorem witness_StreamWords (t : BitVec 4) (m : Bool) : (Issues (at_ .V id) 0 .V t 1 ∧ VFree ((flushSig (at_ .V id) 0 .V).cell 0) m { srcs := [1, 2], dst := some 3, regs := [31], masks := [7], mdst := [6], gs := [4, 31] })
    ∧ (let s := at_ .V ring; let x := s.cell 0; let i := x.stream 3; streamFlt x 3 (etype x.vshape) = none ∧ sCount i ≠ 0 ∧ loadRoom x = true ∧ imageOut x 3 = false ∧ bankOf x 3 = none
      ∧ (List.range (min (shapeLen x.vshape) (tileSize i - tilePos i))).filter (activeLane x.vshape 0 false) = [0, 1]
      ∧ resB (checkRing s 0 .V 4 4 false ([0, 1].map (fun k => elemAddr i 0 (sHead i) (tilePos i + k)))) = true ∧ ringRoom x 3 = true ∧ blindEntry x = none ∧ storeRoom x 1 = true
      ∧ (storeGroup s 0 .V 0 3 none 0 (tilePos i) 2 [(0, [1, 0, 0, 0]), (1, [2, 0, 0, 0])] 4).2 = none)
    ∧ (let x := { (at_ .V ring).cell 0 with lent := [(1, 3)] }; bankOf x 3 = some 1 ∧ (bankGroup x (x.stream 3) 1 4 [0, 1]).isSome = true)
    ∧ (∀ q ∈ Tab.get [] ((at_ .V ring).cell 0).tails 3, q.full = true → q.stores ≠ []) ∧ sEfmt (img 0 4 2 2 2 4 0 2) < 11 := by
  refine ⟨⟨(issues_at t .V).1, vfree_at m⟩, by decide +kernel, by decide +kernel, fun q h => ?_, by decide +kernel⟩
  cases h

/-- Two batches in the deferral queue. -/
def queued (n : Nat) (x : Cell) : Cell := { shp 2 2 x with dq := ⟨7, 32, [1]⟩ :: ⟨8, 32, [2]⟩ :: List.replicate n ⟨0, 32, []⟩ }

/-- Handles 9, 2, 9 in v8 at three lanes. -/
def three : VIn := vin (at_ .V (fun x => { shp 3 2 x with v := [(8, 0x000000090000000200000009)] })) []
/-- The handle of a lane. -/
def threeH (l : Nat) : Nat := laneAt 32 ((three.s.cell three.c).vreg 8) l

theorem three_live : (List.range 64).filter (fun l => activeLane three.sh three.msk false l && threeH l != 0) = [0, 1, 2] ∧ threeH 0 = 9 ∧ threeH 1 = 2 ∧ threeH 2 = 9 := by decide +kernel

theorem witness_DeferralWords (t : BitVec 4) (m : Bool) : (Issues (at_ .V id) 0 .V t 1 ∧ VFree ((flushSig (at_ .V id) 0 .V).cell 0) m { srcs := [1, 2], dst := some 3, regs := [31], masks := [7], mdst := [6], gs := [4, 31] })
    ∧ inFile 24 8 ∧ inFile 31 1 ∧ ¬ inFile 25 8
    ∧ (let v := vin (at_ .V (queued 0)) []; (v.s.cell v.c).dq.length + (vLanes v false).length ≤ 4096 ∧ (v.s.cell v.c).dq = [⟨7, 32, [1]⟩] ++ [⟨8, 32, [2]⟩] ∧ 1 ≤ shapeLen v.sh)
    ∧ (let s := at_ .V (queued 4093); 4096 < (s.cell 0).dq.length + ((List.range (laneN (shOf (s.cell 0)))).filter (lanesOn (s.cell 0) false)).length)
    ∧ [2, 9].Pairwise (· < ·) ∧ ∀ g, g ∈ [2, 9] ↔ ∃ l ∈ (List.range 64).filter (fun l => activeLane three.sh three.msk false l && threeH l != 0), threeH l = g := by
  refine ⟨⟨(issues_at t .V).1, vfree_at m⟩, ?_, ?_, ?_, by decide +kernel, ?_, by decide, fun g => ?_⟩
  · unfold inFile; decide
  · unfold inFile; decide
  · unfold inFile; decide
  · unfold lanesOn; decide +kernel
  · obtain ⟨h, h0, h1, h2⟩ := three_live
    rw [h]
    simp [h0, h1, h2]
    omega

/-- g5 asks for bank 1 and stream 3 with two tiles, g6 with a reserved bit set; `b` is what bank 1 is lent to. -/
def banked (b : Tab Nat) (x : Cell) : Cell := { gs [0, 0, 0, 0, 0x20301, 0x21301] x with s := [(3, img 0xFF00000000001000 4 2 2 2 4 0 2)], lent := b }

theorem test_banklend : (let u := after (.banklend 0 5) (at_ .V (banked [])); ((u.cell 0).lent, sHead ((u.cell 0).stream 3), sTail ((u.cell 0).stream 3))) = ([(1, 3)], 0, 2) := by decide +kernel

theorem banked_free : Issues (at_ .V (banked [])) 0 .V 0 2 ∧ VFree ((flushSig (at_ .V (banked [])) 0 .V).cell 0) false { gs := [5], shaped := false } := by
  unfold Issues VFree
  decide +kernel

theorem witness_BankWords :
    (let s := at_ .V (banked []); let x := s.cell 0; let k := x.greg 5; Issues s 0 .V 0 2 ∧ VFree ((flushSig s 0 .V).cell 0) false { gs := [5], shaped := false } ∧ imageOut x (bits k 8 4) = false ∧ (∀ p ∈ x.pend, ∀ r ∈ p.vd, r / 8 ≠ bits k 0 2)
      ∧ Tab.look x.lent (bits k 0 2) = none ∧ bankOf x (bits k 8 4) = none ∧ bits k 24 40 = 0 ∧ bits k 12 4 = 0 ∧ bits k 2 6 = 0 ∧ invalidImage (lendImage (x.stream (bits k 8 4)) (bits k 16 8)) = false
      ∧ (∀ h < bits k 16 8, h < sNtiles (x.stream (bits k 8 4)) → ∀ j < tileSize (x.stream (bits k 8 4)), 0 ≤ bankAddr (x.stream (bits k 8 4)) h j
          ∧ bankAddr (x.stream (bits k 8 4)) h j + max 1 (elemBytes (sEfmt (x.stream (bits k 8 4)))) ≤ 2048))
    ∧ (let s := at_ .V (banked [(1, 3)]); let x := s.cell 0; Issues s 0 .V 0 2 ∧ gReady x .V [5] = true ∧ imageOut x (bits (x.greg 5) 8 4) = false ∧ imageOut x (bits (x.greg 6) 8 4) = false ∧ Tab.look x.lent (bits (x.greg 5) 0 2) = some (bits (x.greg 5) 8 4) ∧ stepsOn s 0 (bits (x.greg 5) 8 4) = false
      ∧ bits x.arithctl 0 3 = 0 ∧ (Tab.look x.lent (bits (x.greg 5) 0 2)).isSome = true
      ∧ Tab.look x.lent (bits (x.greg 6) 0 2) = some (bits (x.greg 6) 8 4) ∧ bits (x.greg 6) 12 4 ≠ 0 ∧ gReady x .V [6] = true)
    ∧ (let s := at_ .V (banked [(1, 4)]); let x := s.cell 0; Issues s 0 .V 0 2 ∧ gReady x .V [5] = true ∧ imageOut x (bits (x.greg 5) 8 4) = false ∧ imageOut x (bits (x.greg 6) 8 4) = false ∧ Tab.look x.lent (bits (x.greg 5) 0 2) ≠ some (bits (x.greg 5) 8 4))
    ∧ (let s := at_ .V (fun x => { banked [] x with pend := [{ flying .add 6 [5, 6] 0 with vd := [8] }] }); let x := s.cell 0; Issues s 0 .V 0 2 ∧ gReady x .V [5] = true ∧ ∃ p ∈ x.pend, ∃ r ∈ p.vd, r / 8 = bits (x.greg 5) 0 2) := by
  refine ⟨⟨banked_free.1, banked_free.2, ?_⟩, ?_⟩ <;> (try unfold Issues) <;> decide +kernel

/-- Channel 3 bound to stream 3. -/
def ported (l : List VPend) (q : List Store) (x : Cell) : Cell := { (ring x).setChan 3 { Chan.reset with act := wd (4 + 3 * 2 ^ 32), bind := wd (4 + 3 * 2 ^ 32) } with pend := l, stores := q }
/-- A push in flight through it. -/
def pushed : VPend := { toChan 0x402 with adv := some (3, 0), back := some { Agent.reset with pc := 0x10000 } }
/-- Its entry, which awaits its values. -/
def awaiting : Store := ⟨4, 4, .V, 0, 0, [], 4, 0, none, false, false, true⟩

theorem witness_VectorIssue_port : let s := at_ .V (ported [] [])
    let b := effBind ((s.cell 0).chan 3)
    bKind b = 4 ∧ bParam b % 16 = 3 ∧ portPlan s 0 3 (loS ((s.cell 0).agent .V) 3) 0x402 (activeLane 0x402 0 false)
      = some [[⟨.home (2 ^ 60 + 0x1020), 4, none, 4, 0xFF00000000001020⟩], [⟨.home (2 ^ 60 + 0x1024), 4, none, 4, 0xFF00000000001024⟩]] := by decide +kernel

theorem witness_VectorLanding_port : (let s := at_ .V (ported [pushed] [awaiting]); pushed.ch = some 3 ∧ pushed.adv = some (3, 0) ∧ pushed.vd = [] ∧ pushed.md = none ∧ pushed.gd = none
      ∧ ringRoom (s.cell 0) 3 = true ∧ imageOut (s.cell 0) 3 = false ∧ (∀ q ∈ (s.cell 0).pend, q.id < pushed.id → pushesTo 3 q = false)
      ∧ (s.cell 0).stores.any (fun q => q.id = pushed.id && q.awaits) = true ∧ ((pushPort s 0 .V 0 3 (some 4) 0 0x402 (fun _ => true) 5).2 = none)
      ∧ ∃ b, pushed.back = some b ∧ b.dpos < 7)
    ∧ ringRoom ((at_ .V (fun x => { ported [pushed] [] x with s := [(3, img 0xFF00000000001000 4 2 2 2 4 0 4)] })).cell 0) 3 = false
    ∧ ((pushPort (at_ .V (fun x => { ported [pushed] [] x with s := [(3, img 0x7F00000000001000 4 2 2 2 4 0 2)] })) 0 .V 0 3 none 0 0x402 (fun _ => true) 5).2).isSome = true := by
  refine ⟨⟨by decide +kernel, by decide +kernel, by decide +kernel, by decide +kernel, by decide +kernel, by decide +kernel, by decide +kernel, by decide +kernel, by decide +kernel,
    by decide +kernel, _, rfl, by decide +kernel⟩, by decide +kernel, by decide +kernel⟩

/-! The matrix array. -/

/-- A step word of cell 0 at the array, over two-by-two bf16 tiles at 0x1000 and 0x2000 of its store. -/
def mst (w : Instr) (begun : Bool) : MStep :=
  ⟨0, 0x10000, 0, w, 0xFF00000001000000, img 0xFF00000000001000 4 2 2 8 2 0 2, img 0xFF00000000002000 4 2 2 8 2 0 2, 0, 0, 0, 0, 0, Agent.reset, false, false, begun, false, 100, 0, [], []⟩

/-- Cell 0 with those streams, as s0 and s1. -/
def streams2 (x : Cell) : Cell := { gs [0, 0, 0, 0, 0xFF00000001000000] x with s := [(0, img 0xFF00000000001000 4 2 2 8 2 0 2), (1, img 0xFF00000000002000 4 2 2 8 2 0 2)] }

/-- The array of cluster 0 with one step of cell 0, granted at cycle 50, and what `f` changes of it; the tiles in memory hold 1 and 2. -/
def arr (m : MStep) (f : Cluster → Cluster) : State :=
  let s := at_ .M streams2
  let b := fun (k : Nat) => (List.range 4).flatMap (fun _ => leList 2 k)
  { s with mem := memPutAll (memPutAll [] (2 ^ 60 + 0x1000) (b 0x3F80)) (2 ^ 60 + 0x2000) (b 0x4000)
           clusters := [(0, f { s.cluster 0 with granted := 50, steps := [m] })] }

/-- Accumulator tile `n` of cluster 0 at element `k`. -/
def accAt (s : State) (n k : Nat) : Nat := Tile.at ((s.cluster 0).tile n) k

theorem test_mma : (let u := after (.stepRetire 0) (arr (mst (.mma 0 1 0 1 0 0 0 0) true) id); (accAt u 1 0, accAt u 1 129, accAt u 1 2, sHead ((u.cell 0).stream 0), (u.cluster 0).steps.length))
    = (0x40800000, 0x40800000, 0, 1, 0) := by decide +kernel
theorem test_mma_negated : accAt (after (.stepRetire 0) (arr (mst (.mma 0 1 0 1 1 0 0 0) true) id)) 1 0 = 0xC0800000 := by decide +kernel
theorem test_mswap : (let u := after (.stepRetire 0) (arr (mst (.mswap 0 2 1) true) (fun x => { x with acc := [(1, [(0, 7)])], codes := [(1, 3)] })); (accAt u 2 0, accAt u 1 0, (u.cluster 0).code 2)) = (7, 0, 3) := by
  decide +kernel
theorem test_step_cost : (let u := after (.stepBegin 0) (arr (mst (.mma 0 1 0 1 0 0 0 0) false) id); ((u.cluster 0).steps.map (fun m => (m.begun, m.ends)))) = [(true, 105)] := by decide +kernel
theorem test_no_lease : ((after (.mma 0 1 0 1 0 0 0 0) { at_ .M streams2 with clusters := [] }).gangs.map (fun g => g.reports.map (fun r => (r.cls, r.code, r.aux)))) = [[(0xE, 1, 1)]] := by decide +kernel

theorem witness_MatrixWords (t : BitVec 4) : Issues (at_ .M id) 0 .M t 1 ∧ Issues (at_ .M id) 0 .M t 2
    ∧ (let s := at_ .M streams2; (s.cluster (clusterOf 0)).lessee = some (0 % 4) ∧ (s.cluster (clusterOf 0)).used < 256 ∧ (stepsOf (s.cluster (clusterOf 0)) 0).length < 16 ∧ gReady (s.cell 0) .M [5] = true ∧ ((s.cell 0).agent .M).dpos < ((s.cell 0).agent .S).dpos
      ∧ gReady (s.cell 0) .M [] = true ∧ (∀ p ∈ opStreams (.mma 0 1 0 1 0 0 0 0), ∀ l ∈ (s.cell 0).loads ++ (s.cell 0).returning, l.dest ≠ .stream p.2)
      ∧ stepsOf (s.cluster (clusterOf 0)) 0 = [] ∧ (s.cluster (clusterOf 0)).replay = none ∧ (s.cell 0).saved = none)
    ∧ (let s := { at_ .M id with clusters := [] }; Issues s 0 .M 0 1 ∧ (s.cluster (clusterOf 0)).lessee ≠ some (0 % 4) ∧ 0 % 4 ∉ (s.cluster (clusterOf 0)).reqs)
    ∧ (let s := { at_ .M id with clusters := [(0, { Cluster.reset with reqs := [0] })] }; Issues s 0 .M 0 1 ∧ (s.cluster (clusterOf 0)).lessee ≠ some (0 % 4) ∧ 0 % 4 ∈ (s.cluster (clusterOf 0)).reqs) := by
  refine ⟨(issues_at t .M).1, (issues_at t .M).2, by decide +kernel, ?_, ?_⟩ <;> unfold Issues <;> decide +kernel

/-- A step is ready to begin at its array. -/
def Ready (s : State) (m : MStep) : Prop :=
  headStep (s.cluster 0) 0 = some m ∧ arrayFree s 0 = true ∧ active s m.cell = true ∧ stepClear s m = true ∧ stepStores s m = true ∧ operandsHere (refresh (s.cell m.cell) m) = true

theorem witness_StepBegins :
    (let m := mst (.mma 0 1 0 1 0 0 0 0) false; let s := arr m id; let r := refresh (s.cell m.cell) m; Ready s m ∧ firstBad [stepFlt s r, stepAddr s r] = none ∧ scalesReady s r = .ok
      ∧ poisonRuns s m.cell (stepReads s r) = (s, none) ∧ sEfmt m.ia = 8 ∧ sEfmt m.ib = 8)
    ∧ (let m := { mst (.mma 0 1 0 1 0 0 0 0) false with ib := img 0xFF00000000002000 4 3 2 8 2 0 2 }; let s := arr m id; let r := refresh (s.cell m.cell) m; Ready s m ∧ (firstBad [stepFlt s r, stepAddr s r]).isSome = true)
    ∧ (let m := { mst (.mdrain 0 1 0 5 0) false with g := 0x8000 }; let s := arr m id; let r := refresh (s.cell m.cell) m; Ready s m ∧ stepFlt s r = none ∧ (firstBad [stepFlt s r, stepAddr s r]).isSome = true)
    ∧ (let m := mst (.mma 0 1 0 1 0 0 0 0) false; let s := { arr m id with poison := [2 ^ 60 + 0x1000] }; let r := refresh (s.cell m.cell) m; Ready s m ∧ firstBad [stepFlt s r, stepAddr s r] = none
      ∧ scalesReady s r = .ok ∧ (poisonRuns s m.cell (stepReads s r)).2.isSome = true)
    ∧ Ready (arr (mst (.mswap 0 1 2) false) id) (mst (.mswap 0 1 2) false) ∧ Ready (arr (mst (.tstart 0 1) false) id) (mst (.tstart 0 1) false) := by
  unfold Ready
  decide +kernel

/-- A step that is due to retire, with no trigger. -/
def Due (m : MStep) : Prop := dueStep (arr m id) 0 = some m ∧ NoTrigger (stepView (arr m id) m) 0 m

/-- The checksum that MKAT of these operands computes, computed under another K. -/
def katSum : BitVec 32 := crc32c (tileBytes (mulTile (arr (mst (.mkat 0 0 1 0 0 0) true) id) (mst (.mkat 0 0 1 0 0 0) true) [] [] [] false).1)

theorem katDiffers_at (k : BitVec 32) : katDiffers (arr (mst (.mkat 0 0 1 0 0 k) true) id) (mst (.mkat 0 0 1 0 0 k) true) [] []
    = (crc32c (tileBytes (mulTile (arr (mst (.mkat 0 0 1 0 0 k) true) id) (mst (.mkat 0 0 1 0 0 k) true) [] [] [] false).1) != k) := rfl

theorem die_clusters (s : State) (l : Tab Cluster) (w : Actor) : w.die { s with clusters := l } = w.die s := by
  cases w <;> rfl

theorem window_clusters (s : State) (l : Tab Cluster) (w : Actor) (u n : Nat) : window { s with clusters := l } w u n = window s w u n := by
  unfold window
  rw [die_clusters]
  unfold cellCount clusterCount
  dsimp only

theorem mHome_of {s t : State} (h : ∀ w u n, window s w u n = window t w u n) (c : Nat) (v : Word) : mHome s c v = mHome t c v := by
  unfold mHome
  rw [h]

theorem elemNum_of {s t : State} (h : ∀ c v, mHome s c v = mHome t c v) (hc : s.cells = t.cells) (hm : s.mem = t.mem) (c n : Nat) (i : Image) (o : Word) (k : Nat) (sc : List Byte) (e : Nat) :
    elemNum s c n i o k sc e = elemNum t c n i o k sc e := by
  unfold elemNum elemAt State.cell rd
  rw [h, hc, hm]

theorem mulTile_of {s t : State} (h : ∀ c n i o k sc e, elemNum s c n i o k sc e = elemNum t c n i o k sc e) (m : MStep) (k : BitVec 32) :
    mulTile s { m with word := .mkat 0 0 1 0 0 k } [] [] [] false = mulTile t { m with word := .mkat 0 0 1 0 0 0 } [] [] [] false := by
  simp only [mulTile, h, opStreams]

theorem mulTile_at (k : BitVec 32) : mulTile (arr (mst (.mkat 0 0 1 0 0 k) true) id) (mst (.mkat 0 0 1 0 0 k) true) [] [] [] false
    = mulTile (arr (mst (.mkat 0 0 1 0 0 0) true) id) (mst (.mkat 0 0 1 0 0 0) true) [] [] [] false :=
  mulTile_of (elemNum_of (mHome_of (fun w u n => window_clusters (arr (mst (.mkat 0 0 1 0 0 0) true) id) _ w u n)) rfl rfl) (mst (.mkat 0 0 1 0 0 0) true) k

theorem due_kat : ∃ k, Due (mst (.mkat 0 0 1 0 0 k) true) := by
  refine ⟨katSum, ?_⟩
  have h1 : katDiffers (arr (mst (.mkat 0 0 1 0 0 katSum) true) id) (mst (.mkat 0 0 1 0 0 katSum) true) [] [] = false := by
    rw [katDiffers_at, mulTile_at]
    show (katSum != katSum) = false
    simp
  generalize katSum = k at h1
  refine ⟨rfl, ?_⟩
  show NoTrigger (arr (mst (.mkat 0 0 1 0 0 k) true) id) 0 _
  have e0 : sEfmt (img 0xFF00000000001000 4 2 2 8 2 0 2) = 8 := by decide +kernel
  have e1 : sEfmt (img 0xFF00000000002000 4 2 2 8 2 0 2) = 8 := by decide +kernel
  have h0 : takenScales ((arr (mst (.mkat 0 0 1 0 0 k) true) id).cluster 0) (mst (.mkat 0 0 1 0 0 k) true) 0 = [] := by
    simp [takenScales, mst, MStep.img, e0]
  have h2 : takenScales ((arr (mst (.mkat 0 0 1 0 0 k) true) id).cluster 0) (mst (.mkat 0 0 1 0 0 k) true) 1 = [] := by
    simp [takenScales, mst, MStep.img, e1]
  have h3 : upsetFor ((arr (mst (.mkat 0 0 1 0 0 k) true) id).cluster 0) (mst (.mkat 0 0 1 0 0 k) true) = none := rfl
  have h4 : tilesOf (mst (.mkat 0 0 1 0 0 k) true).word = [] := rfl
  have h5 : metaDiffers (arr (mst (.mkat 0 0 1 0 0 k) true) id) (mst (.mkat 0 0 1 0 0 k) true) = false := rfl
  unfold NoTrigger triggerOf
  rw [h0, h2]
  dsimp only
  rw [h3, h4, h5, List.map_nil, h1]
  rfl

theorem witness_StepsRetire : (∀ w ∈ [Instr.mma 0 1 0 1 0 0 0 0, .mdrain 0 3 1 5 0, .mdrain 0 3 0 5 2, .mswap 0 1 1, .mswap 0 1 2, .mfclr 0 1 3 0 0, .tstart 0 1], Due (mst w true))
    ∧ (let m := { mst (.mmas 0 1 0 1 0 0 0 0 2) true with ia := img 0xFF00000000001000 4 2 4 8 2 0 2, ib := img 0xFF00000000002000 4 8 2 8 2 0 2, im := img 0xFF00000000003000 4 2 2 3 1 0 2 }; Due m ∧ sRows m.ia ≤ 128 ∧ sCols m.ib ≤ 128)
    ∧ (∃ k, Due (mst (.mkat 0 0 1 0 0 k) true))
    ∧ dueStep (arr (mst (.skstat 0 0 5 0) true) id) 0 = some (mst (.skstat 0 0 5 0) true)
    ∧ (let m := mst (.mma 0 1 0 1 0 0 0 0) true; sRows m.ia ≤ 128 ∧ sCols m.ib ≤ 128 ∧ ((arr m id).cluster 0).used < 256) := by
  refine ⟨?_, ?_, due_kat, by decide +kernel, by decide +kernel⟩ <;> unfold Due NoTrigger <;> decide +kernel

/-- The array of cluster 0 with the step `w` over slot 1, whose extent begins at 256 with the header word `h`; its g operand is `g`, where an image of one
column stands. -/
def sk (w : Instr) (h : Nat) (g : Word) : State :=
  let s := arr { mst w true with g := g } id
  { s with mem := memPutAll (memPutAll (memPutAll [] (2 ^ 60 + 0x4000) (leList 8 (1 + 2 ^ 16 + 2 ^ 32 + 2 ^ 40))) (clusterHome 0 + 8) (leList 8 257)) (clusterHome 0 + 256) (leList 8 h) }
/-- Its step. -/
def skStep (w : Instr) (g : Word) : MStep := { mst w true with g := g }

theorem witness_StepsRetire_sketch :
    (let s := sk (.mfclr 0 0 1 1 1) (1 + 2 ^ 16 + 2 ^ 32 + 2 ^ 48) 0; dueStep s 0 = some (skStep (.mfclr 0 0 1 1 1) 0) ∧ slotBase (slotWord s 0 1) = 256)
    ∧ (let w := Instr.skcfg 0 1 5; let g := wd (0x2000 + 2 ^ 16 + 2 ^ 32 + 2 ^ 48); let s := sk w 0 g; dueStep s 0 = some (skStep w g) ∧ cfgOk (s.cluster 0) g = true)
    ∧ (let w := Instr.skfold 0 0 1 0 0 1; let s := sk w (2 + 2 * 2 ^ 16 + 2 * 2 ^ 32 + 2 ^ 40) 0; let h := readHdr s 0 256; dueStep s 0 = some (skStep w 0) ∧ h.c + sRows (skStep w 0).ia ≤ 2 * h.r ∧ 256 + h.extent ≤ 2 ^ 23)
    ∧ (let w := Instr.skshrink 0 1; let s := sk w (1 + 2 ^ 16 + 2 ^ 32 + 2 * 2 ^ 40) 0; let h := readHdr s 0 256; dueStep s 0 = some (skStep w 0) ∧ clusterOf 0 = 0 ∧ lastPanel s 0 (skStep w 0) = true
      ∧ slotBase (slotWord s 0 1) = 256 ∧ SlotOk h 256 ∧ h.c ≠ 0 ∧ h.op = 0)
    ∧ (let w := Instr.skmerge 0 1 5 0; let g := 0xFF00000000004000; let s := sk w (1 + 2 ^ 16 + 2 ^ 32 + 2 ^ 40) g; let h := readHdr s 0 256; let e := imgHdr s 0 g; dueStep s 0 = some (skStep w g)
      ∧ lastPanel s 0 (skStep w g) = true ∧ SlotOk h 256 ∧ h.op = 0 ∧ e.c = 1 ∧ h.c + e.c ≤ 2 * h.r
      ∧ (∀ o, o < imageSize h e.c → ¬ (skHome 0 256 ≤ imgHome s 0 g o ∧ imgHome s 0 g o < skHome 0 256 + h.extent)) ∧ (∀ o, o < imageSize h e.c → imgHome s 0 g o = imgHome s 0 g 0 + o))
    ∧ (let w := Instr.skemit 0 1 5 0; let g := 0xFF00000000004000; let s := sk w (1 + 2 ^ 16 + 2 ^ 32 + 2 ^ 40) g; let h := readHdr s 0 256; dueStep s 0 = some (skStep w g)
      ∧ (∀ o, o < imageSize h h.c → imgHome s 0 g o = mHome s 0 g + o) ∧ h.len true = 1 ∧ pad32 1 = 32) := by
  unfold SlotOk
  decide +kernel

theorem witness_StepsRetire_granules : (∀ w ∈ [Instr.mdrain 0 3 0 5 0, .skshrink 0 1], let m := { mst w true with ends := 105 }; dueStep (arr m id) 0 = none ∧ runningStep (arr m id) 0 = some m)
    ∧ (let m := mst (.mswap 0 1 2) false; dueStep (arr m id) 0 = none ∧ runningStep (arr m id) 0 = none) := by decide +kernel

/-! Leases, scales, replays and panels. -/

/-- The array of cluster 0 without a lessee; cell 0 asks and `f` changes the cluster. -/
def unleased (f : Cluster → Cluster) (x : Cell → Cell) : State :=
  let s := at_ .M x
  { s with clusters := [(0, f { s.cluster 0 with lessee := none, owner := none, reqs := [0] })] }

theorem test_grant : (let u := after (.leaseGrant 0) (unleased id id); ((u.cluster 0).lessee, (u.cluster 0).granted, (u.cluster 0).reqs)) = (some 0, 100, []) := by decide +kernel

theorem witness_LeaseHandover : nextLessee (unleased id id) 0 = some 0
    ∧ (let s := unleased id id; (0 : Nat) < 128 ∧ (s.cluster 0).lessee = none ∧ (s.cell (4 * 0 + 0)).saved = none ∧ (s.cell (4 * 0 + 0)).granted = false)
    ∧ (let s := unleased (fun x => { x with owner := some 0 }) (fun x => { x with granted := true }); nextLessee s 0 = some 0 ∧ (s.cluster 0).lessee = none ∧ (s.cell (4 * 0 + 0)).saved = none
      ∧ (s.cell (4 * 0 + 0)).granted = true ∧ (s.cluster 0).owner = some 0)
    ∧ (let s := unleased (fun x => { x with owner := some 1 }) id; nextLessee s 0 = some 0 ∧ (s.cell (4 * 0 + 0)).saved = none ∧ (s.cluster 0).owner = some 1)
    ∧ (let s := { arr (mst (.mswap 0 1 2) false) id with now := 50 + 4096 }; (s.cluster 0).lessee = some 0 ∧ (s.cluster 0).granted + 4096 ≤ s.now ∧ (∀ m ∈ (s.cluster 0).steps, m.begun = false) ∧ (s.cluster 0).replay = none)
    ∧ (let s := { arr (mst (.mswap 0 1 2) false) id with now := 50 + 4095 }; (s.cluster 0).lessee.isSome = true ∧ s.now < (s.cluster 0).granted + 4096) := by
  decide +kernel

/-- What a check or a read gives, unless it faults. -/
def val? {α : Type} (r : Res α) : Option α :=
  match r with
  | .ok a => some a
  | .flt _ => none

/-- A step over a z4 tile, whose scales are at 0x3000 of the store of cell 0. -/
def zimg : Image := img 0xFF00000000001000 4 2 64 11 0 0 2 ||| BitVec.ofNat 1024 ((32 * 2 ^ 40) * 2 ^ 192 + 0xFF00000000003000 * 2 ^ 256 + 0x100000004 * 2 ^ 320)

/-- The array with a step that wants scales. -/
def zarr : State :=
  let s := arr { mst (.mma 0 1 0 1 0 0 0 0) false with ia := zimg } id
  s.setCell 0 { s.cell 0 with s := [(0, zimg), (1, img 0xFF00000000002000 4 2 2 8 2 0 2)] }

/-- A replay at its first retained word, an MSWAP and the triggering word. -/
def replaying (f : Cluster → Cluster) : State :=
  arr (mst (.mfclr 0 1 2 0 0) true) (fun x => f { x with replay := some ⟨4, 1, 2, 2, 0, 0x10000, 0, 0⟩, wins := [(2, ⟨true, [(0, 5)], 0, [⟨.mfclr 0 2 2 0 0, 0, 0, 0, 0, 0, 0⟩, ⟨.mfclr 0 1 2 0 0, 0, 0, 0, 0, 0, 0⟩]⟩)] })

/-- A shrink over a full slot of 2,048 by 2,048. -/
def shrinking : State :=
  let s := arr (mst (.skshrink 0 1) true) id
  { s with mem := memPutAll (memPutAll [] (clusterHome 0 + 8) (leList 8 257)) (clusterHome 0 + 256) (leList 8 (2048 + 2048 * 2 ^ 16 + 32 * 2 ^ 32 + 64 * 2 ^ 40)) }

theorem test_replay_step : (let u := after (.rollbackReplay 0) (replaying id); (u.cluster 0).replay.map (fun q => (q.win, q.pos))) = some (2, 1) := by decide +kernel

theorem witness_ScalesReplayAndPanels :
    (let s := zarr; (s.cluster 0).lessee = some 0 ∧ (s.cluster 0).replay = none ∧ ((stepsOf (s.cluster 0) (4 * 0 + 0)).findSome? (fun m => (wantsScales m).map (fun p => (m, p)))).map (fun q => q.2) = some (0, 0)
      ∧ fifoOf (s.cluster 0) 0 = [] ∧ val? (readScales s 0 (scaleAddrs ((s.cell 0).stream 0) 0)).2 = some [0, 0, 0, 0] ∧ (readScales s 0 (scaleAddrs ((s.cell 0).stream 0) 0)).1.clusters = s.clusters)
    ∧ (let m := mst (.mswap 0 2 1) true; let s := arr m (fun x => { x with upsets := [(1, 2)] }); dueStep s 0 = some m ∧ lastPanel s 0 m = true ∧ triggerOf s 0 m (takenScales (s.cluster 0) m 0) (takenScales (s.cluster 0) m 1) = some (1, 2, true))
    ∧ (let s := replaying id; (s.cluster 0).replay = some ⟨4, 1, 2, 2, 0, 0x10000, 0, 0⟩ ∧ (s.cluster 0).steps.find? (fun m => m.begun) = some (mst (.mfclr 0 1 2 0 0) true) ∧ active s 0 = true
      ∧ nextKept (s.cluster 0) 4 2 0 = some (2, 0) ∧ (nextKept (s.cluster 0) 4 2 (0 + 1)).isSome = true ∧ ((s.cluster 0).win 2).kept[0]? = some ⟨.mfclr 0 2 2 0 0, 0, 0, 0, 0, 0, 0⟩ ∧ (s.cluster 0).upsets = []
      ∧ metaDiffers s (keptStep s 0 ⟨.mfclr 0 2 2 0 0, 0, 0, 0, 0, 0, 0⟩ 0x10000 0 0 0) = false)
    ∧ (let s := replaying id; s.gangs = [⟨0, 0, [0], 0, .running, [], false, none, []⟩])
    ∧ (let s := shrinking; let m := mst (.skshrink 0 1) true; dueStep s 0 = some m ∧ lastPanel s 0 m = false ∧ (s.cluster 0).steps = [m] ∧ s.now < (s.cluster 0).granted + 4096)
    ∧ (let s := { shrinking with now := 50 + 4096 }; let m := mst (.skshrink 0 1) true; dueStep s 0 = some m ∧ lastPanel s 0 m = false ∧ (s.cluster 0).steps = [m] ∧ (s.cluster 0).granted + 4096 ≤ s.now) := by
  decide +kernel

/-- The array with a step whose scales were pushed, with the FIFO entries `l`. -/
def zfull (l : List (Byte × Byte × Nat)) : State :=
  let m := { mst (.mma 0 1 0 1 0 0 0 0) false with ia := zimg, ib := img 0xFF00000000002000 4 64 2 8 2 0 2, pa := true }
  let s := arr m (fun x => { x with scales := [(0, l)] })
  s.setCell 0 { s.cell 0 with s := [(0, zimg), (1, img 0xFF00000000002000 4 64 2 8 2 0 2)] }

/-- A step that stopped at a panel boundary, over sparse operands of which the metadata of one group marks all four positions. -/
def sparse : MStep :=
  { mst (.mmas 0 1 0 1 0 0 0 0 2) false with ia := img 0xFF00000000001000 4 2 4 8 2 0 2, ib := img 0xFF00000000002000 4 8 2 8 2 0 2, im := img 0xFF00000000003000 4 2 2 3 1 0 2 }
/-- The array with it. -/
def sparseArr : State :=
  let s := arr sparse id
  let t := s.setCell 0 { s.cell 0 with s := [(0, sparse.ia), (1, sparse.ib), (2, sparse.im)] }
  { t with mem := memPut t.mem (2 ^ 60 + 0x3000) 0xFF }

theorem witness_StepBegins_scales :
    (let s := zfull []; ∃ m, headStep (s.cluster 0) 0 = some m ∧ (let r := refresh (s.cell 0) m; Ready s m ∧ firstBad [stepFlt s r, stepAddr s r] = none ∧ scalesReady s r = .wait))
    ∧ (let s := zfull (List.replicate 4 (0, 0, 1)); ∃ m, headStep (s.cluster 0) 0 = some m ∧ (let r := refresh (s.cell 0) m; firstBad [stepFlt s r, stepAddr s r] = none ∧ crowdFlt s r = none
        ∧ poisonRuns s 0 (stepReads s r) = (s, none) ∧ scalesReady s r = .flt { cls := 9, code := 2, aux := wd (2 ^ 16 * 4), aux2 := 1 }))
    ∧ (let s := sparseArr; headStep (s.cluster 0) 0 = some sparse ∧ (let r := refresh (s.cell 0) sparse; Ready s sparse ∧ firstBad [stepFlt s r, stepAddr s r] = none ∧ scalesReady s r = .ok
        ∧ poisonRuns s 0 (stepReads s r) = (s, none) ∧ crowded s r 2 = true)) := by
  refine ⟨⟨_, rfl, ?_⟩, ⟨_, rfl, ?_⟩, ?_⟩ <;> (try unfold Ready) <;> decide +kernel

theorem witness_LeaseHandover_halting : let s := arr (mst (.mswap 0 1 2) false) id
    let t := { s with gangs := s.gangs.map (fun g => { g with run := .halting }) }
    (t.cluster 0).lessee = some 0 ∧ tileRuns t (4 * 0 + 0) = false ∧ (∀ m ∈ (t.cluster 0).steps, m.begun = false) ∧ (t.cluster 0).replay = none := by decide +kernel

/-- A replay whose first retained word multiplies. -/
def multiplying (l : List Nat) : State :=
  { replaying (fun x => { x with wins := [(2, ⟨true, [(0, 5)], 0, [⟨.mma 0 2 0 1 0 0 0 0, 0, 0, 0, 0, 0, 0⟩, ⟨.mfclr 0 1 2 0 0, 0, 0, 0, 0, 0, 0⟩]⟩)] }) with poison := l }

theorem witness_ScalesReplayAndPanels_poison : (let s := multiplying [2 ^ 60 + 0x1000]; ∃ k m, ((s.cluster 0).win 2).kept[0]? = some k ∧ nextKept (s.cluster 0) 4 2 0 = some (2, 0)
      ∧ m = keptStep s 0 k 0x10000 0 0 0 ∧ (replayPoison s m).2.map (fun f => (f.cls, f.code, f.rst)) = some (0xB, 1, false) ∧ s.gangs = [⟨0, 0, [0], 0, .running, [], false, none, []⟩])
    ∧ (let s := multiplying []; ∃ k m, ((s.cluster 0).win 2).kept[0]? = some k ∧ m = keptStep s 0 k 0x10000 0 0 0 ∧ replayPoison s m = (s, none) ∧ upsetFor (s.cluster 0) m = none ∧ metaDiffers s m = false) := by
  refine ⟨⟨_, _, rfl, ?_, rfl, ?_, ?_⟩, ⟨_, _, rfl, rfl, ?_, ?_, ?_⟩⟩ <;> decide +kernel

/-! Transfer commands. -/

/-- A command of cell 0 with these values. -/
def jb (w : Instr) (a b c d : Word) : Job := ⟨0x10000, 0, w, a, b, c, d, 0, [], [], false, false, 0, 0, none, 0, [], [], false, [], [], [], [], [], [], false, false, 0⟩
/-- A command that has begun. -/
def bg (j : Job) : Job := { j with begun := true }
/-- Cell 0 with one command. -/
def xst (j : Job) : State := at_ .X (fun x => { x with jobs := [j] })
/-- The events of die 0 and the registers of its queues. -/
def onDie (f : Die → Die) (s : State) : State := { s with dies := [(0, f (s.die 0))] }
/-- The addresses of the store of cell 0. -/
def cs (o : Nat) : Word := wd (0xFF00000000000000 + o)
/-- A range of that store. -/
def cr (o n : Nat) : Range := ⟨0xFF00000000000000 + o, n⟩

theorem test_xevset_signal : (let u := after (.commandBegin 0 0) (xst (jb (.xevset 0 1 2) 5 3 0 0)); ((u.die 0).event 5).count = 3 ∧ (u.cell 0).jobs = [])
    ∧ (let u := after (.commandBegin 0 0) (onDie (fun d => { d with events := [(5, ⟨2, [], [], false⟩)] }) (xst (jb (.xevsig 0 1) 5 0 0 0))); ((u.die 0).event 5).count = 1) := by decide +kernel
theorem test_xmove_chunk : (let j := { bg (jb (.xmove 0 1 2 3 4) (cs 0) (cs 0x100) (64 + 2 ^ 24) 0) with rd := [cr 0 64], wr := [cr 0x100 64] }
    let u := after (.transferChunk 0 0) { xst j with mem := [(2 ^ 60 + 3, 7)] }; ((u.mem.map (fun p => p.1)), (u.cell 0).jobs.map (fun j => (j.done, j.spent)))) = ([2 ^ 60 + 3, 2 ^ 60 + 0x103], [(64, true)]) := by decide +kernel
theorem xReady_at : ((at_ .X id).cell 0 |>.agent .X).dpos < ((at_ .X id).cell 0 |>.agent .S).dpos ∧ ((at_ .X id).cell 0).jobs.length < 16 := by decide +kernel

theorem gReady_at (l : List Nat) : gReady ((at_ .X id).cell 0) .X l = true := by
  unfold gReady
  simp [gBusy, at_, cellAt, placedCell, State.cell, Tab.get, Cell.reset, Cell.agent, engCode, Agent.reset]

theorem witness_TransferWords (t : BitVec 4) (l : List Nat) : Issues (at_ .X id) 0 .X t 1 ∧ Issues (at_ .X id) 0 .X t 2
    ∧ (((at_ .X id).cell 0).agent .X).dpos < (((at_ .X id).cell 0).agent .S).dpos ∧ gReady ((at_ .X id).cell 0) .X l = true ∧ ((at_ .X id).cell 0).jobs.length < 16 :=
  ⟨(issues_at t .X).1, (issues_at t .X).2, xReady_at.1, gReady_at l, xReady_at.2⟩

/-- Event 5 of die 0 with a count of 2. -/
def ev2 (s : State) : State := onDie (fun d => { d with events := [(5, ⟨2, [], [], false⟩)] }) s
/-- Queue 0 of die 0 has every key and eight places. -/
def keyed (s : State) : State := onDie (fun d => { d with qkey := [(0, wd (1023 * 2 ^ 16))], qcfg := [(0, wd (3 * 2 ^ 12))] }) s
/-- A move of one granule. -/
def mv1 : Job := { jb (.xmove 0 1 2 3 4) (cs 0) (cs 0x100) (64 + 2 ^ 24) 0 with wr := [cr 0x100 64], rd := [cr 0 64] }
/-- A scatter of `n` records to the cluster scratchpad. -/
def sc (n : Nat) : Job := { jb (.xscat 0 1 2 3 0 0 0 0 0) (cs 0) 0xFF00000001000000 (wd n) 0 with rd := [cr 0 16], wr := [cr (2 ^ 24) 64] }
/-- A reduction descriptor 0 for 64 bytes of u32 sums of one contributor, in memory at 0. -/
def reduces (s : State) : State :=
  { s with mem := memPutAll s.mem 0 (leList 8 (2 ^ 32) ++ leList 8 64 ++ leList 8 0 ++ leList 8 0 ++ leList 8 (2 ^ 60)) }
/-- A reduction of 64 bytes into it. -/
def rd0 : Job := { jb (.xred 0 1 2 3 0 0 0 0 0) (cs 0) (cs (2 ^ 34)) 64 0 with rd := [cr 0 64] }
theorem gather_full {s : State} {k : Nat} {j : Job} {fp : Option (List Range)} {al n : Nat} {red : Bool} {vas : List Word} (ha : j.asked = false) (hb : j.buf.isEmpty = false)
    (ht : j.todo.isEmpty = true) : gather s k j fp al n red vas = .ready s j.buf := by
  simp [gather, gatherFrom, ha, hb, ht]

/-- A collective whose record, one level of two transfers of 64 bytes with one peer, has been read. -/
def co : Job := { jb (.xcoll 0 1 2 0 0 0 0 0) (cs 0x80) 0 0 0 with
  buf := leList 8 0 ++ leList 8 0 ++ leList 8 (64 + 2 ^ 34) ++ leList 8 (2 ^ 16) ++ leList 8 2 ++ List.replicate 88 0 }
/-- A move of one granule to this node through the remote window. -/
def mvR : Job := { jb (.xmove 0 1 2 3 4) (cs 0) (cs (2 ^ 54 + 0x100)) (64 + 2 ^ 24) 0 with wr := [cr (2 ^ 54 + 0x100) 64], rd := [cr 0 64] }
/-- Two crews of one gang: cell 1 waits at its first barrier of level 1, which cell 0 comes to. -/
def twoBar : State :=
  let j := jb (.xbar 0 1) 0 0 0 0
  let s := xst j
  { s with
    cells := [(0, s.cell 0), (1, { s.cell 0 with jobs := [{ bg j with done := 1 }], xbar := [(1, 1)] })]
    gangs := [{ (s.gangs.headD ⟨0, 0, [], 0, .running, [], false, none, []⟩) with cells := [0, 1], kind := 1 }] }
/-- A send of 128 bytes to this node twice. -/
def sd : Job := { jb (.xsend 0 1 2 3 4 0 0 0 0 0) (cs 0) 0x100 128 (wd (2 * 2 ^ 60)) with rd := [cr 0 128] }

theorem witness_CommandsBegin :
    Starts (xst (jb (.xfoot 0 1 0 0 0 0 0) 0 0 0 0)) 0 0 (jb (.xfoot 0 1 0 0 0 0 0) 0 0 0 0)
    ∧ Starts (xst (jb (.xevset 0 1 2) 5 3 0 0)) 0 0 (jb (.xevset 0 1 2) 5 3 0 0) ∧ bits (5 : Word) 18 46 = 0 ∧ bits (3 : Word) 32 32 = 0
    ∧ Starts (xst (jb (.xevsig 0 1) 5 0 0 0)) 0 0 (jb (.xevsig 0 1) 5 0 0 0)
    ∧ Starts (xst (jb (.xevwait 0 1) 5 0 0 0)) 0 0 (jb (.xevwait 0 1) 5 0 0 0) ∧ (((xst (jb (.xevwait 0 1) 5 0 0 0)).die 0).event 5).count = 0
    ∧ Starts (ev2 (xst (jb (.xevwait 0 1) 5 0 0 0))) 0 0 (jb (.xevwait 0 1) 5 0 0 0) ∧ (((ev2 (xst (jb (.xevwait 0 1) 5 0 0 0))).die (bits (5 : Word) 16 2)).event 5) = ⟨2, [], [], false⟩
    ∧ Starts (xst (jb (.xtail 0 1 2) 3 1 0 0)) 0 0 (jb (.xtail 0 1 2) 3 1 0 0) ∧ bits (3 : Word) 8 56 = 0
    ∧ Starts (xst (jb (.xbar 0 0) 0 0 0 0)) 0 0 (jb (.xbar 0 0) 0 0 0 0) ∧ (gangOf (xst (jb (.xbar 0 0) 0 0 0 0)) 0).map (·.kind) = some 0
    ∧ (∀ q ∈ ((xst (jb (.xbar 0 0) 0 0 0 0)).cell 0).jobs, q.begun = false)
    ∧ Starts (xst (jb (.xbar 0 1) 0 0 0 0)) 0 0 (jb (.xbar 0 1) 0 0 0 0) ∧ (gangOf (xst (jb (.xbar 0 1) 0 0 0 0)) 0).map (·.kind) = some 0
    ∧ (let j := jb (.xmove 0 1 2 3 4) (cs 0) (cs 0x100) 0 0; Starts (xst j) 0 0 j ∧ moveFlt (xst j) 0 j = none ∧ moveEmpty j = true)
    ∧ (Starts (xst mv1) 0 0 mv1 ∧ moveFlt (xst mv1) 0 mv1 = none ∧ moveEmpty mv1 = false ∧ markFoot (xst mv1) 0 mv1.wr = (xst mv1, none))
    ∧ (Starts (xst sd) 0 0 sd ∧ sendFlt (xst sd) sd = none)
    ∧ (Starts (xst co) 0 0 co ∧ co.a.toNat % 128 = 0 ∧ gather (xst co) 0 co none 64 64 false (runAddrs co.a 64 2) = .ready (xst co) co.buf ∧ coFlt co co.buf = none)
    ∧ (let j := jb (.xbar 0 1) 0 0 0 0; Starts twoBar 0 0 j ∧ (gangOf twoBar 0).map (·.kind) = some 1 ∧ (gangOf twoBar 0).map (·.cells) = some [0, 1]
      ∧ (∀ q ∈ (twoBar.cell 0).jobs, q.begun = false) ∧ barCount (twoBar.cell 0) 1 < barCount (twoBar.cell 1) 1
      ∧ (waitsBar (twoBar.cell 1)).map (fun p => (p.1.done, p.2)) = some (barCount (twoBar.cell 0) 1 + 1, 1))
    ∧ (let j := jb (.xkeyld 0 1 2 3 0 0 0 0 0) 2 (cs 0) 1 0; Starts (keyed (xst j)) 0 0 j ∧ keyldFlt (keyed (xst j)) 0 j = none)
    ∧ (let j := jb (.xsubmit 0 1 2 3 0 0 0 0 0) 0 (cs 0x80) 2 0; Starts (keyed (xst j)) 0 0 j ∧ bits j.a 8 56 = 0 ∧ j.b.toNat % 128 = 0 ∧ 0 < j.c.toNat ∧ j.c.toNat < qsize ((keyed (xst j)).die (bits j.a 6 2)) (bits j.a 0 6))
    ∧ (Starts (xst (sc 1)) 0 0 (sc 1) ∧ bits (sc 1).c 40 24 = 0 ∧ scPair (bits (sc 1).c 32 3) (bits (sc 1).c 35 4) = true ∧ (sc 1).a.toNat % 16 = 0 ∧ okB (scTarget (xst (sc 1)) 0 (sc 1)) = true)
    ∧ (Starts (reduces (xst rd0)) 0 0 rd0 ∧ bits rd0.c 32 32 = 0 ∧ bits rd0.c 0 32 % 64 = 0 ∧ rd0.a.toNat % 64 = 0 ∧ redFlt (reduces (xst rd0)) 0 rd0.b (bits rd0.c 0 32) = none)
    ∧ (let j := jb (.xkeysw 0 1) 2 0 0 0; let s := { keyed (xst j) with ports := [(2, { Port.reset with keys := [(1, LinkKey.reset)] })] }; Starts s 0 0 j ∧ fullKeys s 0 = true ∧ noPort s j.a.toNat = false
      ∧ (s.port j.a.toNat).switching = none ∧ (Tab.get LinkKey.reset (s.port j.a.toNat).keys (1 - (s.port j.a.toNat).txs)).sealed = false)
    ∧ (let j := jb (.xarrive 0 1 2) (wd (3 * 2 ^ 14)) 1 0 0; Starts (xst j) 0 0 j ∧ bits j.a 36 28 = 0 ∧ bits j.a 0 12 = selfNode (xst j) ∧ bits j.a 0 12 ≤ (xst j).flash.maxNode)
    ∧ (let j := jb (.xevset 0 1 2) (wd (2 ^ 18)) 3 0 0; Starts (xst j) 0 0 j ∧ bits j.a 18 46 ≠ 0 ∧ j.done = 0 ∧ j.sub = 0 ∧ j.stamp = none) := by
  and_intros <;> first | decide +kernel | exact gather_full rfl rfl rfl

/-- A job that ends. -/
def over_ (j : Job) : Job := { bg j with spent := true }

/-- The source bytes are there, and `p` holds of the state and of them. -/
def ready (r : Src) (p : State → List Byte → Prop) [∀ s b, Decidable (p s b)] : Bool :=
  match r with
  | .ready s b => decide (p s b)
  | _ => false

/-- A check with its state went well, and `p` holds of both. -/
def okWhen {α : Type} (r : State × Res α) (p : State → α → Bool) : Bool :=
  match r with
  | (s, .ok a) => p s a
  | (_, .flt _) => false

theorem witness_CommandsRunAndComplete :
    (∀ p ∈ [(mv1, none), (mvR, some (0, 0x100))], Runs (xst (bg p.1)) 0 0 (bg p.1)
      ∧ min (min 4096 (mvRowb p.1 - 0)) (2 ^ 30 - (p.1.b + wd 0 * mvDstride p.1 + wd 0).toNat % 2 ^ 30) = 64
      ∧ okWhen (checkMove (xst (bg p.1)) 0 (bg p.1) (p.1.a + wd 0 * mvSstride p.1 + wd 0) (p.1.b + wd 0 * mvDstride p.1 + wd 0) 64)
        (fun s0 y => decide (nodeOf y.wacc = p.2) && ready (gatherFrom s0 0 y 64 y.racc (runAddrs (p.1.a + wd 0 * mvSstride p.1 + wd 0) 64 1)) (fun s1 b => b = List.replicate 64 0 ∧ canSend s1 0 = true)) = true)
    ∧ (let j := bg { mv1 with a := cs 64 }; Runs (xst j) 0 0 j ∧ (match (checkMove (xst j) 0 j j.a j.b 64).2 with | .flt f => (f.cls, f.code) | .ok _ => (0, 0)) = (6, 5))
    ∧ (let j := bg mv1; j.buf = [] ∧ j.asked = false ∧ okB (checkRun (xst j) 0 (some j.rd) 64 64 false true true (runAddrs j.a 64 1)) = true
      ∧ okB (checkRun (xst j) 0 (some j.wr) 64 64 true true true (runAddrs j.b 64 1)) = true)
    ∧ offsets 64 (128 / 64) ≠ []
    ∧ (let j := { bg sd with c := 8192, rd := [cr 0 8192], buf := List.replicate 4096 0 }; Runs (xst j) 0 0 j ∧ j.stamp = none ∧ j.done + 4096 < bits j.c 0 32 ∧ j.sub + 1 < bits j.d 60 3
      ∧ gather (xst j) 0 j (some j.rd) 64 64 false (runAddrs (j.a + wd 0) 64 64) = .ready (xst j) j.buf ∧ canSend (xst j) (bits j.d 0 12) = true)
    ∧ (let j := bg (sc 1); Runs (xst j) 0 0 j ∧ (val? (scTarget (xst j) 0 j).2).map (·.1) = some (.home (2 ^ 61))
      ∧ ready (gather (scTarget (xst j) 0 j).1 0 j (some j.rd) 16 16 false (runAddrs (j.a + wd 0) 16 1))
          (fun s1 b => (recsOf b).filterMap (elemFlt s1 0 j (((val? (scTarget (xst j) 0 j).2).map (·.2)).getD 0 - 2 ^ 61)) = []) = true)
    ∧ (let j := over_ mv1; jobAt (xst j) 0 0 = some j ∧ j.begun = true ∧ active (xst j) 0 = true ∧ j.spent = true ∧ j.acks = [] ∧ j.tickets = [] ∧ bits j.c 40 3 = 0)
    ∧ (let j := { over_ mv1 with c := wd (64 + 2 ^ 24 + 2 ^ 40 + 5 * 2 ^ 48) }; jobAt (xst j) 0 0 = some j ∧ j.begun = true ∧ active (xst j) 0 = true ∧ j.spent = true ∧ j.acks = [] ∧ j.tickets = [] ∧ bits j.c 40 3 = 1
      ∧ svFenced (xst j) 0 3 j.dpos = true ∧ (let s := at_ .X (fun x => { x with jobs := [{ j with dpos := 1 }], loads := [ld8] }); jobAt s 0 1 = some { j with dpos := 1 } ∧ active s 0 = true ∧ svFenced s 0 3 1 = false))
    ∧ (let j := { over_ mv1 with c := wd (64 + 2 ^ 24 + 2 * 2 ^ 40 + 5 * 2 ^ 48) }; jobAt (xst j) 0 0 = some j ∧ bits j.c 40 3 = 2 ∧ (((xst j).cell 0).chan (bits j.c 48 16 % 16)).q.length < 4
      ∧ pendingBind (((xst j).cell 0).chan (bits j.c 48 16 % 16)) = false)
    ∧ (∀ r ∈ [true, false], let j := { bg (jb (.xarrive 0 1 2) 0 1 0 0) with reached := r }; jobAt (xst j) 0 0 = some j ∧ j.begun = true ∧ j.lost = false ∧ active (xst j) 0 = true ∧ j.acks = [])
    ∧ (∀ j ∈ [over_ (sc 1), over_ sd, over_ rd0, over_ (jb (.xsendo 0 1 2 3 4 0 0 0 0 0) 0 0 0 0), over_ (jb (.xsubmit 0 1 2 3 0 0 0 0 0) 0 0 0 0), over_ (jb (.xkeyld 0 1 2 3 0 0 0 0 0) 0 0 0 0), over_ { co with record := co.buf }],
        jobAt (xst j) 0 0 = some j ∧ j.begun = true ∧ active (xst j) 0 = true ∧ j.spent = true ∧ j.acks = [] ∧ j.tickets = [])
    ∧ (∀ j ∈ [bg (jb (.xevwait 0 1) 5 0 0 0), { bg (jb (.xevwait 0 1) 5 0 0 0) with reached := true }, bg (jb (.xkeysw 0 1) 2 0 0 0), { bg (jb (.xkeysw 0 1) 2 0 0 0) with reached := true }],
        jobAt (xst j) 0 0 = some j ∧ j.begun = true ∧ active (xst j) 0 = true)
    ∧ (let j := { bg (jb (.xbar 0 0) 0 0 0 0) with done := 1 }; let s := at_ .X (fun x => { x with jobs := [j], xbar := [(0, 1)] }); jobAt s 0 0 = some j ∧ active s 0 = true ∧ (gangOf s 0).map (·.cells) = some [0] ∧ j.done ≤ barCount (s.cell 0) 0)
    ∧ (let j := { bg (jb (.xbar 0 1) 0 0 0 0) with done := 1 }; let s := xst j; jobAt s 0 0 = some j ∧ active s 0 = true ∧ (gangOf s 0).map (·.cells) = some [0] ∧ barCount (s.cell 0) 1 < j.done)
    ∧ (let j := bg mv1; jobAt (xst j) 0 0 = some j ∧ j.spent = false ∧ isBulk j.word = true) := by
  and_intros <;> first | decide +kernel | exact gather_full rfl rfl rfl | (unfold Runs; decide +kernel) | rfl

/-! Events of the memory, the Guestbook, the event table and the rings. -/

/-- Cell 0 with a request of cell 4 for a handle of its own Guestbook. -/
def asked (op : GbOp) (h : BitVec 32) (n : Nat) : State := at_ .S (fun x => { booked n x with gbq := [⟨4, op, h, 0⟩] })
/-- A page table that maps the page at 0x10000 to itself. -/
def mapped : State :=
  { at_ .S id with
    regs := [(0x1000, 0x20000)]
    mem := memPutAll (memPutAll (memPutAll (memPutAll [] 0x20000 (leList 8 0x22031)) 0x22000 (leList 8 0x24031)) 0x24000 (leList 8 0x26031)) 0x26008 (leList 8 0x1000F) }
/-- What the page at 0x10000 maps to. -/
def page : Trans := ⟨0x10000, 0x10000, 0x10000, 0, true, true, true, 0x26008⟩

theorem test_walk : walk mapped 0x12345 = .ok page ∧ walk mapped 0x20000 = .invalid 0 0 := by decide +kernel
theorem test_tlbinv : ((after .tlbinvPage (wrote (at_ .S id) 0x1001 0 0x10001)).cell 0).stlb = [] ∧ ((after .tlbinvPage (wrote (at_ .S id) 0x1001 0 0x20001)).cell 0).stlb.length = 1 := by decide +kernel
theorem test_scatter_add : (let s := at_ .X id; (after (.scatterBlockApply 0) { s with mem := [(2 ^ 61, 250)], clusters := [(0, { s.cluster 0 with blocks := [⟨0, [⟨2 ^ 61, 0, 0, 10⟩], none⟩] })] }).mem) = [(2 ^ 61, 4), (2 ^ 61 + 1, 1)] := by decide +kernel

theorem witness_GuestbookAndTranslationEvents :
    (∀ n ∈ [1, 65534], let s := asked .inc 0xA001 n; ((s.cell 0).gbq = [⟨4, .inc, 0xA001, 0⟩] ∧ Live (s.cell 0) 0xA001 ((s.cell 0).gbEntry 5) ∧ ((s.cell 0).gbEntry 5).count < 65535))
    ∧ (let s := asked .dec 0xA002 2; (s.cell 0).gbq = [⟨4, .dec, 0xA002, 0⟩] ∧ ((s.cell 0).gbEntry (hEnv 0xA002)).gen ≠ hGen 0xA002)
    ∧ (let s := at_ .S (fun x => { x with gbacks := [⟨1, 0, 0, GbEntry.reset⟩], sop := some ⟨none, none, true, none, none⟩ }); (s.cell 0).gbacks = [⟨1, 0, 0, GbEntry.reset⟩] ∧ (s.cell 0).sop = some ⟨none, none, true, none, none⟩)
    ∧ ((∀ e ∈ (mapped.die 0).lltlb, ¬ (e.base ≤ 0x12345 ∧ 0x12345 < e.base + e.size)) ∧ walk mapped 0x12345 = .ok page ∧ (mapped.die 0).lltlb.length < 12288)
    ∧ walk mapped 0x20000 = .invalid 0 0
    ∧ (∀ e ∈ [1, 2, 3], let s := at_ .S (fun x => { x with vtlb := [page], mtlb := [page], xtlb := [page] }); (tlbOf s (.agent 0 (engineOf e)) (engineOf e)).getLast? = some page
      ∧ nextPage (s.cell 0) (engineOf e) page = page.base + page.size ∧ page.base + page.size < 2 ^ 56 ∧ tlbFind (tlbOf s (.agent 0 (engineOf e)) (engineOf e)) (page.base + page.size) = none)
    ∧ (let j := bg (jb (.xmove 0 1 2 3 4) 0x10000 (cs 0) (64 + 2 ^ 25) 0xFFFF0000); let x := (at_ .X (fun y => { y with xtlb := [page], jobs := [j] })).cell 0
      x.xtlb.getLast? = some page ∧ x.jobs = [j] ∧ j.begun = true ∧ 1 < mvRows j ∧ (let f := fun i => (j.a + wd (0 / mvRowb j + i) * mvSstride j).toNat
        page.base ≤ f 0 ∧ f 0 + mvRowb j ≤ page.base + page.size ∧ ¬ (page.base ≤ f 1 ∧ f 1 < page.base + page.size) ∧ f 1 < 2 ^ 56 ∧ tlbFind x.xtlb (f 1) = none))
    ∧ (let s := wrote (at_ .S id) 0x1001 0 0x10001; OneWrite s ⟨.ik 0, 0x1001, 0, 0x10001, false, 0⟩ ∧ bits (0x10001 : Word) 0 2 = 1)
    ∧ (let s := wrote (at_ .S id) 0x1001 0 2; OneWrite s ⟨.ik 0, 0x1001, 0, 2, false, 0⟩ ∧ 2 ≤ bits (2 : Word) 0 2)
    ∧ (let s := { at_ .S id with tlbinvBusy := some ([⟨0x30000, 64⟩], [⟨0, 5, [], none⟩]) }; (∀ p ∈ [(⟨0, 5, [], none⟩ : OldUse)], usesOld s [⟨0x30000, 64⟩] p = false))
    ∧ (let s := { at_ .S (fun x => { x with jobs := [jb (.xfoot 0 1 0 0 0 0 0) 0 0 0 0] }) with tlbinvBusy := some ([⟨0x30000, 64⟩], [⟨0, 5, [0], none⟩]) }; (∃ p ∈ [(⟨0, 5, [0], none⟩ : OldUse)], usesOld s [⟨0x30000, 64⟩] p = true))
    ∧ (let s := wrote (at_ .S id) 0x1010 0 0x8003; OneWrite s ⟨.ik 0, 0x1010, 0, 0x8003, false, 0⟩ ∧ bit (0x8003 : Word) 15 = true)
    ∧ ((at_ .S id).latent = [] ∧ (at_ .S id).poison = [])
    ∧ (let s := { at_ .S id with latent := [(2 ^ 60 + 8, true)] }; s.latent = [((2 ^ 60 + 9) - (2 ^ 60 + 9) % unitSize (2 ^ 60 + 9), true)] ∧ s.poison = [] ∧ bits (dreg s (homeDie s (2 ^ 60 + 8)) 0x212) 0 32 < 2 ^ 32 - 1) := by
  and_intros <;> first | decide +kernel | (unfold Live; decide +kernel)

theorem witness_EventsBlocksAndTails :
    (1 : BitVec 32) ≠ 0 ∧ (((at_ .S id).die 0).event 5).count = 0 ∧ 1 < (((ev2 (at_ .S id)).die 0).event 5).count.toNat
    ∧ (let s := onDie (fun d => { d with events := [(5, ⟨1, [⟨0, 0, none⟩], [⟨4, 0, none⟩], false⟩)] }) (at_ .S id); ((s.die 0).event 5).count = 1)
    ∧ (let j := jb (.xevwait 0 1) 5 0 0 0; ∃ x, Tab.look (xst j).cells 0 = some x ∧ x.tile = some ⟨0, 0, 0, 0⟩ ∧ j ∈ x.jobs ∧ j.dpos = 0)
    ∧ (let s := onDie (fun d => { d with events := [(5, ⟨0, [], [⟨4, 0, none⟩, ⟨8, 0, none⟩], true⟩)] }) (at_ .S id); ((s.die 0).event 5).release = true ∧ ((s.die 0).event 5).spill = ⟨4, 0, none⟩ :: [⟨8, 0, none⟩])
    ∧ (let s := at_ .X id; let t := { s with clusters := [(0, { s.cluster 0 with blocks := [⟨0, [⟨2 ^ 61, 0, 0, 10⟩], none⟩] })] }; (t.cluster 0).blocks = ⟨0, [⟨2 ^ 61, 0, 0, 10⟩], none⟩ :: [] ∧ t.latent = [] ∧ t.poison = [])
    ∧ (let s := at_ .X id; let t := { s with clusters := [(0, { s.cluster 0 with blocks := [⟨0, [⟨2 ^ 61, 0, 0, 10⟩], some (3, 1, 0)⟩] })] }; (t.cluster 0).blocks = [⟨0, [⟨2 ^ 61, 0, 0, 10⟩], some (3, 1, 0)⟩])
    ∧ (∀ ty < 4, 7 < 2 ^ (8 * scWidth ty))
    ∧ (let s := keyed (at_ .X id); (9 % qsize (s.die 0) 0 + qsize (s.die 0) 0 - qtail (s.die 0) 0) % qsize (s.die 0) 0 ≤ qfree (s.die 0) 0)
    ∧ (let s := onDie (fun d => { d with qhead := [(0, 5)], qtail := [(0, 1)] }) (keyed (at_ .X id)); qfree (s.die 0) 0 < (6 % qsize (s.die 0) 0 + qsize (s.die 0) 0 - qtail (s.die 0) 0) % qsize (s.die 0) 0)
    ∧ (let s := wrote (keyed (at_ .X id)) 0x4C0 0 3; OneWrite s ⟨.ik 0, 0x4C0, 0, 3, false, 0⟩ ∧ writerClear s ⟨.ik 0, 0x4C0, 0, 3, false, 0⟩ = true) := by
  and_intros <;> decide +kernel

/-! Stages, tiles, gangs. -/

/-- A loop-nest record of two by three tiles on cluster 0; `x` is added to its word of fields, `y` is its arrival counts. -/
def rec6 (x : Nat) (y : Word) : List Byte :=
  leList 8 0x10000 ++ leList 8 77 ++ leList 8 (2 + 2 ^ 5 + 2 ^ 16 + x) ++ leList 8 0 ++ leList 4 2 ++ leList 4 3 ++ List.replicate 16 0 ++ leList 8 y.toNat ++ List.replicate 64 0
/-- Such a stage of queue 0 of die 0. -/
def stage6 (x : Nat) (y : Word) (ended : Nat) : Stage := ⟨0, 0, 0, rec6 x y, [], ended, false, 0⟩
/-- A module that has booted, with cells 1 to 3 in use and these contents of die 0. -/
def booted (f : Die → Die) : State :=
  let g := fun c => (⟨c, 0, [c], 0, .running, [], false, none, []⟩ : Gang)
  onDie f { State.reset with now := 100, booted := true, gangs := [g 1, g 2, g 3] }
/-- An address of the scratchpad of die 0. -/
def ds (o : Nat) : Word := wd (0xFF00000002000000 + o)
/-- A ring of eight at the start of that scratchpad that holds one record. -/
def ring8 (f : Die → Die) : State :=
  { booted (fun d => f { d with qbase := [(0, ds 0)], qcfg := [(0, wd (3 * 2 ^ 12 + 2 ^ 7 + 2))], qtail := [(0, 1)] }) with mem := memPutAll [] (dieHome 0) (rec6 0 0) }
/-- Cell 0 of a tile whose agents have all halted. -/
def ended : State := at_ .S (fun x => { x with agents := (List.range 4).map (fun k => (k, { Agent.reset with halted := true })) })

theorem test_first_tile : (let u := after (.schedulerDecision 0) (booted (fun d => { d with stages := [stage6 0 0 0], nextStage := 1 })); ((u.cell 0).greg 7, (u.cell 0).greg 8, ((u.cell 0).agent .S).pc, u.gangs.length, (u.die 0).stages.map (fun q => q.handed)))
    = (77, 0, 0x10000, 4, [[0]]) := by decide +kernel
theorem test_head_starts : (let u := after (.schedulerDecision 0) (ring8 id); (qhead (u.die 0) 0, (u.die 0).stages.map (fun q => q.queue))) = (1, [0]) := by decide +kernel
theorem test_tile_ends : (let u := after (.tileEnd 0) ended; ((u.cell 0).tile, u.gangs)) = (none, []) := by decide +kernel

theorem witness_StagesAndTiles :
    State.reset.booted = false
    ∧ (let s := booted (fun d => { d with stages := [stage6 0 0 0], nextStage := 1 }); s.booted = true ∧ noTiles s 0 = false ∧ (s.die 0).stages = [stage6 0 0 0] ∧ (stage6 0 0 0).handed = [] ∧ (∀ q < 64, bit (qcfgOf (s.die 0) q) 7 = false)
      ∧ (s.die 0).reserve = [] ∧ rKind (rec6 0 0) = 0 ∧ rArr (rec6 0 0) = false ∧ 0 < rTotal (rec6 0 0) ∧ freeUnits s 0 64 (rec6 0 0) = [[(0, 0, 0)]] ∧ (s.cluster (clusterOf 0)).gated = false)
    ∧ rLevels (rec6 0 0) ≤ 6 ∧ (∀ t ∈ ((ring8 id).die 0).stages, t.id < ((ring8 id).die 0).nextStage)
    ∧ eligibleHead (ring8 id) 0 1 = none ∧ eligibleHead (ring8 id) 0 0 ≠ none ∧ Tab.look ((ring8 id).die 0).since 0 = none
    ∧ (∀ n ∈ [7, 7 + 256 * 65535], let s := { ring8 (fun d => { d with since := [(0, (7, 7))] }) with now := n }; eligibleHead s 0 0 ≠ none ∧ Tab.look (s.die 0).since 0 = some (7, 7) ∧ prioOf (s.die 0) 0 < 7
      ∧ (n = 7 → s.now < 7 + 256 * max 1 (bits (dreg s 0 0x200) 0 16)) ∧ (n ≠ 7 → 7 + 256 * max 1 (bits (dreg s 0 0x200) 0 16) ≤ s.now))
    ∧ (let s := ring8 (fun d => { d with since := [(0, (7, 7))], prio := [(0, 7)] }); eligibleHead s 0 0 ≠ none ∧ Tab.look (s.die 0).since 0 = some (7, 7) ∧ 7 ≤ prioOf (s.die 0) 0)
    ∧ (gangOf ended 0 = some ⟨0, 0, [0], 0, .running, [], false, none, []⟩ ∧ (ended.cell 0).tile = some ⟨0, 0, 0, 0⟩ ∧ cellDone ended 0 = true)
    ∧ (gangOf (at_ .S id) 0 = some ⟨0, 0, [0], 0, .running, [], false, none, []⟩ ∧ ((at_ .S id).cell 0).tile = some ⟨0, 0, 0, 0⟩ ∧ cellDone (at_ .S id) 0 = false ∧ crewDone ((at_ .S id).cell 0) = false)
    ∧ (∀ n ∈ [0, 5], let s := booted (fun d => { d with stages := [stage6 0 0 n] }); (s.die 0).stages = [stage6 0 0 n] ∧ (n = 0 → (stage6 0 0 n).ended + 1 < rTotal (rec6 0 0)) ∧ (n = 5 → rTotal (rec6 0 0) ≤ (stage6 0 0 n).ended + 1))
    ∧ (let s := booted (fun d => { d with stages := [stage6 (2 ^ 36) (ds 0x1000) 0], arrivals := [⟨0, 0, 5, 9, none⟩] }); let t := s.setDie 0 { s.die 0 with arrivals := [] }
      (s.die 0).arrivals = ⟨0, 0, 5, 9, none⟩ :: [] ∧ (s.die 0).stages.find? (fun q => q.queue = 0 && q.index = 0) = some (stage6 (2 ^ 36) (ds 0x1000) 0) ∧ rArr (rec6 (2 ^ 36) (ds 0x1000)) = true ∧ 5 < rTotal (rec6 (2 ^ 36) (ds 0x1000))
      ∧ heldCount t 0 (ds 0x1000 + wd (2 * 5)) = false ∧ ikRead t 0 (ds 0x1000 + wd (2 * 5)) 2 2 = some [0, 0] ∧ (ringWrite t 0 (ds 0x1000 + wd (2 * 5)) (leList 2 (leNat [0, 0] - 1))).isSome = true)
    ∧ (let s := booted (fun d => { d with arrivals := [⟨0, 0, 5, 9, none⟩] }); (s.die 0).arrivals = ⟨0, 0, 5, 9, none⟩ :: [] ∧ (∀ st ∈ (s.die 0).stages, st.queue ≠ 0) ∧ qcount (s.die 0) 0 = 0) := by
  and_intros <;> decide +kernel

/-! Halts, contexts and stalls. -/

/-- Cell 0 quiet, its gang in this run state, with what a context holds of it. -/
def gang0 (r : GangRun) (l : Tab Cell) : Gang := ⟨0, 0, [0], 0, r, [], false, none, l⟩
/-- Such a module, with one register write. -/
def halted_ (g : Gang) (reg : Nat) (v : Word) : State := { wrote (at_ .S (fun x => { x with v := [(3, 9)] })) reg 0 v with gangs := [g] }
/-- The cell as a context holds it. -/
def kept : Cell := { cellAt .S (gs [5]) with leaseSaved := true }
/-- The Innkeeper of die 0 at SYSRD g4, FNQ, with two entries there. -/
def atSysrd : State :=
  let s := ikAt []
  let w := encode (.sysrd 0 4 0x20D)
  { s with mem := memPutAll [] 0x10000 (leList 4 (w.getD (0, 0)).1.toNat)
           dies := [(0, { s.die 0 with fnq := [(0x8000000000000007, 1, []), (0x8000000000000008, 2, [])], regs := [(0x20B, 0x8000000000000000)], ik := { (s.die 0).ik with tlb := [page] } })] }
/-- Agent `e` alone has not halted, and waits since long ago. -/
def stuck (e : Engine) (w : Wait) (t : Tab (List Nat)) : State :=
  { at_ e (fun x => { x with tokens := t, agents := (List.range 4).map (fun k => (k, { Agent.reset with pc := 0x10000, halted := engineOf k != e, wait := w })) }) with now := 5000 }

theorem test_preempt : ((after (.preemptreq 0) (wrote (at_ .S id) 0x202 0 0)).gangs.map (·.run), (after (.preemptreq 0) (wrote (at_ .S id) 0x202 0 1)).gangs.map (·.run)) = ([.halting], [.running]) := by decide +kernel
theorem test_resume : (let u := after (.resumereq 0) { halted_ (gang0 .halted [(0, kept)]) 0x203 0 with mem := [(72, 5), (552, 1)] }; (u.gangs.map (·.run), (u.cell 0).greg 1, (u.cluster 0).reqs)) = ([.running], 5, [0]) := by decide +kernel
theorem test_fnq_read : (let u := after (.fnqRead 0 4) atSysrd; ((u.die 0).ik.greg 4, (u.die 0).fnq.length, (u.die 0).ik.pc)) = (0x8000000000000007, 1, 0x10004) := by decide +kernel
theorem test_crew_stall : (after (.crewStall 0) (stuck .V .leftToken [])).gangs.map (fun g => (g.run, g.reports.map (fun r => (r.cls, r.code, r.aux2)))) = [(.halting, [(2, 4, 0)])] := by decide +kernel

theorem witness_HaltsAndContexts :
    (let s := wrote (at_ .S id) 0x202 0 0; OneWrite s ⟨.ik 0, 0x202, 0, 0, false, 0⟩ ∧ gang0 .running [] ∈ s.gangs)
    ∧ (∀ h ∈ (at_ .S id).gangs, h.first = 0 → h.run ≠ .halting)
    ∧ (let s := { at_ .S (fun x => { x with stores := [st2 false 4] }) with gangs := [gang0 .halting []] }; s.gangs.find? (fun g => g.first = 0 && g.run = .halting) = some (gang0 .halting []) ∧ (gang0 .halting []).cells.all (cellQuiet s) = false)
    ∧ (let s := halted_ (gang0 .halting []) 0 0; cellQuiet s 0 = true ∧ s.gangs.find? (fun g => g.first = 0 && g.run = .halting) = some (gang0 .halting []) ∧ (s.cluster (clusterOf 0)).lessee = some (0 % 4)
      ∧ assigned (bits (dreg s (dieOf s 0) 0x204) 19 29 * 2 ^ 19 + 2 ^ 19 * 0) = true ∧ retained s (bits (dreg s (dieOf s 0) 0x204) 19 29 * 2 ^ 19 + 2 ^ 19 * 0) = false ∧ (s.die 0).ik.nest = false ∧ (s.die 0).fnq.length < 64)
    ∧ (let h := { gang0 .halting [] with abort := some true }; let s := halted_ h 0 0; s.gangs.find? (fun g => g.first = 0 && g.run = .halting) = some h ∧ h.cells.all (cellQuiet s) = true ∧ h.first ∈ h.cells ∧ (s.cell h.first).tile = some ⟨0, 0, 0, 0⟩)
    ∧ (let g := gang0 .halted [(0, kept)]; let s := halted_ g 0x203 0; OneWrite s ⟨.ik 0, 0x203, 0, 0, false, 0⟩ ∧ haltedGang s 0 0 = some g ∧ g.norst = false ∧ cellsClear s g = true ∧ (s.die 0).tripped = false
      ∧ assigned (bits (dreg s (dieOf s 0) 0x204) 19 29 * 2 ^ 19 + 2 ^ 19 * 0) = true ∧ retained s (bits (dreg s (dieOf s 0) 0x204) 19 29 * 2 ^ 19 + 2 ^ 19 * 0) = false)
    ∧ (let g := { gang0 .halted [(0, kept)] with norst := true }; let s := halted_ g 0x203 0; OneWrite s ⟨.ik 0, 0x203, 0, 0, false, 0⟩ ∧ haltedGang s 0 0 = some g ∧ g.norst = true)
    ∧ (let s := halted_ (gang0 .running []) 0x203 0; OneWrite s ⟨.ik 0, 0x203, 0, 0, false, 0⟩ ∧ haltedGang s 0 0 = none)
    ∧ (let g := gang0 .halted [(0, kept)]; let s := onDie (fun d => { d with tripped := true }) (halted_ g 0x203 0); OneWrite s ⟨.ik 0, 0x203, 0, 0, false, 0⟩ ∧ haltedGang s 0 0 = some g ∧ (s.die 0).tripped = true)
    ∧ (let g := gang0 .halted [(0, kept)]; let s := { halted_ g 0x203 0 with gangs := [g, ⟨0, 0, [0], 0, .running, [], false, none, []⟩] }; OneWrite s ⟨.ik 0, 0x203, 0, 0, false, 0⟩ ∧ haltedGang s 0 0 = some g ∧ cellsClear s g = false)
    ∧ (let g := gang0 .halted [(0, kept)]; let s := halted_ g 0x20E 0; OneWrite s ⟨.ik 0, 0x20E, 0, 0, false, 0⟩ ∧ haltedGang s 0 0 = some g ∧ (Tab.get Cell.reset g.saved g.first).tile = some ⟨0, 0, 0, 0⟩ ∧ (s.cell 0).tile = some ⟨0, 0, 0, 0⟩)
    ∧ (let s := halted_ (gang0 .running []) 0x20E 0; OneWrite s ⟨.ik 0, 0x20E, 0, 0, false, 0⟩ ∧ haltedGang s 0 0 = none)
    ∧ (let s := atSysrd; ikWord { s with cur := .ik 0 } 0 = some (.sysrd 0 4 0x20D) ∧ (0x20D : BitVec 13).toNat = 0x20D ∧ (s.die 0).ik.running = true ∧ fnqDue s 0 = false ∧ (∀ w ∈ s.writes, w.by_ ≠ .ik 0))
    ∧ (let s := onDie (fun d => { d with fnq := [(8, 2 ^ 80, []), (7, 0, []), (7, 0, [])], regs := [(0x210, 1)] }) { at_ .S id with now := 4000 }; (s.die 0).fnq = [(8, 2 ^ 80, [])] ++ (7, 0, []) :: [(7, 0, [])]
      ∧ (∀ p ∈ ([(8, 2 ^ 80, [])] : List (Word × Nat × List Byte)), s.now < p.2.1 + 4000 * max 1 (bits (dreg s 0 0x210) 0 32)) ∧ 0 + 4000 * max 1 (bits (dreg s 0 0x210) 0 32) ≤ s.now)
    ∧ (let s := onDie (fun d => { d with fnq := [(7, 0, [])], regs := [(0x210, 1)] }) { at_ .S id with now := 3999 }; ∀ p ∈ (s.die 0).fnq, s.now < p.2.1 + 4000 * max 1 (bits (dreg s 0 0x210) 0 32))
    ∧ (let s := at_ .S id; s.now < (s.cell 0).lastPass + 4096 ∧ ((s.cell 0).agent .S).halted = false ∧ stallOf s 0 .S = none)
    ∧ (∀ w ∈ [Wait.leftToken, .rightToken], ∀ e ∈ [Engine.S, .V, .M, .X], let s := stuck e w []; active s 0 = true ∧ (s.cell 0).lastPass + 4096 ≤ s.now ∧ (∀ f ∈ [Engine.S, .V, .M, .X], ((s.cell 0).agent f).halted = (f != e)) ∧ stalledStep s 0 = none ∧ (stallOf s 0 e).isSome = true)
    ∧ (let s := stuck .V (.chanPop 3) []; active s 0 = true ∧ (s.cell 0).lastPass + 4096 ≤ s.now ∧ (stallOf s 0 .V).map (fun p => (p.1, p.2.1)) = some (4, 3))
    ∧ (∀ w ∈ [Wait.leftSignal, .rightSignal], let s := stuck .V w ((List.range 16).map (fun k => (k, List.replicate 16 0))); active s 0 = true ∧ (stallOf s 0 .V).isSome = true)
    ∧ (let s := zfull []; let t := { s.setCell 0 { s.cell 0 with agents := (List.range 4).map (fun k => (k, { Agent.reset with halted := true })) } with now := 5000 }
      active t 0 = true ∧ (t.cell 0).lastPass + 4096 ≤ t.now ∧ (∀ f ∈ [Engine.S, .V, .M, .X], ((t.cell 0).agent f).halted = true) ∧ ((t.cell 0).agent .M).wait = .none
        ∧ (cellSteps t 0).map (fun m => (m.begun, stepStarved t m)) = [(false, true)])
    ∧ (let s := onDie (fun d => { d with regs := [(0x204, 2 ^ 47)] }) (at_ .S id); assigned (ctxOf s 0) = false) := by
  and_intros <;> decide +kernel

/-! Links. -/

/-- A loaded link key. -/
def lkey : LinkKey := { LinkKey.reset with key := 5, salt := 6, kid := 7, loaded := true }
/-- A port whose two slots are loaded. -/
def pt (f : Port → Port) : Port := f { Port.reset with keys := [(0, lkey), (1, { lkey with key := 8, kid := 9 })] }
/-- A module with that port 2. -/
def linked (f : Port → Port) : State := { State.reset with now := 5000, podtime := 100, ports := [(2, pt f)] }
/-- A packet of so much data to a node. -/
def pkt (dst n : Nat) : Packet := plainPacket 0 dst 0x100 0 (List.replicate n 1)
/-- A flit of this KIND and LSEQ with a payload that begins so. -/
def flit (kind seq : Nat) (b : List Byte) : Flit := ⟨90, kind, 0, seq, 0, payload b⟩
/-- Port 2 with these images on its wire. -/
def inbound (l : List (List Byte)) (f : Port → Port) : State := linked (fun x => { f x with wireIn := l })
/-- A held flit. -/
def held (n : Nat) (b : List Byte) (k : Nat) : Held := ⟨flit 1 n b, [1, 2], k⟩

theorem test_flit_out : (let u := after (.packetTransmit 2) (linked (fun x => { x with txq := [pkt 0 300] }));
    ((u.port 2).buf.map (fun h => (h.flit.lseq, h.flit.slot, h.flit.kind)), (slotKey (u.port 2) 0).tx, (u.port 2).part, (u.port 2).txq.length)) = ([(0, 0, 0)], 1, 1, 1) := by decide +kernel
theorem test_flit_out_of_order : (let u := after (.flitReceive 2) (inbound [flitHeader (flit 2 3 [])] id); ((u.port 2).expect, (u.port 2).authf, (u.port 2).wireIn)) = (0, 0, []) := by decide +kernel
/-- R442: a marker that came inside the packet goes back with it, and both slots count from before. -/
theorem test_partial_packet_with_marker : (let x := (after (.retrainComplete 2) (linked (fun x => { x with state := 1, trainIn := ⟨true, false, true⟩, rxq := [flit 0 6 (flitBody (pkt 0 300) 0)], expect := 8, rxs := 1, keys := [(0, { lkey with rx := 9 }), (1, { lkey with rx := 0 })] }))).port 2
    (x.rxs, x.expect, (slotKey x 0).rx, (slotKey x 1).rx, x.rxq.length)) = (0, 6, 7, 0, 0) := by decide +kernel
/-- R452: a link broken by resends after tag failures reports code 0x11 with AUX 3. -/
theorem test_broken_by_tags : (let u := after (.linkResend 2) (linked (fun x => { x with buf := [⟨⟨0, 1, 0, 0, 0, []⟩, [1], 255⟩], authBad := true })); ((u.port 2).state, memGet u.mem 7, memGet u.mem 6, memGet u.mem 24)) = (2, 0x0C, 0x11, 3) := by decide +kernel
theorem test_flit_without_tag : (let u := after (.flitReceive 2) (inbound [flitHeader (flit 2 0 [])] id); ((u.port 2).expect, (u.port 2).authf)) = (0, 1) := by decide +kernel

/-- What port 2 has before an image comes in. -/
theorem comes (f : Flit) (hf : f.Fits) (hs : f.slot = 0) (hl : f.lseq = 0) : Comes (inbound [sealFlit lkey 0 f] id) 2 f [] :=
  have up : portUp (pt id) = true := by decide +kernel
  ⟨by decide, rfl, up, hl, hs, rfl, _, rfl, by rw [List.take_of_length_le (Nat.le_of_eq (sealFlit_length lkey 0 f hf.2.2.2.2))]; exact openFlit_sealFlit lkey 0 f hf⟩

theorem flit_fits (n : Nat) (b : List Byte) (h : n < 16) : (flit n 0 b).Fits := ⟨h, by simp [flit], by simp [flit], by simp [flit], by simp only [flit, payload, List.length_take, List.length_append, List.length_replicate]; omega⟩

/-- An image that the tag check refuses at port 2. -/
theorem witness_LinksTagFails : let s := inbound [flitHeader (flit 2 0 [])] id
    (s.port 2).wireIn = [flitHeader (flit 2 0 [])] ∧ wholePacket (s.port 2).rxq = false ∧ portUp (s.port 2) = true ∧ (flitOf ((flitHeader (flit 2 0 [])).take 256) []).lseq = (s.port 2).expect
      ∧ (flitHeader (flit 2 0 [])).length < 256 := by decide +kernel

theorem pkt_fits (n : Nat) (h : n ≤ 4096) : Claims.Fits (pkt 0 n) := by
  simp [Claims.Fits, pkt, plainPacket, h]

theorem witness_Links :
    MaySend (linked (fun x => { x with txq := [pkt 0 300] })) 2
    ∧ (∀ n ∈ [0, 176, 177, 300], let s := linked (fun x => { x with txq := [pkt 0 n] }); markerDue (s.port 2) = false ∧ (s.port 2).txq = pkt 0 n :: [] ∧ (n < 177 → flitCount (pkt 0 n).data.length ≤ (s.port 2).part + 1) ∧ (176 < n → (s.port 2).part + 1 < flitCount (pkt 0 n).data.length))
    ∧ (let s := linked (fun x => { x with switching := some (0, 0) }); MaySend s 2 ∧ markerDue (s.port 2) = true)
    ∧ (let s := linked id; MaySend s 2 ∧ markerDue (s.port 2) = false ∧ (s.port 2).txq = [])
    ∧ (let k := pkt 0 300; let l := [flit 0 0 (flitBody k 0), flit 1 1 (flitBody k 1)]; Claims.Fits k ∧ l.map (fun f => f.body) = (List.range (flitCount k.data.length)).map (flitBody k))
    ∧ (∀ n < 3, ∀ b, Comes (inbound [sealFlit lkey 0 (flit n 0 b)] id) 2 (flit n 0 b) [])
    ∧ (∀ q ∈ [(1, 9), (1, 8)], Comes (inbound [sealFlit lkey 0 (flit 3 0 ([BitVec.ofNat 8 q.1, 0, 0, 0] ++ leList 4 q.2))] id) 2 (flit 3 0 ([BitVec.ofNat 8 q.1, 0, 0, 0] ++ leList 4 q.2)) []
        ∧ (byteAt (flit 3 0 ([BitVec.ofNat 8 q.1, 0, 0, 0] ++ leList 4 q.2)).body 0).toNat = 1 ∧ leNat (((flit 3 0 ([BitVec.ofNat 8 q.1, 0, 0, 0] ++ leList 4 q.2)).body.drop 4).take 4) = q.2)
    ∧ slotKey (pt id) 1 = { lkey with key := 8, kid := 9 }
    ∧ (let b := flitHeader (flit 2 3 []); let s := inbound [b] id; (s.port 2).wireIn = b :: [] ∧ wholePacket (s.port 2).rxq = false ∧ portUp (s.port 2) = true ∧ (flitOf (b.take 256) []).lseq ≠ (s.port 2).expect)
    ∧ (let k := pkt 5 8; let s := { linked (fun x => { x with rxq := [flit 0 0 (flitBody k 0)] }) with mem := [(20, 8)], flash := { Flash.reset with maxNode := 9 } }; wholePacket (s.port 2).rxq = true ∧ assemble (s.port 2).rxq = some k ∧ k.dst ≠ selfNode s ∧ k.cls = 0 ∧ route s k.dst = some 3 ∧ 3 ≠ 2)
    ∧ wholePacket ((linked id).port 2).rxq = false
    ∧ (let s := linked (fun x => { x with buf := [held 0 [1] 0, held 1 [2] 0] }); portUp (s.port 2) = true ∧ (s.port 2).buf = held 0 [1] 0 :: [held 1 [2] 0] ∧ (s.port 2).ackTime + 2 * max 1 (bits (mreg s 0x110C) 0 16) ≤ s.now
      ∧ (∀ x ∈ (s.port 2).buf, x.resent < max 1 (bits (mreg s 0x110C) 16 8)) ∧ isMarker (held 0 [1] 0).flit = false)
    ∧ (let s := linked (fun x => { x with buf := [held 0 [1] 255] }); portUp (s.port 2) = true ∧ (s.port 2).buf ≠ [] ∧ (s.port 2).ackTime + 2 * max 1 (bits (mreg s 0x110C) 0 16) ≤ s.now ∧ (∃ x ∈ (s.port 2).buf, max 1 (bits (mreg s 0x110C) 16 8) ≤ x.resent))
    ∧ (let s := linked (fun x => { x with buf := [held 0 [1] 0], ackTime := 5000 }); (s.port 2).stale = false ∧ s.now < (s.port 2).ackTime + 2 * max 1 (bits (mreg s 0x110C) 0 16))
    ∧ (let s := linked (fun x => { x with rxq := [flit 0 6 (flitBody (pkt 0 300) 0)] }); 0 < 5 ∧ 5 < (s.port 2).lanes ∧ (s.port 2).state = 0 ∧ wholePacket (s.port 2).rxq = false ∧ (flit 0 6 (flitBody (pkt 0 300) 0)).slot = (s.port 2).rxs)
    ∧ (let s := linked id; 0 < (s.port 2).lanes ∧ (s.port 2).lanes ≤ 8 ∧ (s.port 2).state < 2)
    ∧ ((linked (fun x => { x with state := 1 })).port 2).state = 1
    ∧ (((linked (fun x => { x with state := 2 })).port 2).state = 2 ∧ bit ((linked (fun x => { x with state := 2 })).port 2).ctl 63 = true)
    ∧ (let s := wrote (linked id) 0x1122 0 0; OneWrite s ⟨.ik 0, 0x1122, 0, 0, false, 0⟩ ∧ 0x1122 = 0x1120 + 2 ∧ bit (s.port 2).ctl 63 = true)
    ∧ (let s := wrote (linked (fun x => { x with ctl := 0 })) 0x1122 0 0x8000000000000000; OneWrite s ⟨.ik 0, 0x1122, 0, 0x8000000000000000, false, 0⟩ ∧ bit (0x8000000000000000 : Word) 63 = true ∧ bit (s.port 2).ctl 63 = false ∧ 0 < (s.port 2).lanes)
    ∧ (portUp ((linked id).port 2) = true ∧ ((linked id).port 2).part = 0 ∧ ((linked (fun x => { x with part := 1 })).port 2).part ≠ 0)
    ∧ (let s := linked (fun x => { x with rxq := [flit 0 6 (flitBody (pkt 0 300) 0)] }); portUp (s.port 2) = true ∧ (s.port 2).rxq ≠ [] ∧ wholePacket (s.port 2).rxq = false)
    ∧ (let s := { linked id with podtime := 0 }; s.podtime.toNat - (s.port 2).msRecv.toNat ≤ bits (mreg s 0x1102) 32 32 ∧ bit (s.port 2).ctl 63 = true ∧ (s.port 2).state ≠ 3)
    ∧ (∀ e ∈ [true, false], let s := { linked (fun x => { x with episode := e }) with podtime := 0x100000000 }; bits (mreg s 0x1102) 32 32 < s.podtime.toNat - (s.port 2).msRecv.toNat ∧ (s.port 2).episode = e) := by
  and_intros <;> first | decide +kernel | exact pkt_fits 300 (by decide) | exact fun n h b => comes _ (flit_fits n b (by omega)) rfl rfl | exact fun q h => ⟨comes _ (flit_fits 3 _ (by decide)) rfl rfl, by revert q; decide +kernel⟩

/-- An image that was sealed two flits before the one expected, and is discarded. -/
theorem witness_Links_discarded : let f := flit 0 0 []
    let s := inbound [sealFlit lkey 0 f] (fun x => { x with expect := 2, keys := [(0, { lkey with rx := 2 }), (1, lkey)], buf := [held 5 [1] 0] })
    let k := slotKey (s.port 2) (s.port 2).rxs
    (s.port 2).wireIn = sealFlit lkey 0 f :: [] ∧ wholePacket (s.port 2).rxq = false ∧ portUp (s.port 2) = true ∧ k.loaded = true ∧ k.rx = 2 ∧ (((s.port 2).expect + 2 ^ 24 - 0) % 2 ^ 24 = 2)
      ∧ (flitOf ((sealFlit lkey 0 f).take 256) []).slot = (s.port 2).rxs ∧ (flitOf ((sealFlit lkey 0 f).take 256) []).lseq ≠ (s.port 2).expect
      ∧ openFlit k 0 ((sealFlit lkey 0 f).take 256) = some f := by
  refine ⟨rfl, by decide +kernel, by decide +kernel, by decide +kernel, by decide +kernel, by decide +kernel, ?_, ?_, ?_⟩
  · rfl
  · decide +kernel
  · rw [List.take_of_length_le (Nat.le_of_eq (sealFlit_length lkey 0 _ (flit_fits 0 [] (by decide)).2.2.2.2))]
    exact openFlit_sealFlit lkey 0 _ (flit_fits 0 _ (by decide))

/-- A marker for retry, and port 2 in retraining. -/
def marker (n : Nat) : Held := ⟨flit 3 n [1], [3], 0⟩
/-- The first flit of a packet of two. -/
def first300 : Held := ⟨flit 0 0 (flitBody (pkt 0 300) 0), [1], 0⟩
/-- Port 2 in retraining with what the peer's sequence says. -/
def training (t : Train) (f : Port → Port) : State := linked (fun x => f { x with state := 1, trainIn := t })

theorem witness_Links_training :
    (let x := pt (fun x => { x with buf := [first300] ++ marker 1 :: [] }); x.buf = first300 :: [] ++ marker 1 :: [] ∧ isMarker first300.flit = false ∧ isMarker (marker 1).flit = true
      ∧ wholePacket ((first300 :: []).map (fun q => q.flit)) = false)
    ∧ (let x := pt (fun x => { x with part := 1, buf := [⟨flit 0 0 [], [1], 0⟩, held 1 [2] 0] }); 0 < x.part ∧ x.buf = [] ++ ⟨flit 0 0 [], [1], 0⟩ :: [held 1 [2] 0] ∧ ∀ q ∈ [held 1 [2] 0], q.flit.kind ≠ 0)
    ∧ (let s := training ⟨false, true, true⟩ id; (s.port 2).state = 1 ∧ (s.port 2).trainIn.trains = true ∧ (s.port 2).trainIn.restart = true)
    ∧ (let s := training ⟨true, false, true⟩ (fun x => { x with rxq := [flit 0 6 (flitBody (pkt 0 300) 0)] }); (s.port 2).trainIn.restart = false ∧ (s.port 2).trainIn.abort = true
      ∧ wholePacket (s.port 2).rxq = false ∧ (s.port 2).rxq = flit 0 6 (flitBody (pkt 0 300) 0) :: [] ∧ (flit 0 6 (flitBody (pkt 0 300) 0)).slot = (s.port 2).rxs)
    ∧ (let s := training ⟨false, false, false⟩ (fun x => { x with lanes := 1 }); (s.port 2).trainIn.trains = false ∧ 3 ≤ max (bits (s.port 2).ctl 0 2) (widthCode (s.port 2).lanes))
    ∧ (let s := training ⟨false, false, false⟩ id; (s.port 2).trainIn.trains = false ∧ max (bits (s.port 2).ctl 0 2) (widthCode (s.port 2).lanes) < 3)
    ∧ (let s := training ⟨false, false, true⟩ id; (s.port 2).trainIn.trains = true ∧ (s.port 2).trainIn.restart = false ∧ (s.port 2).trainIn.abort = false)
    ∧ (let s := linked (fun x => { x with trainIn := ⟨false, true, true⟩ }); (s.port 2).state = 0 ∧ bit (s.port 2).ctl 63 = true ∧ (s.port 2).trainIn.restart = true ∧ 0 < 8) := by
  and_intros <;> decide +kernel

/-! Connections, ordered delivery, reduction. -/

/-- A packet of eight bytes from node 7 to this node. -/
def inPkt (ty cseq : Nat) : Packet := { plainPacket ty 0 0x40 5 (List.replicate 8 3) with src := 7, cseq := cseq }
/-- A module in whose connection with node 7 the packet numbered 4 comes next, with that packet at hand. -/
def fromPeer (k : Packet) : State := { linked id with conns := [(7, { Conn.reset with recv := 4 })], resident := [7], selfq := [k] }
/-- A packet to node 7 that was sent in cycle `t` and resent `n` times. -/
def sentTo (t n : Nat) : Retry := ⟨{ pkt 7 8 with src := 0 }, t, n, none, none, 0⟩
/-- A module with such a packet, its copy at the start of the retry store, whose route to node 7 is port 3. -/
def toPeer (r : Retry) (f : Conn → Conn) : State := { linked id with mem := memPutAll [(28, 8)] 0x10000 (packetBytes r.pkt), flash := { Flash.reset with maxNode := 9 }, resident := [7], conns := [(7, f { Conn.reset with send := 1, retry := [r] })], regs := [(0x1105, 0x10000), (0x110D, wd (10 + 3 * 2 ^ 40))] }
/-- An ordered packet of this stamp. -/
def ordered_ (t : Word) : Packet := { inPkt 0 4 with cls := 1, stamp := t }
/-- A module in which every milestone is 90, with such packets taken in cycle 10. -/
def queuedUp (l : List Packet) : State :=
  { State.reset with now := 5000, podtime := 95, ports := (List.range 18).map (fun p => (p, { Port.reset with msRecv := 90 })), ordered := l.map (fun k => (10, k)) }
/-- A module whose reduction descriptor 0 sums words of 32 bits from two contributors, with so many taken. -/
def reducing (n : Nat) : State := { State.reset with mem := memPutAll [] 0 (leList 8 (2 * 2 ^ 48 + 2 * 2 ^ 32) ++ leList 8 64 ++ leList 8 0x80), redux := [(0x80, ⟨n, 10⟩)] }

theorem test_next_packet : (let u := after (.packetReceive 18) (fromPeer (inPkt 0 4)); ((u.conn 7).recv, u.mem.map (·.1))) = (5, (List.range 8).map (fun k => 2 ^ 60 + 0x40 + k)) := by decide +kernel
theorem test_duplicate : (let u := after (.packetReceive 18) (fromPeer (inPkt 0 3)); ((u.conn 7).recv, u.mem, (u.conn 7).ackDue.isSome)) = (4, [], true) := by decide +kernel
theorem test_key_order : (let u := after .orderedDelivery (queuedUp [ordered_ 80, ordered_ 70]); (u.ordered.map (fun p => p.2.stamp), u.delivered.map (·.1))) = ([80], some 70) := by decide +kernel
theorem test_reduction : ((redTake (reducing 1) 0 0 7).redux.map (fun p => (p.2.count, p.2.acc))) = [(2, 17)] := by decide +kernel

theorem witness_ConnectionsAndDelivery :
    (let k := inPkt 0 4; let s := { fromPeer k with mem := [(5, 1)] }; { k with aux := 0 }.cls = 0 ∧ k.ty = 0 ∧ (s.conn k.src).retry = [] ∧ (s.conn k.src).early = [] ∧ (k.epoch = (s.conn k.src).epoch ∧ (s.conn k.src).recv = k.cseq) ∧ k.cseq < 2 ^ 32 ∧ (s.conn k.src).bad = false ∧ waitsEffect s k.src = false ∧ bit k.addr 63 = false ∧ k.src ∈ s.resident
      ∧ (sliceRefused s k (k.addr.toNat % 2 ^ 30) k.data.length).isNone = true ∧ s.selfq = [k])
    ∧ (let k := { inPkt 0 4 with aux := 0 }; k.aux = 0 ∧ (fromPeer k).selfq = [k])
    ∧ (let k := inPkt 0 3; let s := fromPeer k; k.ty ≠ 10 ∧ (s.conn k.src).retry = [] ∧ k.epoch ≤ (s.conn k.src).epoch ∧ 2 ^ 31 ≤ (k.cseq + 2 ^ 32 - (s.conn k.src).recv) % 2 ^ 32 ∧ (s.conn k.src).bad = false ∧ k.src ∈ s.resident ∧ s.selfq = [k])
    ∧ (let k := inPkt 0 6; let s := fromPeer k; k.ty ≠ 10 ∧ (s.conn k.src).retry = [] ∧ (s.conn k.src).early = [] ∧ 0 < (k.cseq + 2 ^ 32 - (s.conn k.src).recv) % 2 ^ 32 ∧ (k.cseq + 2 ^ 32 - (s.conn k.src).recv) % 2 ^ 32 < 2 ^ 31 ∧ (s.conn k.src).recv < 2 ^ 32 ∧ (s.conn k.src).bad = false ∧ k.src ∈ s.resident ∧ s.selfq = [k])
    ∧ (let k := { inPkt 0 4 with addr := wd (2 ^ 63 + 0x40) }; let s := fromPeer k; k.ty = 0 ∧ k.cls = 0 ∧ k.cseq = (s.conn k.src).recv ∧ bit k.addr 63 = true ∧ (s.conn k.src).retry = [] ∧ (s.conn k.src).early = [] ∧ (s.conn k.src).bad = false ∧ k.src ∈ s.resident)
    ∧ (fromPeer (inPkt 0 4)).resident.length ≤ 1024
    ∧ (let s := toPeer (sentTo 0 0) id; Claims.Fits (pkt 7 8) ∧ (pkt 7 8).dst ∈ s.resident ∧ copyPlace s (copyLines (pkt 7 8)) = some 1 ∧ (s.conn 7).send < 2 ^ 32 ∧ (s.conn 7).epoch < 2 ^ 21)
    ∧ State.reset.selfq = []
    ∧ ((inPkt 1 4).ty = 1 ∧ (sliceRefused (fromPeer (inPkt 1 4)) (inPkt 1 4) ((inPkt 1 4).addr.toNat % 2 ^ 30) (inPkt 1 4).data.length).isNone = true)
    ∧ (State.reset.conn 7).ackDue = none
    ∧ (let s := toPeer (sentTo 0 0) (fun x => { x with ackDue := some 9 }); (s.conn 7).ackDue ≠ none ∧ 7 ≠ selfNode s ∧ 7 ∈ s.resident ∧ { s with resident := [] }.resident.length < 1024 ∧ route s 7 = some 3)
    ∧ (let r := sentTo 0 0; let s := toPeer r id; (s.conn 7).retry[0]? = some r ∧ 7 ≠ selfNode s ∧ 7 ∈ s.resident ∧ (s.conn 7).bad = false ∧ r.sent + 2 * bits (mreg s 0x110D) 0 32 ≤ s.now ∧ r.times < max 1 (bits (mreg s 0x110D) 40 8)
      ∧ retryPoisoned s r = false ∧ retryPoisoned { s with poison := [0x10000] } r = true ∧ (copyOf s r).cls = 0 ∧ (copyOf s r).dst = 7 ∧ route s 7 = some 3)
    ∧ (let r := sentTo 4990 0; let s := toPeer r id; (s.conn 7).retry[0]? = some r ∧ (s.conn 7).bad = false ∧ s.now < r.sent + 2 * bits (mreg s 0x110D) 0 32)
    ∧ (let r := sentTo 0 0; let s := toPeer r (fun x => { x with bad := true }); (s.conn 7).retry[0]? = some r ∧ 7 ≠ selfNode s ∧ (s.conn 7).bad = true)
    ∧ (let r := sentTo 0 0; let s := { toPeer r id with resident := [], poison := [896] }; (s.conn 7).retry[0]? = some r ∧ 7 ∉ s.resident ∧ poisoned s (bits (mreg s 0x1104) 0 48 + 128 * 7) 128 = true)
    ∧ (let r := sentTo 0 3; let s := toPeer r id; (s.conn 7).retry[0]? = some r ∧ (s.conn 7).bad = false ∧ r.sent + 2 * bits (mreg s 0x110D) 0 32 ≤ s.now ∧ max 1 (bits (mreg s 0x110D) 40 8) ≤ r.times)
    ∧ bit (mreg (toPeer (sentTo 0 3) id) 0x1306) 63 = false
    ∧ (firstOrdered (queuedUp [ordered_ 80, ordered_ 70])).map (fun p => p.2.stamp) = some 70
    ∧ (let s := queuedUp [ordered_ 89]; firstOrdered s = some (10, ordered_ 89) ∧ 10 < s.now ∧ (ordered_ 89).stamp.toNat < floorMs s ∧ s.selfq = [] ∧ s.conns = [] ∧ s.clusters = [])
    ∧ (let s := { queuedUp [ordered_ 89] with selfq := [ordered_ 70] }; firstOrdered s = some (10, ordered_ 89) ∧ ∃ q ∈ s.selfq, q.cls = 1 ∧ keyLe (keyOf q) (keyOf (ordered_ 89)) = true)
    ∧ (let s := { queuedUp [ordered_ 89] with conns := [(7, { Conn.reset with early := [ordered_ 70] })] }; firstOrdered s = some (10, ordered_ 89) ∧ ∃ c ∈ s.conns, ∃ q ∈ c.2.early, q.cls = 1 ∧ keyLe (keyOf q) (keyOf (ordered_ 89)) = true)
    ∧ (let s := { queuedUp [ordered_ 89] with clusters := [(0, { Cluster.reset with blocks := [⟨0, [], some (7, 4, 1)⟩] })] }; firstOrdered s = some (10, ordered_ 89) ∧ ∃ c ∈ s.clusters, ∃ b ∈ c.2.blocks, (b.src.map (·.2.2)) = some 1)
    ∧ (let s := queuedUp [ordered_ 90]; firstOrdered s = some (10, ordered_ 90) ∧ floorMs s ≤ (ordered_ 90).stamp.toNat)
    ∧ (let s := reducing 1; (Tab.get ⟨0, 0⟩ s.redux (redBuf (redDesc s 0) + 0)).count < redCount (redDesc s 0) ∧ 0 < (Tab.get ⟨0, 0⟩ s.redux (redBuf (redDesc s 0) + 0)).count ∧ redType (redDesc s 0) = 2 ∧ redOp (redDesc s 0) = 0)
    ∧ (let s := reducing 2; redCount (redDesc s 0) ≤ (Tab.get ⟨0, 0⟩ s.redux (redBuf (redDesc s 0) + 0)).count)
    ∧ (let k := { inPkt 0 0 with epoch := 1 }; let s := { fromPeer k with mem := [(5, 1)] }; k.cls = 0 ∧ k.ty = 0 ∧ (s.conn k.src).retry = [] ∧ (s.conn k.src).early = [] ∧ (s.conn k.src).epoch < k.epoch ∧ k.cseq = 0 ∧ s.reads = []
      ∧ (s.conn k.src).bad = false ∧ waitsEffect s k.src = false ∧ bit k.addr 63 = false ∧ k.src ∈ s.resident ∧ (sliceRefused s k (k.addr.toNat % 2 ^ 30) k.data.length).isNone = true ∧ s.selfq = [k])
    ∧ (let j := { bg mv1 with acks := [(7, 0)] }; let s := xst j; j ∈ (s.cell 0).jobs ∧ (7, 0) ∈ j.acks)
    ∧ (let j := { bg mv1 with acks := [(7, 0)] }; let x := (xst j).cell 0; let g := gang0 .halted [(0, x)]; let s := { xst j with gangs := [g] }; g ∈ s.gangs ∧ g.run = .halted ∧ (0, x) ∈ g.saved ∧ j ∈ x.jobs) := by
  and_intros <;> decide +kernel

/-! Hosts, pod time, circuits. -/

/-- A packet of a host, node 7, to a register of die 0 or to the slice. -/
def hostPkt (ty : Nat) (addr aux : Word) : Packet := { inPkt ty 4 with addr := addr, aux := aux, data := leList 8 3 }
/-- A module that has booted, at which it waits, with queue 0 set up and node 7 an enabled host. -/
def hosted (k : Packet) : State := keyed { fromPeer k with booted := true, selfq := [], hostq := [k], regs := [(0x1108, 0x8000000000000007)] }
/-- A flit on the circuit from channel 2 of cell 0 to port 1 of cell 4, whose channel 3 holds `n` values. -/
def circuit (n : Nat) : State :=
  { State.reset with
    netq := [⟨0, 2, 4, 1, 9⟩]
    cells := [(4, { Cell.reset with netp := [(1, 1)], chans := [(3, { Chan.reset with bind := 0x100000002, act := 0x100000002, q := List.replicate n ⟨0, some 1⟩ })] })] }

theorem test_host_tail : (let u := after (.hostRegisterWrite 0) (hosted (hostPkt 6 0x4C0 0)); (qtail (u.die 0) 0, u.hostq)) = (3, []) := by decide +kernel
theorem test_host_elsewhere : (let u := after (.hostRegisterWrite 0) (hosted (hostPkt 6 0x480 0)); (qtail (u.die 0) 0, u.hostq)) = (0, []) := by decide +kernel
/-- The flit of that circuit. -/
def onCircuit : NetFlit := ⟨0, 2, 4, 1, 9⟩
/-- The entry that carries the circuit through a router. -/
def selector (h : Hop) : BitVec 32 := BitVec.ofNat 32 ((h.input % 6) * 2 ^ (4 * (h.output % 6)))
/-- The same circuit, carried by each of its routers in the slot that its flit passes in; `l` is when port 1 took its last flit. -/
def routed (n : Nat) (l : Tab Nat) : State :=
  { circuit n with
    cells := [(4, { (circuit n).cell 4 with netAt := l })]
    dies := [(0, { Die.reset with slots := (hops onCircuit).map (fun p => (256 * (p.1.router % 40) + (256 - p.2) % 256, selector p.1)) })] }

theorem selector_picks (h : Hop) : (selector h).toNat / 2 ^ (4 * (h.output % 6)) % 16 = h.input % 6 := by
  have k : ∀ a < 6, ∀ b < 6, (BitVec.ofNat 32 (a * 2 ^ (4 * b))).toNat / 2 ^ (4 * b) % 16 = a := by decide +kernel
  exact k _ (Nat.mod_lt _ (by decide)) _ (Nat.mod_lt _ (by decide))

/-- Entries at distinct slots are each found in the table. -/
theorem slot_found (l : List (Hop × Nat)) (hd : l.Pairwise (fun p q => p.2 ≠ q.2)) (hb : ∀ p ∈ l, p.2 < 40) :
    ∀ p ∈ l, Tab.get 0 (l.map (fun p => (256 * (p.1.router % 40) + (256 - p.2) % 256, selector p.1))) (256 * (p.1.router % 40) + (256 - p.2) % 256) = selector p.1 := by
  induction l with
  | nil => simp
  | cons q r ih =>
    intro p hp
    rw [List.pairwise_cons] at hd
    rcases List.mem_cons.1 hp with rfl | h
    · simp [Tab.get]
    · have := hd.1 p h
      have := hb p hp
      have := hb q (List.mem_cons_self ..)
      have i := ih hd.2 (fun x hx => hb x (List.mem_cons_of_mem _ hx)) p h
      have ne : ¬ (256 * (q.1.router % 40) + (256 - q.2) % 256 = 256 * (p.1.router % 40) + (256 - p.2) % 256) := by omega
      simpa [Tab.get, ne] using i

theorem hops_apart (f : NetFlit) : (hops f).Pairwise (fun p q => p.2 ≠ q.2) := by
  unfold hops
  rw [← List.pairwise_map (f := Prod.snd) (R := fun a b => a ≠ b), List.map_snd_zip (by simp)]
  exact List.nodup_range

theorem hops_few (f : NetFlit) : ∀ p ∈ hops f, p.2 < 40 := by
  intro p hp
  have := List.mem_range.1 (List.of_mem_zip hp).2
  simp at this
  omega

theorem routed_open (n : Nat) (l : Tab Nat) : circuitOpen (routed n l) onCircuit = (Tab.look l 1 != some 0) := by
  have r : (hops onCircuit).all (fun h => routerOpen (routed n l) (dieOf (routed n l) 4) ((routed n l).now / 2 + 256 - h.2) h.1) = true := by
    rw [List.all_eq_true]
    intro p hp
    have z : dieOf (routed n l) 4 = 0 := by
      show dieOf State.reset 4 = 0
      decide +kernel
    have e := slot_found _ (hops_apart onCircuit) (hops_few onCircuit) p hp
    have k := hops_few onCircuit p hp
    have w : (routed n l).now / 2 + 256 - p.2 = 256 - p.2 := by
      show 0 / 2 + 256 - p.2 = 256 - p.2
      omega
    rw [z, w]
    show decide ((Tab.get 0 ((routed n l).die 0).slots _).toNat / _ % 16 = _) = true
    rw [show ((routed n l).die 0).slots = (hops onCircuit).map (fun p => (256 * (p.1.router % 40) + (256 - p.2) % 256, selector p.1)) from rfl, e, selector_picks]
    simp
  unfold circuitOpen
  rw [show onCircuit.peer = 4 from rfl, r, Bool.true_and, show (routed n l).now = 0 from rfl, show ((routed n l).cell 4).netAt = l from rfl]
  rfl

theorem test_flit_enters : (((after (.networkFlitArrive 0 2) (routed 0 [])).cell 4).chan 3).q.map (fun q => q.val) = [some 9] := by
  have o := routed_open 0 []
  have f : (routed 0 []).netq.find? (fun f => f.cell = 0 && f.chan = 2) = some onCircuit := rfl
  have m : portChan ((routed 0 []).cell 4) 1 true = some 3 := by decide +kernel
  have q : (((routed 0 []).cell 4).chan 3).q = [] := rfl
  have e : exec (.networkFlitArrive 0 2) (routed 0 []) = execNetworkFlitArrive 0 2 (routed 0 []) := rfl
  simp only [after, e, execNetworkFlitArrive, f, o, show onCircuit.peer = 4 from rfl, show onCircuit.port = 1 from rfl, m, q]
  rfl

/-- A timing word may be any number of ticks from this node's time, whatever the delay of the link. -/
theorem skewed : ∀ d ∈ [0, 32, -33], ((wd (State.reset.podtime.toNat) - wd (Config.linkDelay 2) + BitVec.ofInt 64 d) + wd (Config.linkDelay 2) - State.reset.podtime).toInt = d := by
  intro d hd
  have e : wd (State.reset.podtime.toNat) - wd (Config.linkDelay 2) + BitVec.ofInt 64 d + wd (Config.linkDelay 2) - State.reset.podtime = BitVec.ofInt 64 d := by
    rw [wd, BitVec.ofNat_toNat, BitVec.setWidth_eq]
    generalize wd (Config.linkDelay 2) = l
    generalize BitVec.ofInt 64 d = b
    generalize State.reset.podtime = p
    bv_omega
  rw [e]
  clear e
  revert d
  decide

theorem witness_HostsTimeAndCircuits :
    (∀ a ∈ [0x4C0, 0x4FF], let k := hostPkt 6 (wd a) 0; let s := hosted k; s.hostq[0]? = some k ∧ k.ty = 6 ∧ hostEnabled s k.src = true ∧ 0x4C0 ≤ bits k.addr 0 13 ∧ bits k.addr 0 13 < 0x500 ∧ (s.conn k.src).early = [])
    ∧ (∀ a ∈ [0x4BF, 0x500], let k := hostPkt 6 (wd a) 0; let s := hosted k; s.hostq[0]? = some k ∧ (bits k.addr 0 13 < 0x4C0 ∨ 0x500 ≤ bits k.addr 0 13) ∧ (s.conn k.src).early = [])
    ∧ (let k := hostPkt 6 0x4C0 0; let s := { hosted k with regs := [] }; hostEnabled s k.src = false ∧ s.hostq[0]? = some k)
    ∧ (let k := hostPkt 7 6 0; let s := hosted k; s.hostq[0]? = some k ∧ k.ty = 7 ∧ 7 ≠ 6 ∧ hostEnabled s k.src = true ∧ hostRead s k = some s.podtime ∧ canSend s k.src = true ∧ (∀ p ∈ s.sendq, p.dst ≠ k.src) ∧ (s.conn k.src).early = [])
    ∧ State.reset.hostq[0]? = none
    ∧ (∀ n ∈ [0, 4096], let k := hostPkt 8 (wd (0x100 + n * 2 ^ 32)) 0; let s := hosted k; s.hostq[0]? = some k ∧ k.ty = 8 ∧ bits k.addr 32 13 = n ∧ (sliceRefused s k (k.addr.toNat % 2 ^ 30) (bits k.addr 32 13)).isNone = true ∧ k.src ≠ selfNode s ∧ s.poison = [] ∧ s.latent = [] ∧ canSend s k.src = true
      ∧ (∀ p ∈ s.sendq, p.dst ≠ k.src) ∧ (s.conn k.src).early = [])
    ∧ (let s := wrote State.reset 0x1101 0 1; OneWrite s ⟨.ik 0, 0x1101, 0, 1, false, 0⟩ ∧ bit (1 : Word) 0 = true ∧ bit (mreg s 0x1101) 0 = false ∧ hearsLower s = false)
    ∧ (let s := { wrote State.reset 0x1101 0 1 with heard := some 2, flash := { Flash.reset with node := 5 } }; OneWrite s ⟨.ik 0, 0x1101, 0, 1, false, 0⟩ ∧ bit (mreg s 0x1101) 0 = false ∧ hearsLower s = true)
    ∧ (let s := { State.reset with locked := true }; s.locked = true ∧ bit (mreg s 0x1101) 0 = false) ∧ State.reset.locked = false
    ∧ (∀ l ∈ [true, false], let s := { State.reset with locked := l, regs := [(0x1101, 1)], heard := some 2, flash := { Flash.reset with node := 5 } }; bit (mreg s 0x1101) 0 = true ∧ s.locked = l ∧ hearsLower s = true)
    ∧ (let s := { State.reset with heard := some 2, flash := { Flash.reset with node := 5 } }; s.heard = some 2 ∧ 2 < selfNode s ∧ bit (mreg s 0x1101) 0 = false ∧ 2 ≠ selfNode s)
    ∧ (let s := { State.reset with regs := [(0x1101, 1)] }; bit (mreg s 0x1101) 0 = true ∧ s.heard = none ∧ hearsLower s = false)
    ∧ (let s := wrote State.reset 0x206 0 1; OneWrite s ⟨.ik 0, 0x206, 0, 1, false, 0⟩ ∧ bit (1 : Word) 0 = true)
    ∧ (∀ n ∈ [512, 513, 514], let s := { onDie (fun d => { d with newSlots := some (513, [(3, 1)]) }) State.reset with now := n }; (s.die 0).newSlots = some (513, [(3, 1)]) ∧ (n = 512 → s.now < 513) ∧ (n ≠ 512 → 513 ≤ s.now))
    ∧ (State.reset.die 0).newSlots = none
    ∧ (∀ n ∈ [0, 3, 4], let s := circuit n; s.netq.find? (fun q => q.cell = 0 && q.chan = 2) = some ⟨0, 2, 4, 1, 9⟩ ∧ portChan (s.cell 4) 1 true = some 3 ∧ ((s.cell 4).chan 3).q.length = n)
    ∧ (∀ n, circuitOpen (routed n []) onCircuit = true ∧ circuitOpen (routed n [(1, 0)]) onCircuit = false)
    ∧ (let s := { State.reset with heard := some 2 }; bit (mreg s 0x1101) 0 = false ∧ s.heard = some 2 ∧ 2 < 3)
    ∧ (∀ h ∈ [none, some 7], let s := { State.reset with heard := h, now := 5000 }; bit (mreg s 0x1101) 0 = false ∧ 7 ≠ selfNode s ∧ (∀ g, s.heard = some g → 7 ≤ g) ∧ s.slewAt + 4096 ≤ s.now ∧ State.reset.now < State.reset.slewAt + 4096)
    ∧ (∀ d ∈ [0, 32, -33], ((wd (State.reset.podtime.toNat) - wd (Config.linkDelay 2) + BitVec.ofInt 64 d) + wd (Config.linkDelay 2) - State.reset.podtime).toInt = d)
    ∧ (let s := { State.reset with regs := [(0x1101, 1)], flash := { Flash.reset with node := 5 } }; bit (mreg s 0x1101) 0 = true ∧ selfNode s < 6 ∧ 2 < selfNode s ∧ s.heard = none ∧ s.locked = false) := by
  and_intros <;> first | decide +kernel | exact fun n => ⟨routed_open n [], routed_open n [(1, 0)]⟩ | exact skewed

/-! Boot, power, wear. -/

/-- The root of the vendor's key, whose secret is 1 and whose seed is 0. -/
def vroot : List Byte := xNode (leList 32 1) (leList 32 0) 20 0
/-- The vendor's signature of the image 1, 2, 3 under leaf 7. -/
def vsig : List Byte := xmssSign (leList 32 1) (leList 32 2) vroot (leList 32 0) 7 [1, 2, 3]
/-- A module with that image, signed or not, of this version, and this minimum version in the fuses. -/
def flashed (signed : Bool) (v m : BitVec 32) : State :=
  { State.reset with
    fuses := { Fuses.reset with vendor := ⟨BitVec.ofNat 256 (leNat vroot), 0⟩, minVersion := m }
    flash := { Flash.reset with fw := ⟨[1, 2, 3], v, if signed then vsig else [], 0x4000⟩, keys := [(2, lkey)], memkey0 := 77, deconf := [3] } }
/-- Boot stands at its last step. -/
def waiting (l : Bool) (n : Nat) : State := { flashed true 1 0 with bootStep := 5, bootAt := 10, locked := l, now := n }
/-- A module that has booted, and whose clusters have been idle. -/
def idle (f : Cluster → Cluster) : State := { State.reset with booted := true, now := 5000, clusters := [(0, f Cluster.reset)] }
/-- A die with a running gang. -/
def running_ : State := at_ .S id

/-- The signed image verifies, whatever its versions: what a boot needs. -/
theorem signed_verifies (v m : BitVec 32) : xmssVerify (hashBytes (flashed true v m).fuses.vendor.root) (hashBytes (flashed true v m).fuses.vendor.seed) (flashed true v m).flash.fw.image (flashed true v m).flash.fw.sig = true := by
  have l : vroot.length = 32 := xNode_length ..
  have lt := leNat_lt vroot
  have h : hashBytes (BitVec.ofNat 256 (leNat vroot)) = vroot := by
    rw [hashBytes, BitVec.toNat_ofNat, Nat.mod_eq_of_lt (by rw [l] at lt; exact lt), ← l, leList_leNat]
  show xmssVerify (hashBytes (BitVec.ofNat 256 (leNat vroot))) (leList 32 0) [1, 2, 3] vsig = true
  rw [h]
  exact xmssVerify_xmssSign _ _ _ _ 7 (by decide)

theorem boots {s : State} (a : s.booted = false) (b : s.bootStep = 0) (v : verified s = true) : after .boot s = bootFirmware s := by
  show (next? (execBoot s)).getD s = _
  simp [execBoot, a, b, v, next?]

theorem flashed_verified : verified (flashed true 1 0) = true := by
  have g : decide ((flashed true 1 0).fuses.minVersion.toNat ≤ (flashed true 1 0).flash.fw.version.toNat) = true := by decide +kernel
  rw [verified, signed_verifies, g]; rfl

theorem test_boot : let u := after .boot (flashed true 1 0)
    (u.bootStep, (slotKey (u.port 2) 0).loaded, (slotKey (u.port 2) 1).loaded, bit (u.port 3).ctl 63, u.configured.length) = (5, true, false, false, 127) := by
  rw [boots rfl rfl flashed_verified]
  decide +kernel
theorem test_boot_unsigned : (after .boot (flashed false 1 0)).bootStep = 0 := by decide +kernel
theorem test_margin : (let u := after .powerControlTick { onDie (fun d => { d with regs := [(0x207, 40)] }) State.reset with now := 4000000 }; bits (mreg u 0x1302) 16 16) = 70 := by decide +kernel
theorem test_trip : ((after (.temperatureTrip 0) running_).gangs.map (fun g => (g.run, g.reports.map (fun r => (r.cls, r.code, r.rst))))) = [(.halting, [(0xD, 3, true)])] := by decide +kernel

theorem witness_BootPowerAndWear :
    (let s := flashed true 1 1; s.booted = false ∧ s.bootStep = 0 ∧ s.fuses.minVersion.toNat ≤ s.flash.fw.version.toNat ∧ s.flash.master = selfNode s ∧ Tab.look s.flash.keys 2 = some lkey ∧ s.flash.fitted.toNat / 2 ^ 2 % 2 = 1 ∧ Tab.look s.flash.keys 3 = none)
    ∧ (let s := flashed false 1 0; xmssVerify (hashBytes s.fuses.vendor.root) (hashBytes s.fuses.vendor.seed) s.flash.fw.image s.flash.fw.sig = false)
    ∧ (let s := flashed true 1 2; s.booted = false ∧ s.bootStep = 0 ∧ s.flash.fw.version.toNat < s.fuses.minVersion.toNat)
    ∧ (idle id).booted = true
    ∧ (let s := waiting true 20; s.booted = false ∧ s.bootStep = 5 ∧ s.locked = true)
    ∧ (∀ n ∈ [40000000009, 40000000010], let s := waiting false n; s.booted = false ∧ s.bootStep = 5 ∧ s.locked = false ∧ (n = 40000000010 → s.bootAt + 40000000000 ≤ s.now) ∧ (n = 40000000009 → s.now < s.bootAt + 40000000000))
    ∧ (let s := idle (fun x => { x with idleFrom := 904 }); 0 < clusterCount s ∧ (s.cluster 0).gated = false ∧ clusterFree s 0 = true ∧ (s.cluster 0).idleFrom + 4096 ≤ s.now)
    ∧ clusterFree running_ 0 = false ∧ (let s := idle (fun x => { x with idleFrom := 905 }); s.now < (s.cluster 0).idleFrom + 4096)
    ∧ (let s := wrote State.reset 0x1301 0 (wd (2 ^ 45)); OneWrite s ⟨.ik 0, 0x1301, 0, wd (2 ^ 45), false, 0⟩ ∧ bit (wd (2 ^ 45)) (44 + 1) = true ∧ bit (mreg s 0x1301) (44 + 1) = false)
    ∧ (let s := { State.reset with regs := [(0x1301, wd (2 ^ 45))] }; (s.die 1).retention = false ∧ bit (mreg s 0x1301) (44 + 1) = true ∧ (∀ g ∈ s.gangs, g.die ≠ 1) ∧ (∀ q < 64, bit (qcfgOf (s.die 1) q) 7 = false))
    ∧ bit (mreg State.reset 0x1301) (44 + 1) = false ∧ (∃ g ∈ running_.gangs, g.die = 0) ∧ (∃ q, q < 64 ∧ bit (qcfgOf ((ring8 id).die 0) q) 7 = true)
    ∧ (let s := onDie (fun d => { d with retention := true }) State.reset; (s.die 0).retention = true ∧ bit (mreg s 0x1301) (44 + 0) = false)
    ∧ (let s := { onDie (fun d => { d with regs := [(0x207, 80)] }) State.reset with now := 4000000 }; s.powerAt + 4000000 ≤ s.now ∧ 80 ≤ gbSum s ∧ bits (mreg s 0x1302) 0 3 ≤ 4) ∧ State.reset.now < State.reset.powerAt + 4000000
    ∧ State.reset.booted = false ∧ (let s := { idle id with now := 14400000000000 }; s.booted = true ∧ s.hourAt + 14400000000000 ≤ s.now ∧ ∀ l < clusterCount s, gbd s l ≤ 60) ∧ (idle id).now < (idle id).hourAt + 14400000000000
    ∧ (∀ n ∈ [20001, 26000], let s := idle (fun x => { x with delay := n }); 60 < gbd s 0 ∧ gbd s 0 ≤ 72 ∧ fenced s 0 = false)
    ∧ (let s := { running_ with clusters := [(0, { running_.cluster 0 with delay := 26001 })] }; 72 < gbd s 0 ∧ (s.cluster 0).stopped = false ∧ ∀ g ∈ s.gangs, g.run = .running ∧ ∃ c ∈ g.cells, clusterOf c = 0)
    ∧ (let s := { running_ with clusters := [(0, { running_.cluster 0 with delay := 26001 })], gangs := [gang0 .halted []] }; 72 < gbd s 0 ∧ (s.cluster 0).stopped = false ∧ ∀ g ∈ s.gangs, g.run = .halted ∧ ∃ c ∈ g.cells, clusterOf c = 0)
    ∧ (0 < clusterCount running_ ∧ dieOfCluster running_ 0 = 0)
    ∧ ((running_.die 0).tripped = false ∧ ∀ g ∈ running_.gangs, g.cells ≠ [] ∧ g.die = 0 ∧ g.run = .running)
    ∧ ((onDie (fun d => { d with tripped := true }) State.reset).die 0).tripped = true
    ∧ ([3].contains 3 = true ∧ ([3].contains 4 = false ∧ ∃ k, k < 32 ∧ 32 * (4 / 32) + k ≠ 4 ∧ [3].contains (32 * (4 / 32) + k) = false) ∧ (let l := (List.range 32).filter (· != 4); l.contains 4 = false ∧ ∀ k < 32, 32 * (4 / 32) + k ≠ 4 → l.contains (32 * (4 / 32) + k) = true))
    ∧ (let s := wrote (flashed true 1 0) 0x1303 0 0x8000000000000005; OneWrite s ⟨.ik 0, 0x1303, 0, 0x8000000000000005, false, 0⟩ ∧ bit (0x8000000000000005 : Word) 63 = true ∧ deconfWith s.flash.deconf (bits (0x8000000000000005 : Word) 0 7) = some [3, 5])
    ∧ (let s := { wrote State.reset 0x1303 0 0x8000000000000004 with flash := { Flash.reset with deconf := (List.range 32).filter (· != 4) } }; OneWrite s ⟨.ik 0, 0x1303, 0, 0x8000000000000004, false, 0⟩ ∧ deconfWith s.flash.deconf (bits (0x8000000000000004 : Word) 0 7) = none)
    ∧ ((idle id).booted = true ∧ recordDue (idle id) = true ∧ (idle id).flash.log.length < 131072)
    ∧ (let s := { idle id with flash := { Flash.reset with log := [List.replicate 64 0] } }; recordDue s = false)
    ∧ State.reset.report = none
    ∧ (let s := { running_ with report := some (.agent 0 .S, cs 0x1000) }; s.report = some (.agent 0 .S, cs 0x1000) ∧ s.fuses.leaf < 2 ^ 20 ∧ okB (checkMany s (.agent 0 .S) .S 1 false false [((cs 0x1000 &&& ~~~ 255#64) + 8, 32)]) = true
      ∧ okB (checkMany (checkMany s (.agent 0 .S) .S 1 false false [((cs 0x1000 &&& ~~~ 255#64) + 8, 32)]).1 (.agent 0 .S) .S 1 true false (reportLines (cs 0x1000 &&& ~~~ 255#64))) = true) := by
  and_intros <;> decide +kernel

/-- A full wear log, and a record that is due. -/
theorem witness_fullLog (x : Byte) (r : List Byte) (h : bits (wordAt (x :: r) 0) 0 32 = 0) : ∃ s : State, s.booted = true ∧ 131072 ≤ s.flash.log.length ∧ recordDue s = true := by
  refine ⟨{ idle id with hours := 65536, flash := { Flash.reset with log := List.replicate 131072 [], live := x :: r } }, rfl, Nat.le_of_eq (List.length_replicate ..).symm, ?_⟩
  unfold recordDue newest
  refine Bool.or_eq_true_iff.mpr (.inr (decide_eq_true ?_))
  show bits (wordAt (x :: r) 0) 0 32 + max 1 (bits _ 0 16) ≤ 65536
  rw [h]
  unfold bits
  omega

theorem witness_BootPowerAndWear_gates :
    (let s := { at_ .S id with booted := true, now := 5000 }; (1 : Nat) < clusterCount s ∧ (s.cluster 1).gated = false ∧ (∀ g ∈ s.gangs, g.run ≠ .halted → ∀ c ∈ g.cells, clusterOf c ≠ 1) ∧ (s.cluster 1).idleFrom + 4096 ≤ s.now
      ∧ ∃ g ∈ s.gangs, g.run ≠ .halted ∧ ∃ c ∈ g.cells, clusterOf c = 0)
    ∧ (∀ c ∈ State.reset.cells, c.2.loads = [] ∧ (∀ q ∈ c.2.stores, q.applied = true) ∧ c.2.jobs = []) ∧ reaches State.reset 0 = false
    ∧ (let l := { ld8 with accs := [[⟨.home 0x40, 8, some 0, 8, 0x40⟩]] }; let s := at_ .S (fun x => { x with loads := [l] }); (Tab.look s.cells 0).map (fun x => x.loads) = some [l]
      ∧ homeKind 0x40 ≠ 4 ∧ homeDie s 0x40 = 0 ∧ reaches s 0 = true) := by
  and_intros <;> decide +kernel

/-! Steps. -/

/-- A step from reset runs the word placed there. -/
def ran (w : Nat) : State := match step (State.reset.withFetchWord 64 w) with | .next u => u | _ => State.reset

theorem test_step_word : (let u := ran 0x00A04009; ((u.cell 0).greg 2, ((u.cell 0).agent .S).pc)) = (9, 0x10004) := by decide +kernel
theorem test_step_vector : (ran (0x60000000 + 2 ^ 32 * 0x00510008)).cells.map (fun p => (p.2.vshape, (p.2.agent .V).pc)) = [(0x00510008, 0x10008)] := by decide +kernel

/-- The turn of engine `e` of cell 0 at this word, and the state in which it looks at it. -/
def atWord (w : Nat) : State := State.reset.withFetchWord 64 w
/-- That state. -/
def looks (s : State) (e : Engine) : State := { markMoved (Machine.at_ { s with agenda := [] } (momentOf s 0 (.agent 0 e))) (.agent 0 e) with cur := .agent 0 e }
/-- The turn of the Innkeeper of die 0 at `li g2, 9`. -/
def ikWordAt (fnq : List (Word × Nat × List Byte)) : State :=
  let s := ikAt []
  { s with mem := memPutAll [] 0x10000 (leList 4 0x00A04009), agenda := [⟨0, .innkeeper 0⟩]
           dies := [(0, { s.die 0 with fnq := fnq, ik := { (s.die 0).ik with tlb := [page] } })] }
/-- The state in which it looks at its word. -/
def ikLooks (s : State) : State := { markMoved (Machine.at_ { s with agenda := [] } (momentOf s 0 (.innkeeper 0))) (.innkeeper 0) with cur := .ik 0 }

theorem turn_at (w : Nat) (e : Engine) (h : (atWord w).agenda = [⟨0, .agent 0 e⟩] ∧ firstDue (atWord w) (momentOf (atWord w) 0 (.agent 0 e)) = none ∧ active (looks (atWord w) e) 0 = true ∧ (((atWord w).cell 0).agent e).halted = false ∧ ((atWord w).cell 0).upset = none ∧ ((atWord w).die (dieOf (atWord w) 0)).upsets = []) :
    AgentTurn (atWord w) (looks (atWord w) e) 0 e 0 [] :=
  ⟨h.1, by decide, h.2.1, rfl, h.2.2.1, h.2.2.2.1, h.2.2.2.2⟩

theorem witness_StepRunsDecoded :
    (AgentTurn (atWord 0x00A04009) (looks (atWord 0x00A04009) .S) 0 .S 0 [] ∧ TextAt (looks (atWord 0x00A04009) .S) 0 .S 0x10000 0x10000 0
      ∧ (let s0 := looks (atWord 0x00A04009) .S; let w := BitVec.ofNat 32 (leNat (readHome (textView s0 (.agent 0 .S)) 0x10000 4 (some 0))); ((s0.cell 0).agent .S).pc = 0x10000 ∧ eBit w = false ∧ (wordTag w).toNat = engCode .S ∧ decode w 0 = .instr (.li 0 2 9)
        ∧ ((s0.cell 0).agent .S).skipTo = none ∧ ((s0.cell 0).agent .S).levels = []))
    ∧ (let s0 := looks (atWord (0x60000000 + 2 ^ 32 * 0x00510008)) .V; AgentTurn (atWord (0x60000000 + 2 ^ 32 * 0x00510008)) s0 0 .V 0 [] ∧ val? (agentFetch s0 0 .V).2 = some (0x60000000, 0x00510008) ∧ (wordTag 0x60000000).toNat = engCode .V
      ∧ decode 0x60000000 0x00510008 = .instr (.vshape 0 0x00510008) ∧ (((agentFetch s0 0 .V).1.cell 0).agent .V).skipTo = none ∧ stageOk (((agentFetch s0 0 .V).1.cell 0).agent .V) = true)
    ∧ (let s0 := looks (atWord 0x01BC0000) .S; AgentTurn (atWord 0x01BC0000) s0 0 .S 0 [] ∧ val? (agentFetch s0 0 .S).2 = some (0x01BC0000, 0) ∧ lstgFields 0x01BC0000 = none ∧ decode 0x01BC0000 0 = .bad .unassigned
      ∧ (((agentFetch s0 0 .S).1.cell 0).agent .S).skipTo = none ∧ stageOk (((agentFetch s0 0 .S).1.cell 0).agent .S) = true)
    ∧ (let s := { atWord 0x40882084 with agenda := [⟨0, .agent 0 .M⟩] }; let s0 := looks s .M; AgentTurn s s0 0 .M 0 [] ∧ val? (agentFetch s0 0 .M).2 = some (0x40882084, 0) ∧ (wordTag 0x40882084).toNat ≠ engCode .M ∧ isAllAgent 0x40882084 = false ∧ lstgFields 0x40882084 = none)
    ∧ (let s := { atWord 0x01A80602 with agenda := [⟨0, .agent 0 .V⟩] }; let s0 := looks s .V; AgentTurn s s0 0 .V 0 [] ∧ val? (agentFetch s0 0 .V).2 = some (0x01A80602, 0) ∧ isAllAgent 0x01A80602 = true ∧ (((agentFetch s0 0 .V).1.cell 0).agent .V).skipTo = none
      ∧ stageOk (((agentFetch s0 0 .V).1.cell 0).agent .V) = true)
    ∧ (let s := { (atWord 0).setCell 0 { (atWord 0).cell 0 with stlb := [] } with agenda := [⟨0, .agent 0 .S⟩] }; let s0 := looks s .S; AgentTurn s s0 0 .S 0 [] ∧ val? (agentFetch s0 0 .S).2 = none)
    ∧ (let s := { ended with agenda := [⟨3, .agent 0 .S⟩] }; s.agenda = ⟨3, .agent 0 .S⟩ :: [] ∧ firstDue s (momentOf s 3 (.agent 0 .S)) = none ∧ ((s.cell 0).agent .S).halted = true)
    ∧ (let s := ikWordAt []; IkTurn s (ikLooks s) 0 0 [] ∧ (s.die 0).fnq = [] ∧ val? (ikFetch (ikLooks s) 0).2 = some (0x00A04009, 0) ∧ wordTag 0x00A04009 = 0 ∧ decode 0x00A04009 0 = .instr (.li 0 2 9))
    ∧ (let s := ikWordAt [(7, 1, [])]; IkTurn s (ikLooks s) 0 0 [] ∧ (s.die 0).fnq ≠ [] ∧ ikActive s 0 = false ∧ (s.die 0).ik.sop = none)
    ∧ (let s := { State.reset with agenda := [⟨2, .event .boot⟩] }; s.agenda = ⟨2, .event .boot⟩ :: [] ∧ firstDue s (momentOf s 2 (.event .boot)) = none ∧ ownTurn .boot = true)
    ∧ (let s := { at_ .V (fun x => { x with pend := [flying .add 0x202 [5, 6] 0] }) with agenda := [⟨9, .agent 0 .V⟩] }; s.agenda = ⟨9, .agent 0 .V⟩ :: [] ∧ (firstDue s (momentOf s 9 (.agent 0 .V))).isSome = true)
    ∧ (let s := { State.reset with agenda := [⟨2, .agent 512 .S⟩] }; s.agenda = ⟨2, .agent 512 .S⟩ :: [] ∧ firstDue s (momentOf s 2 (.agent 512 .S)) = none) := by
  refine ⟨⟨turn_at _ _ (by decide +kernel), ⟨by decide +kernel, by decide +kernel, by decide +kernel, ⟨⟨0x10000, 0x10000, 0x10000, 0, true, true, true, 0x20000⟩, by decide +kernel⟩, by decide +kernel⟩, by decide +kernel⟩, ⟨turn_at _ _ (by decide +kernel), by decide +kernel⟩,
    ⟨turn_at _ _ (by decide +kernel), by decide +kernel⟩, ⟨?_, by decide +kernel⟩, ⟨?_, by decide +kernel⟩, ⟨?_, by decide +kernel⟩, by decide +kernel, ⟨?_, by decide +kernel⟩, ⟨?_, by decide +kernel⟩, by decide +kernel, by decide +kernel, by decide +kernel⟩
  all_goals first | (refine ⟨rfl, by decide, ?_, rfl, ?_, ?_, ?_, ?_⟩ <;> decide +kernel) | (refine ⟨rfl, by decide, ?_, rfl, ?_, ?_⟩ <;> decide +kernel)

/-- The word of V at LSTG, with and without E, and at a word that a branch out of a loop passes. -/
def vAt (w : Nat) (dest : Option Word) : State :=
  let s := atWord w
  { s.setCell 0 ((s.cell 0).setAgent .V { (s.cell 0).agent .V with pc := 0x10000, skipTo := dest }) with agenda := [⟨0, .agent 0 .V⟩] }

theorem witness_StepPassesWords :
    (∀ w ∈ [0x01AC0030, 0x21AC0030], let s := vAt w none; AgentTurn s (looks s .V) 0 .V 0 [] ∧ (val? (agentFetch (looks s .V) 0 .V).2).map (fun p => (p.1.toNat, (lstgFields p.1).isSome)) = some (w, true) ∧ (((agentFetch (looks s .V) 0 .V).1.cell 0).agent .V).skipTo = none)
    ∧ (let s := vAt 0x00A04009 (some 0x10010); AgentTurn s (looks s .V) 0 .V 0 [] ∧ (val? (agentFetch (looks s .V) 0 .V).2).isSome = true ∧ (((agentFetch (looks s .V) 0 .V).1.cell 0).agent .V).skipTo = some 0x10010)
    ∧ (let s := { State.reset with now := 9, rank := place 12 3 }; place 2 0 < s.rank ∧ place 12 3 = s.rank ∧ repeats (place 12 3) = false)
    ∧ (let s := linked id; (2, pt id) ∈ s.ports ∧ lanternReady (pt id) = true)
    ∧ (let x : Conn := { Conn.reset with ackDue := some 9 }; let s := { State.reset with conns := [(7, x)] }; (7, x) ∈ s.conns ∧ x.ackDue = some 9)
    ∧ (let s := linked (fun x => { x with state := 1 }); (2, pt (fun x => { x with state := 1 })) ∈ s.ports ∧ (pt (fun x => { x with state := 1 })).state = 1) := by
  refine ⟨fun w hw => ⟨⟨rfl, by decide, ?_, rfl, ?_, ?_, ?_, ?_⟩, ?_, ?_⟩, ⟨⟨rfl, by decide, ?_, rfl, ?_, ?_, ?_, ?_⟩, ?_, ?_⟩, ?_, ?_, ?_, ?_⟩
  all_goals first | (revert w; decide +kernel) | decide +kernel

theorem witness_StepRunsDecoded_stage_and_lease :
    (let t := atWord 0x00A04009; let s := { t.setCell 0 ((t.cell 0).setAgent .S { (t.cell 0).agent .S with levels := [⟨0x10000, 6, 9, 8, 0, []⟩], lstg := some (5, false, false) }) with agenda := [⟨0, .agent 0 .S⟩] }
      AgentTurn s (looks s .S) 0 .S 0 [] ∧ (val? (agentFetch (looks s .S) 0 .S).2).map (fun p => lstgFields p.1) = some none ∧ stageOk (((agentFetch (looks s .S) 0 .S).1.cell 0).agent .S) = false)
    ∧ (let s := arr (mst (.mswap 0 1 2) false) id; (0, s.cluster 0) ∈ s.clusters ∧ (s.cluster 0).lessee.isSome = true ∧ ∀ m ∈ (s.cluster 0).steps, m.begun = false)
    ∧ (let s := unleased id id; (0, s.cluster 0) ∈ s.clusters ∧ (s.cluster 0).lessee = none ∧ ∃ i ∈ (s.cluster 0).reqs, i < 4 ∧ tileRuns s (4 * 0 + i) = true)
    ∧ hasMoved (markMoved State.reset (.agent 0 .S)) (.agent 0 .S) = true ∧ hasMoved State.reset (.agent 0 .S) = false := by
  refine ⟨⟨⟨rfl, by decide, ?_, rfl, ?_, ?_, ?_, ?_⟩, ?_, ?_⟩, ?_, ?_, ?_, ?_⟩ <;> decide +kernel

theorem witness_DecodeEncode : (Instr.xmoveExt 0 4 5 6 7 1 2 0 16 16).wellFormed = true ∧ encode (.xmoveExt 0 4 5 6 7 1 2 0 16 16) = some (0xE00214C7, 0x60020010) := by decide +kernel

theorem witness_StepKeepsMemory : MemOk State.reset ∧ ∃ t, step (State.reset.withFetchWord 32 0x00A04009) = .next t := by
  refine ⟨by unfold MemOk; decide +kernel, ?_⟩
  have h : (next? (step (State.reset.withFetchWord 32 0x00A04009))).isSome = true := by decide +kernel
  revert h
  generalize step (State.reset.withFetchWord 32 0x00A04009) = o
  cases o with
  | next t => exact fun _ => ⟨t, rfl⟩
  | _ => exact fun h => nomatch h

/-! The Innkeeper's words. -/

theorem test_ik_load : (let u := after (.ldI8 0 3 1 0) { ikAt [ds 0x40] with mem := [(dieHome 0 + 0x40, 0xFE)] }; ((u.die 0).ik.greg 3, (u.die 0).ik.pc)) = (0xFFFFFFFFFFFFFFFE, 0x10004) := by decide +kernel
theorem test_ik_store : (after (.st16 0 2 1 1) (ikAt [ds 0x40, 0xABCD])).mem = [] ∧ (after (.st16 0 2 1 2) (ikAt [ds 0x40, 0xABCD])).mem = [(dieHome 0 + 0x42, 0xCD), (dieHome 0 + 0x43, 0xAB)] := by decide +kernel
theorem test_ik_branch : ((after (.blt 0 1 2 0x3F0) (ikAt [0xFFFFFFFFFFFFFFFF, 0])).die 0).ik.pc = 0xFFC0 ∧ ((after (.bltn 0 1 2 0x3F0) (ikAt [0xFFFFFFFFFFFFFFFF, 0])).die 0).ik.pc = 0x10004 := by decide +kernel

theorem witness_InnkeeperWords :
    (∀ n ∈ [1, 2, 4, 8], let s := ikAt [ds 0x40]; s.cur = .ik 0 ∧ (s.die 0).ik.sop = none ∧ s.poison = [] ∧ s.latent = []
      ∧ checkAccess s (.ik 0) .S ((s.die 0).ik.greg 1 + BitVec.ofInt 64 0) n n false false = (s, .ok ⟨[⟨.home (dieHome 0 + 0x40), n, none, 4, ds 0x40⟩], none⟩)
      ∧ checkAccess s (.ik 0) .S ((s.die 0).ik.greg 1 + BitVec.ofInt 64 0) n n true false = (s, .ok ⟨[⟨.home (dieHome 0 + 0x40), n, none, 4, ds 0x40⟩], none⟩))
    ∧ (let s := ikAt [0xFFFFFFFFFFFFFFFF, 0]; ((s.die 0).ik.greg 1).toInt < ((s.die 0).ik.greg 2).toInt ∧ ¬ ((s.die 0).ik.greg 1).toNat < ((s.die 0).ik.greg 2).toNat ∧ (s.die 0).ik.greg 1 ≠ (s.die 0).ik.greg 2 ∧ (s.die 0).ik.greg 2 = (s.die 0).ik.greg 3)
    ∧ (let s := ikAt [0x20000, 0x20002]; ((s.die 0).ik.greg 1).toNat % 4 = 0 ∧ ((s.die 0).ik.greg 2).toNat % 4 ≠ 0)
    ∧ (∀ k ∈ [0x200, 0x212, 0x53F, 0x1000, 0x130B], let s := ikAt []; let n := BitVec.ofNat 13 k; s.cur = .ik 0 ∧ regKnown n.toNat = true ∧ 0x200 ≤ n.toNat ∧ n.toNat ≠ 0x20D ∧ (∀ q ∈ s.writes, q.by_ ≠ .ik 0))
    ∧ (∀ k ∈ [0x9, 0x213, 0x540, 0x130C], regKnown (BitVec.ofNat 13 k).toNat = false) := by
  and_intros <;> decide +kernel

/-- The Innkeeper of die 0 with g1 at 0x10040 of a page that may be written, and g2 so much. -/
def ikPaged (v : Word) : State :=
  let s := ikAt [0x10040, v]
  { s with dies := [(0, { s.die 0 with ik := { (s.die 0).ik with tlb := [{ page with leaf := 0 }] } })] }

theorem witness_InnkeeperWords_paged : let s := ikPaged 0
    s.cur = .ik 0 ∧ (∀ n ∈ [1, 8], okWhen (checkAccess s (.ik 0) .S ((s.die 0).ik.greg 1 + BitVec.ofInt 64 0) n n true false) (fun _ q => q.accs = lineAccs 0x10040 0x10040 n 0) = true) ∧ 0x10040 + 128 ≤ 2 ^ 48
      ∧ okWhen (checkAccess s (.ik 0) .S ((s.die 0).ik.greg 1 + BitVec.ofInt 64 0) 4 4 false false) (fun _ q => q.accs = [⟨.home 0x10040, 4, some 0, 4, 0x10040⟩]) = true
      ∧ okWhen (checkAccess s (.ik 0) .S ((s.die 0).ik.greg 1 + BitVec.ofInt 64 64) 128 128 false false) (fun _ q => q.accs = lineAccs 0x10080 0x10080 128 0) = true := by
  decide +kernel

theorem witness_InnkeeperWords_images : (∀ w ∈ [false, true], let s := ikAt [ds 0x80]; s.cur = .ik 0 ∧ (s.die 0).ik.sop = none ∧ s.poison = [] ∧ s.latent = []
      ∧ checkAccess s (.ik 0) .S ((s.die 0).ik.greg 1 + BitVec.ofInt 64 0) 128 128 w false = (s, .ok ⟨[⟨.home (dieHome 0 + 0x80), 128, none, 4, ds 0x80⟩], none⟩))
    ∧ (let s := ikAt [ds 0x40, 2]; (0 : Nat) < 3 ∧ min ((s.die 0).ik.greg 2).toNat 3 = 2
      ∧ checkAccess s (.ik 0) .S ((s.die 0).ik.greg 1 + wd (4 * 2)) 4 4 false false = (s, .ok ⟨[⟨.home (dieHome 0 + 0x48), 4, none, 4, ds 0x48⟩], none⟩)) := by decide +kernel

theorem witness_InnkeeperWords_selected :
    (∀ k ∈ [0x0, 0x2, 0x40, 0x100], let s := ikAt []; let n := BitVec.ofNat 13 k; s.cur = .ik 0 ∧ regKnown n.toNat = true ∧ n.toNat < 0x200 ∧ Selected s 0 0 ∧ (∀ q ∈ s.writes, q.by_ ≠ .ik 0))
    ∧ (let s := { ikAt [] with configured := [0] }; let t := s.setDie 0 { s.die 0 with regs := [(0x20F, 4)] }; t.cur = .ik 0 ∧ dieClusters t 0 ≤ bits (dreg t 0 0x20F) 2 5) := by
  unfold Selected
  decide +kernel

end Sys2Proof.Tests
end

section
/-!
PROOFS. A scalar word that writes one g register: what it leaves of a cell and of an Innkeeper, proved once for every such word.
-/
namespace Sys2Proof.Claims
open Sys2Proof.Machine

/-! g registers: what a write of one leaves, and how the mover reads and writes them. -/

theorem setG_keeps_rest (x : Cell) (n : Nat) (v : Word) : { x.setG n v with g := x.g } = x := by
  unfold Cell.setG; split <;> rfl

theorem greg_of_sameButIssue {x y : Cell} (h : SameButIssue x y) (n : Nat) : y.greg n = x.greg n := by
  rw [← h]; rfl

/-- Issuing, then writing one g register, then issuing again changes nothing else of a cell. -/
theorem unpassed_of_setG {x y z : Cell} {n : Nat} {v : Word} (before : SameButIssue x y) (after : SameButIssue (y.setG n v) z) :
    { unpassed x z with g := x.g } = x := by
  have passing : { unpassed x z with g := x.g } = { unpassed x (y.setG n v) with g := x.g } :=
    (congrArg (fun w : Cell => { unpassed x w with g := x.g }) after :)
  have writing : { unpassed x (y.setG n v) with g := x.g } = { unpassed x y with g := x.g } :=
    (congrArg (fun w : Cell => { unpassed x w with g := x.g }) (setG_keeps_rest y n v) :)
  have issuing : { unpassed x y with g := x.g } = x :=
    (congrArg (fun w : Cell => { w with g := x.g }) before :)
  exact passing.trans (writing.trans issuing)

theorem ik_greg_setG (x : Innkeeper) (n : Nat) (v : Word) : (x.setG n v).greg n = if n = 0 then 0 else v := by
  unfold Innkeeper.setG Innkeeper.greg
  by_cases h : n = 0
  · simp [h]
  · simp [h, Tab.get_set]

theorem ik_greg_setG_ne (x : Innkeeper) (n j : Nat) (v : Word) (h : j ≠ n) : (x.setG n v).greg j = x.greg j := by
  unfold Innkeeper.setG Innkeeper.greg
  by_cases k : n = 0
  · simp [k]
  · simp [k, Tab.get_set_ne _ _ _ _ _ h]

theorem ik_setG_keeps_rest (x : Innkeeper) (n : Nat) (v p : Word) : { x.setG n v with g := x.g, pc := p } = { x with pc := p } := by
  unfold Innkeeper.setG; split <;> rfl

theorem ik_setG_pc (x : Innkeeper) (n : Nat) (v : Word) : (x.setG n v).pc = x.pc := by
  unfold Innkeeper.setG; split <;> rfl

theorem toNat_reg_eq_zero (d : BitVec 5) : d.toNat = 0 ↔ d = 0 := BitVec.toNat_inj (y := 0)

theorem toNat_reg_ne {r d : BitVec 5} (h : r ≠ d) : r.toNat ≠ d.toNat := fun k => h (BitVec.toNat_inj.mp k)

theorem gGet_agent (s : State) (c : Nat) (e : Engine) (h : s.cur = .agent c e) : gGet s = fun r => (s.cell c).greg r.toNat := by
  funext r; simp only [gGet, h]

theorem gSet_agent (s : State) (c : Nat) (e : Engine) (d : BitVec 5) (v : Word) (h : s.cur = .agent c e) :
    gSet s d v = s.setCell c ((s.cell c).setG d.toNat v) := by
  simp only [gSet, h]

theorem gGet_ik (s : State) (k : Nat) (h : s.cur = .ik k) : gGet s = fun r => (s.die k).ik.greg r.toNat := by
  funext r; simp only [gGet, h]

theorem gSet_ik (s : State) (k : Nat) (d : BitVec 5) (v : Word) (h : s.cur = .ik k) :
    gSet s d v = s.setDie k { s.die k with ik := (s.die k).ik.setG d.toNat v } := by
  simp only [gSet, h]

/-! Frames. -/

theorem OnlyCell.trans {s u w : State} {c : Nat} (h : OnlyCell s u c) (k : OnlyCell u w c) : OnlyCell s w c :=
  ⟨(congrArg (fun x : State => { x with cells := s.cells }) k.1 :).trans h.1, fun j ne => (k.2 j ne).trans (h.2 j ne)⟩

theorem OnlyCell.memSame {s u : State} {c : Nat} (h : OnlyCell s u c) : MemSame s u :=
  fun a => (congrArg (fun v : State => memGet v.mem a) h.1 :)

theorem OnlyIk.memSame {s u : State} {k : Nat} (h : OnlyIk s u k) : MemSame s u :=
  fun a => (congrArg (fun v : State => memGet v.mem a) h.1 :)

theorem setCell_onlyCell (s : State) (c : Nat) (x : Cell) : OnlyCell s (s.setCell c x) c :=
  ⟨rfl, fun j h => State.cell_setCell_ne s c j x h⟩

/-! Putting the signals that an agent owes, and passing a word. -/

theorem flushSig_onlyCell (s : State) (c : Nat) (e : Engine) : OnlyCell s (flushSig s c e) c := by
  obtain ⟨rest, cells, -⟩ := flushSig_spec s c e
  exact ⟨rest, cells⟩

theorem flushSig_sameButIssue (s : State) (c : Nat) (e : Engine) : SameButIssue (s.cell c) ((flushSig s c e).cell c) := by
  obtain ⟨-, -, same, -⟩ := flushSig_spec s c e
  exact same

theorem flushSig_cur (s : State) (c : Nat) (e : Engine) : (flushSig s c e).cur = s.cur :=
  (congrArg State.cur (flushSig_onlyCell s c e).1 :)

/-- A word passed after the signals were put is passed from where the agent stood before. -/
theorem Passed.of_flushSig {s : State} {c n : Nat} {e : Engine} {y : Cell} (h : Passed ((flushSig s c e).cell c) y e n) :
    Passed (s.cell c) y e n := by
  obtain ⟨-, -, -, others, own⟩ := flushSig_spec s c e
  obtain ⟨hdpos, hpc, hothers⟩ := h
  have dpos : (((flushSig s c e).cell c).agent e).dpos = ((s.cell c).agent e).dpos := (congrArg Agent.dpos own :)
  have pc : (((flushSig s c e).cell c).agent e).pc = ((s.cell c).agent e).pc := (congrArg Agent.pc own :)
  have levels : (((flushSig s c e).cell c).agent e).levels = ((s.cell c).agent e).levels := (congrArg Agent.levels own :)
  rw [dpos] at hdpos
  rw [pc, levels] at hpc
  exact ⟨hdpos, hpc, fun f ne => (hothers f ne).trans (others f ne)⟩

theorem retire_onlyCell (s : State) (c : Nat) (e : Engine) (t : BitVec 4) (n : Nat) : OnlyCell s (retire s c e t n) c := by
  obtain ⟨rest, cells, -⟩ := retireAt_spec s c e t n (((s.cell c).agent e).pc + wd (4 * n))
  exact ⟨rest, cells⟩

theorem retire_sameButIssue (s : State) (c : Nat) (e : Engine) (t : BitVec 4) (n : Nat) :
    SameButIssue (s.cell c) ((retire s c e t n).cell c) := by
  obtain ⟨-, -, same, -⟩ := retireAt_spec s c e t n (((s.cell c).agent e).pc + wd (4 * n))
  exact same

theorem retire_passed (s : State) (c : Nat) (e : Engine) (t : BitVec 4) (n : Nat) :
    Passed (s.cell c) ((retire s c e t n).cell c) e n := by
  obtain ⟨-, -, -, others, dpos, pc, -⟩ := retireAt_spec s c e t n (((s.cell c).agent e).pc + wd (4 * n))
  refine ⟨dpos, fun outside => pc.trans ?_, others⟩
  rw [outside, backEdge]

/-! The word on a cell. -/

theorem gGet_flushSig (s : State) (c : Nat) (e : Engine) (h : s.cur = .agent c e) :
    gGet (flushSig s c e) = fun r => (s.cell c).greg r.toNat := by
  rw [gGet_agent _ c e ((flushSig_cur s c e).trans h)]
  exact funext fun r => greg_of_sameButIssue (flushSig_sameButIssue s c e) r.toNat

/-- The state with gd of cell `c` written. -/
def putG (s : State) (c : Nat) (d : BitVec 5) (v : Word) : State := s.setCell c ((s.cell c).setG d.toNat v)

theorem cell_putG (s : State) (c : Nat) (d : BitVec 5) (v : Word) : (putG s c d v).cell c = (s.cell c).setG d.toNat v :=
  State.cell_setCell s c _

/-- A word passed after gd was written is passed from where the agent stood before. -/
theorem Passed.of_putG {s : State} {c n : Nat} {d : BitVec 5} {v : Word} {e : Engine} {y : Cell}
    (h : Passed ((putG s c d v).cell c) y e n) : Passed (s.cell c) y e n := by
  simpa only [Passed, cell_putG, Cell.setG_agent] using h

/-- The state once the S agent of cell `c` has put its signals, written gd and passed its word of `n` words. -/
def wroteG (s : State) (c : Nat) (t : BitVec 4) (n : Nat) (d : BitVec 5) (v : Word) : State :=
  retire (putG (flushSig s c .S) c d v) c .S t n

/-- A word that nothing holds back and that writes gd from the g registers leaves `wroteG`. -/
theorem sWord_eq_wroteG {s : State} {c n : Nat} {t : BitVec 4} {rs : List (BitVec 5)} (d : BitVec 5) (F : (BitVec 5 → Word) → Word)
    (hi : Issues s c .S t n) (hf : regsFree (s.cell c) rs = true) :
    sWord s t n rs (fun s1 => .done (gSet s1 d (F (gGet s1)))) = .next (wroteG s c t n d (F fun r => (s.cell c).greg r.toNat)) := by
  obtain ⟨hcur, hb⟩ := hi
  have free : regsFree ((flushSig s c .S).cell c) rs = true := by rw [regsFree_same _ _ (flushSig_sameButIssue s c .S), hf]
  rw [sWord_issues s c t n rs _ hcur hb free, gGet_flushSig s c .S hcur, gSet_agent _ c .S _ _ ((flushSig_cur s c .S).trans hcur)]
  rfl

section
variable (s : State) (c : Nat) (t : BitVec 4) (n : Nat) (d : BitVec 5) (v : Word)

theorem wroteG_sameButIssue : SameButIssue (((flushSig s c .S).cell c).setG d.toNat v) ((wroteG s c t n d v).cell c) :=
  cell_putG (flushSig s c .S) c d v ▸ retire_sameButIssue (putG (flushSig s c .S) c d v) c .S t n

theorem wroteG_greg : ((wroteG s c t n d v).cell c).greg d.toNat = if d = 0 then 0 else v := by
  rw [greg_of_sameButIssue (wroteG_sameButIssue s c t n d v), Cell.greg_setG]
  simp only [toNat_reg_eq_zero]

theorem wroteG_greg_ne (r : BitVec 5) (h : r ≠ d) : ((wroteG s c t n d v).cell c).greg r.toNat = (s.cell c).greg r.toNat := by
  rw [greg_of_sameButIssue (wroteG_sameButIssue s c t n d v), Cell.greg_setG_ne _ _ _ _ (toNat_reg_ne h),
    greg_of_sameButIssue (flushSig_sameButIssue s c .S)]

theorem wroteG_unpassed : { unpassed (s.cell c) ((wroteG s c t n d v).cell c) with g := (s.cell c).g } = s.cell c :=
  unpassed_of_setG (flushSig_sameButIssue s c .S) (wroteG_sameButIssue s c t n d v)

theorem wroteG_passed : Passed (s.cell c) ((wroteG s c t n d v).cell c) .S n :=
  (retire_passed (putG (flushSig s c .S) c d v) c .S t n).of_putG.of_flushSig

theorem wroteG_onlyCell : OnlyCell s (wroteG s c t n d v) c :=
  ((flushSig_onlyCell s c .S).trans (setCell_onlyCell _ c _)).trans (retire_onlyCell _ c .S t n)

end

/-! The word on an Innkeeper. -/

/-- The state once the Innkeeper of die `k` has written gd and gone past `n` words. -/
def ikWroteG (s : State) (k n : Nat) (d : BitVec 5) (v : Word) : State :=
  ikFinish k n (.done (s.setDie k { s.die k with ik := (s.die k).ik.setG d.toNat v }))

theorem sWord_eq_ikWroteG {s : State} {k : Nat} (t : BitVec 4) (n : Nat) (rs : List (BitVec 5)) (d : BitVec 5)
    (F : (BitVec 5 → Word) → Word) (h : s.cur = .ik k) :
    sWord s t n rs (fun s1 => .done (gSet s1 d (F (gGet s1)))) = .next (ikWroteG s k n d (F fun r => (s.die k).ik.greg r.toNat)) := by
  simp only [sWord, h, gGet_ik s k h, gSet_ik s k _ _ h]
  rfl

section
variable (s : State) (k n : Nat) (d : BitVec 5) (v : Word)

theorem die_ikWroteG : (ikWroteG s k n d v).die k =
    { s.die k with ik := { (s.die k).ik.setG d.toNat v with pc := (s.die k).ik.pc + wd (4 * n) } } := by
  simp only [ikWroteG, ikFinish, ikGo, State.die_setDie, ik_setG_pc]

theorem ikWroteG_greg : ((ikWroteG s k n d v).die k).ik.greg d.toNat = if d = 0 then 0 else v := by
  rw [die_ikWroteG]
  have written := ik_greg_setG (s.die k).ik d.toNat v
  simp only [toNat_reg_eq_zero] at written
  exact written

theorem ikWroteG_greg_ne (r : BitVec 5) (h : r ≠ d) :
    ((ikWroteG s k n d v).die k).ik.greg r.toNat = (s.die k).ik.greg r.toNat := by
  rw [die_ikWroteG]
  exact ik_greg_setG_ne (s.die k).ik _ _ v (toNat_reg_ne h)

theorem ikWroteG_onlyIk : OnlyIk s (ikWroteG s k n d v) k := by
  refine ⟨rfl, fun j h => ?_, ?_⟩
  · exact (State.die_setDie_ne _ _ _ _ h).trans (State.die_setDie_ne _ _ _ _ h)
  · rw [die_ikWroteG]
    exact congrArg (fun x : Innkeeper => { s.die k with ik := x }) (ik_setG_keeps_rest (s.die k).ik d.toNat v (s.die k).ik.pc)

end

/-- A scalar word that writes gd with a function of the g registers computes whatever holds of that function. -/
theorem computes_of_sWord {i : Instr} {t : BitVec 4} {n : Nat} {d : BitVec 5} {rs : List (BitVec 5)}
    {P : (BitVec 5 → Word) → Word → Prop} (F : (BitVec 5 → Word) → Word)
    (hexec : ∀ s, exec i s = sWord s t n rs (fun s1 => .done (gSet s1 d (F (gGet s1))))) (hP : ∀ g, P g (F g)) :
    Computes i t n d rs P := by
  refine ⟨fun s c hi hf => ?_, fun s k h => ?_⟩
  · have only := wroteG_onlyCell s c t n d (F fun r => (s.cell c).greg r.toNat)
    exact ⟨_, _, (hexec s).trans (sWord_eq_wroteG d F hi hf), hP _, wroteG_greg .., wroteG_greg_ne s c t n d _,
      wroteG_unpassed .., wroteG_passed .., only, only.memSame⟩
  · have only := ikWroteG_onlyIk s k n d (F fun r => (s.die k).ik.greg r.toNat)
    exact ⟨_, _, (hexec s).trans (sWord_eq_ikWroteG t n rs d F h), hP _, ikWroteG_greg .., ikWroteG_greg_ne s k n d _,
      by rw [die_ikWroteG], only, only.memSame⟩

end Sys2Proof.Claims
end

section
/-!
PROOFS. The results of DIV and REM (R202) and of BEXT and BINS (R203).
-/
namespace Sys2Proof.Claims
open Sys2Proof.Machine

/-! DIV and REM (R202). -/

theorem toNat_wd_of_le {n : Nat} (x : Word) (h : n ≤ x.toNat) : (wd n).toNat = n :=
  Nat.mod_eq_of_lt (Nat.lt_of_le_of_lt h x.isLt)

/-- The signed quotient fits in 64 bits but for the one pair of operands that R202 sets apart. -/
theorem toInt_ofInt_tdiv (x y : Word) (h : ¬ (x.toInt = -2 ^ 63 ∧ y.toInt = -1)) :
    (BitVec.ofInt 64 (x.toInt.tdiv y.toInt)).toInt = x.toInt.tdiv y.toInt := by
  have fits : x ≠ BitVec.intMin 64 ∨ y ≠ -1#64 := by
    by_cases least : x = BitVec.intMin 64
    · exact .inr fun minusOne => h ⟨least ▸ by decide, minusOne ▸ by decide⟩
    · exact .inl least
  rw [BitVec.toInt_ofInt, ← BitVec.toInt_sdiv, BitVec.toInt_sdiv_of_ne_or_ne x y fits]

/-- The signed remainder always fits. -/
theorem toInt_ofInt_tmod (x y : Word) : (BitVec.ofInt 64 (x.toInt.tmod y.toInt)).toInt = x.toInt.tmod y.toInt := by
  rw [← BitVec.toInt_srem, BitVec.ofInt_toInt]

/-- The quotient that R202 defines. -/
theorem divOp_spec (u : BitVec 1) (x y : Word) :
    if y = 0 then (divOp u x y).toNat = 2 ^ 64 - 1
    else if u = 0 ∧ x.toInt = -2 ^ 63 ∧ y.toInt = -1 then divOp u x y = x
    else if u = 0 then (divOp u x y).toInt = Int.tdiv x.toInt y.toInt
    else (divOp u x y).toNat = x.toNat / y.toNat := by
  unfold divOp
  by_cases zero : y = 0
  · simp [zero, wd]
  by_cases signed : u = 0
  · by_cases unfit : x.toInt = -2 ^ 63 ∧ y.toInt = -1
    · simp only [zero, signed, unfit, and_self, if_true, if_false]
    · simpa only [zero, signed, unfit, and_false, if_true, if_false] using toInt_ofInt_tdiv x y unfit
  · simpa only [zero, signed, false_and, if_false] using toNat_wd_of_le x (Nat.div_le_self x.toNat y.toNat)

/-- The remainder that R202 defines. -/
theorem remOp_spec (u : BitVec 1) (x y : Word) :
    if y = 0 then remOp u x y = x
    else if u = 0 ∧ x.toInt = -2 ^ 63 ∧ y.toInt = -1 then remOp u x y = 0
    else if u = 0 then (remOp u x y).toInt = x.toInt - Int.tdiv x.toInt y.toInt * y.toInt
    else (remOp u x y).toNat = x.toNat - x.toNat / y.toNat * y.toNat := by
  unfold remOp
  by_cases zero : y = 0
  · simp only [zero, if_true]
  by_cases signed : u = 0
  · by_cases unfit : x.toInt = -2 ^ 63 ∧ y.toInt = -1
    · simp only [zero, signed, unfit, and_self, if_true, if_false]
    · simp only [zero, signed, unfit, and_false, if_true, if_false]
      rw [toInt_ofInt_tmod, Int.tmod_def, Int.mul_comm]
  · simp only [zero, signed, false_and, if_false]
    rw [toNat_wd_of_le x (Nat.mod_le x.toNat y.toNat), Nat.mod_eq_sub_div_mul]

/-- Settles O2: DIV and REM write `divOp` and `remOp`, whose branches are the cases of R202. -/
theorem divideAndRemainder : Obligations.DivideAndRemainder := by
  unfold Obligations.DivideAndRemainder
  constructor
  · intro t d a u b
    exact computes_of_sWord (fun g => divOp u (g a) (g b)) (fun _ => rfl) (fun g => divOp_spec u (g a) (g b))
  · intro t d a u b
    exact computes_of_sWord (fun g => remOp u (g a) (g b)) (fun _ => rfl) (fun g => remOp_spec u (g a) (g b))

/-! BEXT and BINS (R203). -/

theorem bits_place (b : Word) : bits b 0 6 = b.toNat % 64 := by simp [bits]

theorem fieldWidth_eq (b : Word) : fieldWidth b = if b.toNat / 2 ^ 8 % 64 = 0 then 64 else b.toNat / 2 ^ 8 % 64 := rfl

theorem getLsbD_wd (n : Nat) {j : Nat} (h : j < 64) : (wd n).getLsbD j = n.testBit j := by
  rw [wd, BitVec.getLsbD_ofNat, decide_eq_true h, Bool.true_and]

/-- Bit by bit, BEXT reads the field and zeros above it. -/
theorem getLsbD_bextOp (a b : Word) {j : Nat} (h : j < 64) :
    (bextOp a b).getLsbD j = (decide (j < fieldWidth b) && a.getLsbD (bits b 0 6 + j)) := by
  rw [bextOp, getLsbD_wd _ h, Nat.testBit_mod_two_pow, Nat.testBit_div_two_pow, BitVec.testBit_toNat, Nat.add_comm j]

/-- Bit by bit, BINS takes the field from a and the rest from gd as it was. -/
theorem getLsbD_binsOp (old a b : Word) {j : Nat} (h : j < 64) :
    (binsOp old a b).getLsbD j =
      if bits b 0 6 ≤ j ∧ j < bits b 0 6 + fieldWidth b then a.getLsbD (j - bits b 0 6) else old.getLsbD j := by
  have mask : (wd ((2 ^ fieldWidth b - 1) * 2 ^ bits b 0 6)).getLsbD j
      = (decide (bits b 0 6 ≤ j) && decide (j - bits b 0 6 < fieldWidth b)) := by
    rw [getLsbD_wd _ h, Nat.testBit_mul_two_pow, Nat.testBit_two_pow_sub_one]
  have field : (wd (a.toNat % 2 ^ fieldWidth b * 2 ^ bits b 0 6)).getLsbD j
      = (decide (bits b 0 6 ≤ j) && (decide (j - bits b 0 6 < fieldWidth b) && a.getLsbD (j - bits b 0 6))) := by
    rw [getLsbD_wd _ h, Nat.testBit_mul_two_pow, Nat.testBit_mod_two_pow, BitVec.testBit_toNat]
  have width : 2 ^ fieldWidth b - 1 + 1 = 2 ^ fieldWidth b := Nat.sub_add_cancel Nat.one_le_two_pow
  simp only [binsOp, width, BitVec.getLsbD_or, BitVec.getLsbD_and, BitVec.getLsbD_not, h, decide_true, Bool.true_and, mask, field]
  by_cases below : bits b 0 6 ≤ j
  · by_cases inside : j - bits b 0 6 < fieldWidth b
    · rw [if_pos ⟨below, by omega⟩]
      simp [below, inside]
    · rw [if_neg (by omega)]
      simp [inside]
  · rw [if_neg (by omega)]
    simp [below]

/-- Settles O3: BEXT and BINS write `bextOp` and `binsOp`, read bit by bit. -/
theorem bitFields : Obligations.BitFields := by
  unfold Obligations.BitFields
  constructor
  · intro t d a b
    refine computes_of_sWord (fun g => bextOp (g a) (g b)) (fun _ => rfl) fun g p w hp hw j hj => ?_
    rw [getLsbD_bextOp _ _ hj, bits_place, fieldWidth_eq, ← hp, ← hw]
  · intro t d a b
    refine computes_of_sWord (fun g => binsOp (g d) (g a) (g b)) (fun _ => rfl) fun g p w hp hw j hj => ?_
    rw [getLsbD_binsOp _ _ _ hj, bits_place, fieldWidth_eq, ← hp, ← hw]

end Sys2Proof.Claims
end

section
/-!
PROOFS. The integer results of one lane (R241 to R243).
-/
namespace Sys2Proof.Claims
open Sys2Proof.Machine

/-! Codes and values of an integer type. -/

theorem widthOf_pos (ty : Nat) : 0 < widthOf ty := by
  unfold widthOf
  split
  · decide
  · split <;> decide

theorem isSigned_iff (ty : Nat) : isSigned ty = true ↔ ty < 3 := decide_eq_true_iff

theorem intMin_eq (ty w : Nat) : intMin ty w = if ty < 3 then -(2 ^ (w - 1)) else 0 := by
  simp only [intMin, isSigned_iff]

theorem intMax_eq (ty w : Nat) : intMax ty w = if ty < 3 then 2 ^ (w - 1) - 1 else 2 ^ w - 1 := by
  simp only [intMax, isSigned_iff]

theorem int_two_pow_pos (n : Nat) : (0 : Int) < 2 ^ n := Int.pow_pos (by decide)

theorem intMin_le_intMax (ty w : Nat) : intMin ty w ≤ intMax ty w := by
  have half := int_two_pow_pos (w - 1)
  have whole := int_two_pow_pos w
  rw [intMin_eq, intMax_eq]
  split <;> omega

/-- A code of a signed type stands for its two's complement value, one of a natural type for itself. -/
theorem intValue_of_lt {ty w a : Nat} (pos : 0 < w) (fits : a < 2 ^ w) :
    intValue ty w a = if ty < 3 then (BitVec.ofNat w a).toInt else a := by
  have halves := Nat.two_pow_pred_add_two_pow_pred pos
  simp only [intValue, Nat.mod_eq_of_lt fits, Bool.and_eq_true, isSigned_iff, decide_eq_true_eq]
  by_cases signed : ty < 3
  · rw [if_pos signed, BitVec.toInt_eq_toNat_cond, BitVec.toNat_ofNat, Nat.mod_eq_of_lt fits]
    by_cases negative : 2 ^ (w - 1) ≤ a
    · rw [if_pos ⟨signed, negative⟩, if_neg (by omega)]
      norm_cast
    · rw [if_neg (fun both => negative both.2), if_pos (by omega)]
  · rw [if_neg (fun both => signed both.1), if_neg signed]

theorem intBits_cast (w : Nat) (x : Int) : (intBits w x : Int) = x % 2 ^ w :=
  Int.toNat_of_nonneg (Int.emod_nonneg x (Int.ne_of_gt (int_two_pow_pos w)))

theorem intBits_lt (w : Nat) (x : Int) : intBits w x < 2 ^ w := by
  have below : x % 2 ^ w < 2 ^ w := Int.emod_lt_of_pos x (int_two_pow_pos w)
  rw [← intBits_cast] at below
  exact_mod_cast below

/-- Adding back what was taken away gives the code again. -/
theorem intBits_sub_add {w c : Nat} (fits : c < 2 ^ w) (n : Nat) : (intBits w ((c : Int) - n) + n) % 2 ^ w = c := by
  have back : ((intBits w ((c : Int) - n) : Int) + n) % 2 ^ w = c % 2 ^ w := by
    rw [intBits_cast, Int.emod_add_emod, Int.sub_add_cancel]
  calc (intBits w ((c : Int) - n) + n) % 2 ^ w
    _ = c % 2 ^ w := by exact_mod_cast back
    _ = c := Nat.mod_eq_of_lt fits

/-- Sat clamps to the range of the type. -/
theorem satInt_value (ty w : Nat) (x : Int) :
    ((satInt ty w x).1 : Int) = max (intMin ty w) (min (intMax ty w) x) % 2 ^ w := by
  have range := intMin_le_intMax ty w
  unfold satInt
  by_cases below : x < intMin ty w
  · have clamp : max (intMin ty w) (min (intMax ty w) x) = intMin ty w := by omega
    rw [if_pos below, intBits_cast, clamp]
  by_cases above : intMax ty w < x
  · have clamp : max (intMin ty w) (min (intMax ty w) x) = intMax ty w := by omega
    rw [if_neg below, if_pos above, intBits_cast, clamp]
  · have clamp : max (intMin ty w) (min (intMax ty w) x) = x := by omega
    rw [if_neg below, if_neg above, intBits_cast, clamp]

/-- Sat sets S just where the value lies outside the range of the type. -/
theorem satInt_flag (ty w : Nat) (x : Int) :
    (satInt ty w x).2 = if intMin ty w ≤ x ∧ x ≤ intMax ty w then 0 else flagS := by
  unfold satInt
  by_cases below : x < intMin ty w
  · rw [if_pos below, if_neg (by omega)]
  by_cases above : intMax ty w < x
  · rw [if_neg below, if_pos above, if_neg (by omega)]
  · rw [if_neg below, if_neg above, if_pos ⟨Int.not_lt.mp below, Int.not_lt.mp above⟩]

/-! The word operations on an integer lane, an equation for each. -/

section
variable {ty : Nat} (int : isInt ty = true) (rm a b c : Nat)
include int

theorem laneOp_add_int : laneOp .add ty rm a b c = ((a + b) % 2 ^ widthOf ty, 0) := if_pos int

theorem laneOp_sub_int : laneOp .sub ty rm a b c
    = (intBits (widthOf ty) (intValue ty (widthOf ty) a - intValue ty (widthOf ty) b), 0) := if_pos int

theorem laneOp_mul_int : laneOp .mul ty rm a b c = (a * b % 2 ^ widthOf ty, 0) := if_pos int

theorem laneOp_fma_int : laneOp .fma ty rm a b c = ((c + a * b) % 2 ^ widthOf ty, 0) := if_pos int

theorem laneOp_fms_int : laneOp .fms ty rm a b c = (intBits (widthOf ty) ((c : Int) - (a * b : Nat)), 0) := if_pos int

theorem laneOp_min_int : laneOp .min ty rm a b c
    = (if intValue ty (widthOf ty) b < intValue ty (widthOf ty) a then b else a, 0) := if_pos int

theorem laneOp_max_int : laneOp .max ty rm a b c
    = (if intValue ty (widthOf ty) a < intValue ty (widthOf ty) b then b else a, 0) := if_pos int

theorem laneOp_abs_int : laneOp .abs ty rm a b c = (intBits (widthOf ty)
    (if intValue ty (widthOf ty) a < 0 then -intValue ty (widthOf ty) a else intValue ty (widthOf ty) a), 0) := if_pos int

theorem laneOp_neg_int : laneOp .neg ty rm a b c = (intBits (widthOf ty) (-intValue ty (widthOf ty) a), 0) := if_pos int

theorem laneOp_adds_int : laneOp .adds ty rm a b c
    = satInt ty (widthOf ty) (intValue ty (widthOf ty) a + intValue ty (widthOf ty) b) := if_pos int

theorem laneOp_subs_int : laneOp .subs ty rm a b c
    = satInt ty (widthOf ty) (intValue ty (widthOf ty) a - intValue ty (widthOf ty) b) := if_pos int

/-- VDIV with the two pairs of operands that R242 sets apart. -/
theorem laneOp_div_int : laneOp .div ty rm a b c
    = (if b = 0 then 2 ^ widthOf ty - 1
      else if ty < 3 ∧ intValue ty (widthOf ty) a = -(2 ^ (widthOf ty - 1)) ∧ intValue ty (widthOf ty) b = -1 then a
      else intBits (widthOf ty) (Int.tdiv (intValue ty (widthOf ty) a) (intValue ty (widthOf ty) b)), 0) := by
  refine (if_pos int).trans ?_
  simp only [Bool.and_eq_true, isSigned_iff, decide_eq_true_eq, and_assoc]
  by_cases zero : b = 0
  · rw [if_pos zero, if_pos zero]
  · rw [if_neg zero, if_neg zero]
    split <;> rfl

end

/-- VSAR fills with the sign (R242). -/
theorem laneOp_sar_value (ty rm a b c : Nat) (fits : a < 2 ^ widthOf ty) :
    ((laneOp .sar ty rm a b c).1 : Int)
      = if widthOf ty ≤ b then (if (BitVec.ofNat (widthOf ty) a).toInt < 0 then 2 ^ widthOf ty - 1 else 0)
        else (BitVec.ofNat (widthOf ty) a).toInt / 2 ^ b % 2 ^ widthOf ty := by
  have signed : intValue 0 (widthOf ty) a = (BitVec.ofNat (widthOf ty) a).toInt := intValue_of_lt (widthOf_pos ty) fits
  have ones : ((2 ^ widthOf ty - 1 : Nat) : Int) = 2 ^ widthOf ty - 1 := by
    exact_mod_cast Int.ofNat_sub (Nat.one_le_two_pow (n := widthOf ty))
  simp only [laneOp, signed]
  split
  · split
    · exact ones
    · rfl
  · exact intBits_cast ..

/-- Settles O33: each operation by its equation on an integer lane, read modulo 2^w with `intBits_cast` and clamped with `satInt_value`. -/
theorem integerLanes : Obligations.IntegerLanes := by
  unfold Obligations.IntegerLanes
  rintro ty rm a b c w integer rfl hA hB hC x y hx hy lo hi hlo hhi
  have int : isInt ty = true := decide_eq_true integer
  obtain rfl : x = intValue ty (widthOf ty) a := hx.trans (intValue_of_lt (widthOf_pos ty) hA).symm
  obtain rfl : y = intValue ty (widthOf ty) b := hy.trans (intValue_of_lt (widthOf_pos ty) hB).symm
  obtain rfl : lo = intMin ty (widthOf ty) := hlo.trans (intMin_eq ty _).symm
  obtain rfl : hi = intMax ty (widthOf ty) := hhi.trans (intMax_eq ty _).symm
  simp only [laneOp_add_int int, laneOp_sub_int int, laneOp_mul_int int, laneOp_fma_int int, laneOp_fms_int int,
    laneOp_min_int int, laneOp_max_int int, laneOp_abs_int int, laneOp_neg_int int, laneOp_adds_int int, laneOp_subs_int int,
    true_and]
  exact ⟨intBits_cast .., intBits_sub_add hC (a * b), intBits_lt .., intBits_cast .., intBits_cast ..,
    satInt_value .., satInt_flag .., satInt_value .., satInt_flag .., rfl, rfl, laneOp_sar_value ty rm a b c hA, rfl,
    intBits_cast .., rfl, laneOp_div_int int .., rfl, rfl, rfl⟩

end Sys2Proof.Claims
end
